-- ==== Sys2Proof/Word.lean ====
section
/-! DEFINITION. The word types of the block and their plainest arithmetic: widths the manual fixes
(00_scope R6; 08_memory R207; 09_nupor_model R246). -/

namespace Sys2Proof

/-- One byte (R6). -/
abbrev Byte := BitVec 8
/-- A 16-bit field: a job handle, a PC, a fault code. -/
abbrev Half := BitVec 16
/-- A 32-bit word: a binary32 bit pattern, an int32, a mask. -/
abbrev Word := BitVec 32
/-- A 64-bit register or scalar register (R246). -/
abbrev DWord := BitVec 64
/-- A counter that wraps at 2^48 (R82 and the other counter rules). -/
abbrev Ctr := BitVec 48
/-- A 256-bit register: a tile descriptor (R249). -/
abbrev TileReg := BitVec 256
/-- A 128-bit instruction word (R252). -/
abbrev InstrWord := BitVec 128
/-- A 512-bit digest or key material (R414, R419). -/
abbrev Digest := BitVec 512

end Sys2Proof
end

