-- ==== Sys2Proof/Units.lean ====
section
/-! DEFINITION. The small records and names that the commands' operands are made of: the header of a Nupor
instruction (09_nupor_model R252), the array operand fields (R256), the units an event names (01_five_levels R10),
and what the outside world supplies with a command. -/

namespace Sys2Proof

/-- An error met by the reads of one step, supplied by the outside world (R230 to R232): the device address or,
for a memory outside the address space, the index within it; the memory kind code of R232; and the number of
wrong bits in the word. -/
structure EccHit where
  addr : Nat
  kind : BitVec 4
  bits : Nat
  deriving DecidableEq, Repr

/-- The part of an instruction word that every instruction shares (R252), with the core that meets it (R10) and the
memory errors that its reads meet, which the outside world supplies (R230 to R232). -/
structure NHdr where
  core : Fin 256
  pred : BitVec 4
  pneg : Bool
  fence : Bool
  ecc : List EccHit
  deriving DecidableEq, Repr

/-- The operand fields of BSMM, BSMM2, BSMMB and BXNOR (R256). -/
structure ArrayFields where
  tdw : BitVec 5
  tda : BitVec 5
  tile : BitVec 5
  vw : BitVec 4
  va : BitVec 4
  wa : BitVec 3
  ww : BitVec 3
  passes : BitVec 2
  g : BitVec 2
  acc : Bool
  mode : BitVec 2
  sparse : BitVec 2
  deriving DecidableEq, Repr

/-- The instruction queues of the opcode map (R255, R260). -/
inductive QKind where
  | scalar | movement | array | precision | sparse | conservator | sync
  deriving DecidableEq, Repr

/-- A unit that the Foyer gates or powers up (R235, R466). -/
inductive PowerUnit where
  | bankGroup (hall : Fin 4) (group : Fin 48)
  | salon (core : Fin 256)
  | cluster (c : Fin 32)
  | stack (s : Fin 8)
  deriving DecidableEq, Repr

/-- A unit that recovers at one of the scopes of R434 and R436. -/
inductive Scope where
  | core (n : Fin 256)
  | cluster (n : Fin 32)
  | hall (n : Fin 4)
  | device
  deriving DecidableEq, Repr

/-- The writer of a register: the PCIe host, the management endpoint or firmware (R9, R484). -/
inductive Writer where
  | host | endpoint | firmware
  deriving DecidableEq, Repr

/-- A write of the function's configuration space (R339, R341, R368): Device Control with Relaxed Ordering, ID-Based Ordering and
the codes of the two sizes; the size of BAR2 as a power of two; the AER status cleared; an address-association range of a
selective IDE stream over a BAR (0, 2 or 4), or over host addresses. -/
inductive CfgWrite where
  | deviceControl (relaxed ido : Bool) (mps mrrs : BitVec 3)
  | bar2Size (log2 : Nat)
  | aerClear
  | ideBar (stream : Fin 9) (bar base len : Nat)
  | ideHost (stream : Fin 9) (base len : Nat)
  deriving DecidableEq, Repr

/-- Where a write of the host goes: a register of BAR0, the MSI-X structures of BAR4 (R341), or configuration space. -/
inductive RegSpace where
  | bar0 (off : Nat)
  | bar4 (off : Nat)
  | config (w : CfgWrite)
  deriving DecidableEq, Repr

/-- A host read of BAR2: its bytes, and the memory errors that it meets (R232, R361). -/
structure BarRead where
  len : Nat
  ecc : List EccHit
  deriving DecidableEq, Repr

/-- The IDE stream that IDE_KM sets up, and the SPDM session over which it does (R368). -/
structure IdeKeys where
  stream : Fin 9
  session : Fin 4
  deriving DecidableEq, Repr

/-- What a cable's management memory answers (R482). -/
inductive Medium where
  | copper | active | unsupported | noAnswer
  deriving DecidableEq, Repr

/-- The condition that takes a link Down (R377), with the PLL and Inventory causes of R455 and R446. -/
inductive DownCause where
  | laneLoss | fecErrors | tagErrors | resends | pll | inventory | disabled
  deriving DecidableEq, Repr

/-- The packet header of R382, field by field, and what an ORDERED ADD needs beside it. -/
structure PktHdr where
  dest : BitVec 12
  type : BitVec 4
  src : BitVec 12
  hops : BitVec 4
  seq : Word
  peerset : Word
  epoch : Word
  window : Half
  job : Half
  offset : BitVec 40
  bytes : BitVec 9
  atype : Bool
  ftz : Bool
  spf : BitVec 4
  fmt : BitVec 6
  index : BitVec 12
  count : BitVec 12
  status : Half
  intSat : Bool
  nanSeen : Bool
  /-- OFFSET and LENGTH of the whole contribution of an ORDERED ADD (R390): R382 gives them no bits
  (notes/assumptions/30.md). -/
  ordOff : BitVec 40
  ordLen : Word
  deriving DecidableEq, Repr

/-- The data of a packet, and the memory errors that its landing meets (R232). -/
structure PktData where
  bytes : List Byte
  ecc : List EccHit
  deriving DecidableEq, Repr

/-- The header of a link flit (R374): sequence and acknowledgement, NAK, IDLE, and a credit return: class code and flits. -/
structure FlitHdr where
  fseq : Half
  ackseq : Half
  nak : Bool
  idle : Bool
  cls : BitVec 6
  credits : BitVec 10
  deriving DecidableEq, Repr

/-- A firmware image that the host offers (R410, R412): the first of the checks 1 to 3 that it fails, if any, less one; its
SVN, its version and its SHA-512 digest. -/
structure ImageCheck where
  fail : Option (Fin 3)
  svn : BitVec 8
  version : Word
  digest : BitVec 512
  deriving DecidableEq, Repr

/-- A request carried by SPDM for a key (R419): the fields as their bytes hold them. -/
structure KeyReq where
  domain : Half
  handle : Word
  flags : Byte
  reserved : BitVec 56
  material : Digest
  deriving DecidableEq, Repr

/-- One lane of the input and temperature readings that an evaluation samples (R460, R467). -/
structure PowerSample where
  p1 : Nat
  p100 : Nat
  volt4 : Nat
  amp4 : Nat
  deriving DecidableEq, Repr

end Sys2Proof
end

