-- ==== Sys2Proof/Syntax.lean ====
section
/-! DEFINITION. The commands of the block: one constructor per row of the command table. The 53 Nupor instructions
carry the operand fields of 10_nupor_reference; the events carry the unit they happen to and what the outside world
supplies with them (a measurement, a verification outcome, a random draw, bytes of host memory). -/

namespace Sys2Proof

/-- The commands. -/
inductive Instr where
  -- Control (R276 to R281)
  | nop (h : NHdr)
  | halt (h : NHdr)
  | jmp (h : NHdr) (a : BitVec 5)
  | br (h : NHdr) (off : BitVec 32)
  | loop (h : NHdr) (lc : BitVec 5) (b : BitVec 5) (src : Bool) (count : BitVec 32) (exit : BitVec 32)
  | endl (h : NHdr) (lc : BitVec 5)
  | setp (h : NHdr) (a b c : BitVec 5) (cmp : BitVec 4) (src : Bool) (imm : BitVec 64)
  | movi (h : NHdr) (a : BitVec 5) (imm : BitVec 64)
  | alu (h : NHdr) (a b c : BitVec 5) (op : BitVec 6) (src : Bool) (imm : BitVec 64)
  | ldtd (h : NHdr) (a b : BitVec 5) (off : BitVec 48)
  | tdmod (h : NHdr) (a b : BitVec 5) (field : BitVec 4) (src : Bool) (imm : BitVec 64)
  -- Movement (R282 to R288)
  | xload (h : NHdr) (a b c : BitVec 5) (setFull setEmpty scl : Bool)
  | xstore (h : NHdr) (a b c : BitVec 5) (setFull setEmpty scl : Bool)
  | xcopy (h : NHdr) (a b c : BitVec 5) (setFull setEmpty : Bool) (off : BitVec 48)
  | xfill (h : NHdr) (a b c : BitVec 5) (setFull : Bool) (off : BitVec 48)
  | vload (h : NHdr) (a c : BitVec 5) (kind : Bool) (slot : BitVec 4) (passes : BitVec 2) (d512 : Bool)
      (off : BitVec 32)
  -- Array (R256 to R258, R289 to R291)
  | bsmm (h : NHdr) (f : ArrayFields)
  | bsmm2 (h : NHdr) (f : ArrayFields)
  | bsmmb (h : NHdr) (f : ArrayFields)
  | bxnor (h : NHdr) (f : ArrayFields)
  | azero (h : NHdr) (units : BitVec 32)
  | adrain (h : NHdr) (a b tile : BitVec 5) (oatt : Bool) (mode : BitVec 2)
  -- Precision (R292 to R295)
  | rescale (h : NHdr) (a b c : BitVec 5) (tbl int setFull : Bool) (table : BitVec 48)
  | range (h : NHdr) (a b : BitVec 5)
  | tempo (h : NHdr) (a : BitVec 5) (sel : Bool) (tensor : BitVec 12)
  | outsplit (h : NHdr) (a b c : BitVec 5) (setFull : Bool)
  -- Sparse and predict (R296 to R301)
  | qprep (h : NHdr) (a b : BitVec 5) (first : BitVec 32) (count : BitVec 16)
  | docent (h : NHdr) (a b : BitVec 5) (slot : BitVec 10)
  | gathera (h : NHdr) (a b c : BitVec 5)
  | catadd (h : NHdr) (a b : BitVec 5) (tensor : BitVec 12) (stride : BitVec 32)
  | catflush (h : NHdr) (tensor : BitVec 12)
  | sortnnz (h : NHdr) (a b : BitVec 5) (off : BitVec 48)
  | deacc (h : NHdr) (a b c : BitVec 5) (mask : Bool)
  -- Conservator (R302 to R307)
  | cvec (h : NHdr) (a b c : BitVec 5) (op : BitVec 6) (src : Bool) (imm : BitVec 32)
  | cred (h : NHdr) (a b : BitVec 5) (op : BitVec 4)
  | cmm (h : NHdr) (a b c : BitVec 5) (out : Bool) (list : BitVec 48)
  | cfunc (h : NHdr) (a b : BitVec 5) (fn : BitVec 5)
  | cconv (h : NHdr) (a b c : BitVec 5) (scl : Bool)
  -- Synchronisation and remote (R308 to R313)
  | waitf (h : NHdr) (a : BitVec 5) (off : BitVec 48)
  | waite (h : NHdr) (a : BitVec 5) (off : BitVec 48)
  | setf (h : NHdr) (a : BitVec 5) (state : Bool) (off : BitVec 48)
  | barrier (h : NHdr) (id : BitVec 8) (mask : BitVec 64)
  | signal (h : NHdr) (a : BitVec 5) (event : BitVec 16)
  | wopen (h : NHdr) (a b : BitVec 5) (off : BitVec 48)
  | wclose (h : NHdr) (a : BitVec 5)
  | cput (h : NHdr) (a b : BitVec 5) (off : BitVec 48)
  | cget (h : NHdr) (a b : BitVec 5) (off : BitVec 48)
  | cadd (h : NHdr) (a b : BitVec 5) (off : BitVec 48)
  | ralloc (h : NHdr) (a b : BitVec 5)
  | rfree (h : NHdr) (a : BitVec 5)
  -- System (R314)
  | csrr (h : NHdr) (a : BitVec 5) (csr : BitVec 12)
  | csrw (h : NHdr) (a : BitVec 5) (csr : BitVec 12)
  | trapcfg (h : NHdr) (int nan : Bool)
  -- Caller and engines
  | instructionAccept (core : Fin 256)
  | instructionRetire (core : Fin 256) (queue : QKind) (ecc : List EccHit)
  | arrayRetire (core : Fin 256)
  | chunkEnter (core : Fin 256)
  | timingErrorReplay (core : Fin 256) (engines : List (Fin 16)) (fails : List Nat)
  | provenanceSampleDraw (core : Fin 256) (chunk : Nat) (engine : Fin 16) (quarter : Fin 4)
  | checkSliceCompare (core : Fin 256) (errors : List (Fin 32 × Fin 16 × Fin 8))
  -- Curator and layers
  | tileDispatch (core : Fin 256) (item : Nat) (weightScale : Word) (tds : List TileReg)
  | epilogueDispatch (core : Fin 256) (item : Nat) (weightScale : Word) (tds : List TileReg)
  | layerStart (handle : Half)
  | stepDone (cluster : Fin 32) (tensor : Option (BitVec 12))
  | tempoPinWrite (slot : BitVec 12) (value : BitVec 64) (writer : Writer)
  | docentSampleDraw (slot : BitVec 10) (core : Fin 256) (element : Nat)
  | docentSampleResult (slot : BitVec 10) (cluster : Fin 32) (engine : Option (Fin 8))
  | docentWindowClose (slot : BitVec 10)
  | tagTimeout (core : Fin 256)
  | ceLogWindow (hall : Fin 4)
  | unitPowerUp (unit : PowerUnit)
  | idleGate (unit : PowerUnit)
  -- Host interface and jobs
  | doorbellPointer (ring : BitVec 14) (pointer : Word)
  | doorbellKill (ring : BitVec 14) (jobId : BitVec 64)
  | ringEnable (ring : BitVec 14) (ctl : BitVec 64)
  | ringDisable (ring : BitVec 14) (ctl : BitVec 64)
  | jobFetch (ring : BitVec 14) (hm : List Host.Cell)
  | loaderStaticPhase (handle : Half) (hm : List Host.Cell)
  | keySlotLoad (handle : Half)
  | loaderCopyPhase (handle : Half) (hm : List Host.Cell)
  | jobStart (handle : Half)
  | jobComplete (handle : Half)
  | faultReport (count : Nat)
  | coalesceTimeout (ring : BitVec 14)
  | scrubComplete (handle : Half)
  | hbmPageScrubDone (page : Nat)
  | grantSyncRead
  | mbxOpen (cmd : BitVec 64)
  | mbxRelease (cmd : BitVec 64)
  | mbxCmdDone
  | mailboxRead (off : Nat) (read : BarRead)
  | bar2Write (off : Nat)
  | registerWrite (at_ : RegSpace) (value : BitVec 64) (size : Nat) (writer : Writer)
  | flr
  | flrComplete
  | d3hotReturn
  | ideLost (stream : Fin 9)
  | ideSecure (keys : IdeKeys)
  -- Security
  | keyInstall (req : KeyReq) (session : Fin 4) (secured : Bool)
  | keyRemove (domain : Half) (handle : Word) (session : Fin 4) (secured : Bool)
  | jobReport (ring : Half) (jobId : BitVec 64) (reserved : Word) (nonce : BitVec 256) (session : Fin 4) (secured : Bool)
  | getMeasurements (nonce : BitVec 256)
  | challenge (nonce : BitVec 256)
  | fwupdWrite (cmd : BitVec 64) (check : ImageCheck) (flashOk : Bool)
  | svnCommit
  | testGo (writer : Writer) (scope : BitVec 2) (testEn good : Bool)
  | profileCommit (writer : Writer) (sigOk flashOk : Bool)
  -- Power, reset and start-up
  | powerUp (modAddr : BitVec 3)
  | powerLoss
  | modReset
  | perst
  | bootStart (slotA slotB : Option (Fin 3)) (factoryOk profileOk : Bool) (fails : List (BitVec 11 × Word))
  | ready
  | controllerEvaluation (samples : PowerSample) (diodes : List (BitVec 8))
  | voltageLoopWindow (core : Fin 256)
  | powerClamp
  | clampRelease
  | thermalTrip (diode : Fin 64)
  | thermalTripClear
  | refclkLoss
  | inputLatchOff (cause : BitVec 4)
  | powerInput (cause : BitVec 4)
  | inputRestored
  -- Recovery and Inventory
  | watchdogExpiry (cluster : Option (Fin 32))
  | recoveryStart (scope : Scope)
  | recoveryEnd (scope : Scope) (passed : Bool)
  | inventorySliceDue (target : BitVec 11)
  | inventoryForce (target : BitVec 11)
  | inventorySliceEnd (target : BitVec 11) (signature : BitVec 64)
  -- Module: cables
  | cablePresent (cable : Fin 8)
  | cableMemoryRead (cable : Fin 8) (medium : Medium)
  | cableRemoved (cable : Fin 8)
  | efuseTrip (cable : Fin 8)
  | efuseRetry (cable : Fin 8) (holds : Bool)
  -- Links and Courier
  | linkTrainingDone (link : Fin 32) (lanes : List Nat) (polarity : BitVec 16)
  | linkAuthenticate (link : Fin 32) (peer : Option (BitVec 12 × BitVec 5))
  | linkSoakEnd (link : Fin 32)
  | linkDownEvent (link : Fin 32) (cause : DownCause)
  | linkRetrain (link : Fin 32)
  | linkRekey (link : Fin 32) (tx : Bool)
  | flitReceive (link : Fin 32) (hdr : FlitHdr) (fecOk tagOk : Bool)
  | nakResend (link : Fin 32) (fseq : Half)
  | packetArrival (link : Fin 32) (hdr : PktHdr) (data : PktData)
  | packetForward (link : Fin 32) (hdr : PktHdr) (data : List Byte)
  | completionReceive (link : Fin 32) (hdr : PktHdr)
  | noRouteReceive (link : Fin 32) (hdr : PktHdr)
  | e2eTimeout (hall : Fin 4)
  | heartbeatSend
  | reachabilityTest
  -- Management endpoint
  | timePps
  | ppsSyncLost
  | timeSet (value : BitVec 64)
  | coolantSample (state : Fin 3) (reading : BitVec 11)
  | leakSample (a b : BitVec 2)
  | mgmtAccess (bytes : List Byte) (sigOk testEn flashOk : Bool)
  -- Visitor Book
  | vbCommit
  | vbDataRead (wide : Bool)
  | dropPacket
  | vbWmWrite (value : BitVec 64)
  -- Further events
  | heartbeatReceive (link : Fin 32) (hdr : PktHdr) (data : List Byte)
  | getDataReceive (link : Fin 32) (hdr : PktHdr) (data : List Byte)
  | refclkRestored
  | deviceRecoveryTimeout
  | inputWarn (warn : Bool)
  | spdmSessionStart (session : Fin 4)
  | dynamicAddressAssign (addr : BitVec 7)
  | dynamicAddressReset
  deriving DecidableEq, Repr

end Sys2Proof
end

