-- ==== Sys2Proof/Decode.lean ====
section
/-! DEFINITION. Decoding. The command table gives no bits, so no table word spells a command. The Nupor instruction
words of the Callers (09_nupor_model R252 to R256, 10_nupor_reference) are decoded and encoded here. -/

namespace Sys2Proof

/-- The command that a table word spells: the table gives no row any bits, so none. -/
def decodeTableWord (_nbits _w : Nat) : Option Instr := none

namespace Nupor

/-- The `n` bits of a word from bit `lo`. -/
def fld (w : InstrWord) (lo n : Nat) : BitVec n := w.extractLsb' lo n
def bit (w : InstrWord) (lo : Nat) : Bool := w.getLsbD lo

/-- The shared header of a word met by `core` (R252). -/
def hdr (core : Fin 256) (w : InstrWord) : NHdr :=
  { core := core, pred := fld w 8 4, pneg := bit w 12, fence := bit w 13, ecc := [] }

def regA (w : InstrWord) : BitVec 5 := fld w 16 5
def regB (w : InstrWord) : BitVec 5 := fld w 21 5
def regC (w : InstrWord) : BitVec 5 := fld w 26 5
def imm48 (w : InstrWord) : BitVec 48 := fld w 64 48
def imm64 (w : InstrWord) : BitVec 64 := fld w 64 64
def imm32 (w : InstrWord) : BitVec 32 := fld w 64 32

/-- The array fields (R256). -/
def arrayFields (w : InstrWord) : ArrayFields :=
  { tdw := regA w, tda := regB w, tile := regC w, vw := fld w 31 4, va := fld w 35 4, wa := fld w 39 3,
    ww := fld w 42 3, passes := fld w 45 2, g := fld w 47 2, acc := bit w 49, mode := fld w 50 2, sparse := fld w 52 2 }

/-- The instruction of a word (R255), none for a reserved opcode. Reserved bits are ignored (R7, R274). -/
def decodeWord (core : Fin 256) (w : InstrWord) : Option Instr :=
  let h := hdr core w
  let a := regA w
  let b := regB w
  let c := regC w
  match (fld w 0 8).toNat with
  | 0x00 => some (.nop h)
  | 0x01 => some (.halt h)
  | 0x02 => some (.jmp h a)
  | 0x03 => some (.br h (imm32 w))
  | 0x04 => some (.loop h a b (bit w 31) (imm32 w) (fld w 96 32))
  | 0x05 => some (.endl h a)
  | 0x06 => some (.setp h a b c (fld w 31 4) (bit w 35) (imm64 w))
  | 0x07 => some (.movi h a (imm64 w))
  | 0x08 => some (.alu h a b c (fld w 31 6) (bit w 37) (imm64 w))
  | 0x09 => some (.ldtd h a b (imm48 w))
  | 0x0A => some (.tdmod h a b (fld w 31 4) (bit w 35) (imm64 w))
  | 0x10 => some (.xload h a b c (bit w 31) (bit w 32) (bit w 33))
  | 0x11 => some (.xstore h a b c (bit w 31) (bit w 32) (bit w 33))
  | 0x12 => some (.xcopy h a b c (bit w 31) (bit w 32) (imm48 w))
  | 0x13 => some (.xfill h a b c (bit w 31) (imm48 w))
  | 0x14 => some (.vload h a c (bit w 31) (fld w 32 4) (fld w 36 2) (bit w 38) (imm32 w))
  | 0x30 => some (.bsmm h (arrayFields w))
  | 0x31 => some (.bsmm2 h (arrayFields w))
  | 0x32 => some (.bsmmb h (arrayFields w))
  | 0x33 => some (.bxnor h (arrayFields w))
  | 0x34 => some (.azero h (imm32 w))
  | 0x35 => some (.adrain h a b c (bit w 31) (fld w 50 2))
  | 0x40 => some (.rescale h a b c (bit w 31) (bit w 32) (bit w 33) (imm48 w))
  | 0x41 => some (.range h a b)
  | 0x42 => some (.tempo h a (bit w 31) (fld w 64 12))
  | 0x43 => some (.outsplit h a b c (bit w 31))
  | 0x50 => some (.qprep h a b (imm32 w) (fld w 96 16))
  | 0x51 => some (.docent h a b (fld w 64 10))
  | 0x52 => some (.gathera h a b c)
  | 0x53 => some (.catadd h a b (fld w 64 12) (fld w 96 32))
  | 0x54 => some (.catflush h (fld w 64 12))
  | 0x55 => some (.sortnnz h a b (imm48 w))
  | 0x56 => some (.deacc h a b c (bit w 31))
  | 0x60 => some (.cvec h a b c (fld w 31 6) (bit w 37) (imm32 w))
  | 0x61 => some (.cred h a b (fld w 31 4))
  | 0x62 => some (.cmm h a b c (bit w 31) (imm48 w))
  | 0x63 => some (.cfunc h a b (fld w 31 5))
  | 0x64 => some (.cconv h a b c (bit w 33))
  | 0x70 => some (.waitf h a (imm48 w))
  | 0x71 => some (.waite h a (imm48 w))
  | 0x72 => some (.setf h a (bit w 31) (imm48 w))
  | 0x73 => some (.barrier h (fld w 31 8) (imm64 w))
  | 0x74 => some (.signal h a (fld w 64 16))
  | 0x75 => some (.wopen h a b (imm48 w))
  | 0x76 => some (.wclose h a)
  | 0x77 => some (.cput h a b (imm48 w))
  | 0x78 => some (.cget h a b (imm48 w))
  | 0x79 => some (.cadd h a b (imm48 w))
  | 0x7A => some (.ralloc h a b)
  | 0x7B => some (.rfree h a)
  | 0xF0 => some (.csrr h a (fld w 64 12))
  | 0xF1 => some (.csrw h a (fld w 64 12))
  | 0xF2 => some (.trapcfg h (bit w 31) (bit w 32))
  | _ => none

def b1 (b : Bool) : BitVec 1 := BitVec.ofBool b

/-- A word from its parts: IMM above bits [63:16] above the header and the opcode (R252, R254). -/
def word (op : BitVec 8) (h : NHdr) (mid : BitVec 48) (imm : BitVec 64) : InstrWord :=
  imm ++ mid ++ (0#2 ++ b1 h.fence ++ b1 h.pneg ++ h.pred ++ op : BitVec 16)

/-- Bits [63:16]: the mode fields above the registers C, B and A. -/
def mid (m : BitVec 33) (c b a : BitVec 5) : BitVec 48 := m ++ c ++ b ++ a

/-- The array fields in bits [63:16] (R256). -/
def arrayMid (f : ArrayFields) : BitVec 48 :=
  mid (0#10 ++ f.sparse ++ f.mode ++ b1 f.acc ++ f.g ++ f.passes ++ f.ww ++ f.wa ++ f.va ++ f.vw) f.tile f.tda f.tdw

/-- The word of an instruction (R252 to R256 and the layout tables of 10_nupor_reference); none for an event. -/
def encodeWord (i : Instr) : Option InstrWord :=
  match i with
  | .nop h => some (word 0x00 h 0 0)
  | .halt h => some (word 0x01 h 0 0)
  | .jmp h a => some (word 0x02 h (mid 0 0 0 a) 0)
  | .br h off => some (word 0x03 h 0 (0#32 ++ off))
  | .loop h lc b src count exit => some (word 0x04 h (mid (0#32 ++ b1 src) 0 b lc) (exit ++ count))
  | .endl h lc => some (word 0x05 h (mid 0 0 0 lc) 0)
  | .setp h a b c cmp src imm => some (word 0x06 h (mid (0#28 ++ b1 src ++ cmp) c b a) imm)
  | .movi h a imm => some (word 0x07 h (mid 0 0 0 a) imm)
  | .alu h a b c op src imm => some (word 0x08 h (mid (0#26 ++ b1 src ++ op) c b a) imm)
  | .ldtd h a b off => some (word 0x09 h (mid 0 0 b a) (0#16 ++ off))
  | .tdmod h a b field src imm => some (word 0x0A h (mid (0#28 ++ b1 src ++ field) 0 b a) imm)
  | .xload h a b c sf se scl => some (word 0x10 h (mid (0#30 ++ b1 scl ++ b1 se ++ b1 sf) c b a) 0)
  | .xstore h a b c sf se scl => some (word 0x11 h (mid (0#30 ++ b1 scl ++ b1 se ++ b1 sf) c b a) 0)
  | .xcopy h a b c sf se off => some (word 0x12 h (mid (0#31 ++ b1 se ++ b1 sf) c b a) (0#16 ++ off))
  | .xfill h a b c sf off => some (word 0x13 h (mid (0#32 ++ b1 sf) c b a) (0#16 ++ off))
  | .vload h a c kind slot passes d512 off =>
    some (word 0x14 h (mid (0#25 ++ b1 d512 ++ passes ++ slot ++ b1 kind) c 0 a) (0#32 ++ off))
  | .bsmm h f => some (word 0x30 h (arrayMid f) 0)
  | .bsmm2 h f => some (word 0x31 h (arrayMid f) 0)
  | .bsmmb h f => some (word 0x32 h (arrayMid f) 0)
  | .bxnor h f => some (word 0x33 h (arrayMid f) 0)
  | .azero h units => some (word 0x34 h 0 (0#32 ++ units))
  | .adrain h a b tile oatt mode => some (word 0x35 h (mid (0#12 ++ mode ++ 0#18 ++ b1 oatt) tile b a) 0)
  | .rescale h a b c tbl int sf table =>
    some (word 0x40 h (mid (0#30 ++ b1 sf ++ b1 int ++ b1 tbl) c b a) (0#16 ++ table))
  | .range h a b => some (word 0x41 h (mid 0 0 b a) 0)
  | .tempo h a sel t => some (word 0x42 h (mid (0#32 ++ b1 sel) 0 0 a) (0#52 ++ t))
  | .outsplit h a b c sf => some (word 0x43 h (mid (0#32 ++ b1 sf) c b a) 0)
  | .qprep h a b first count => some (word 0x50 h (mid 0 0 b a) (0#16 ++ count ++ first))
  | .docent h a b slot => some (word 0x51 h (mid 0 0 b a) (0#54 ++ slot))
  | .gathera h a b c => some (word 0x52 h (mid 0 c b a) 0)
  | .catadd h a b t stride => some (word 0x53 h (mid 0 0 b a) (stride ++ 0#20 ++ t))
  | .catflush h t => some (word 0x54 h 0 (0#52 ++ t))
  | .sortnnz h a b off => some (word 0x55 h (mid 0 0 b a) (0#16 ++ off))
  | .deacc h a b c mask => some (word 0x56 h (mid (0#32 ++ b1 mask) c b a) 0)
  | .cvec h a b c op src imm => some (word 0x60 h (mid (0#26 ++ b1 src ++ op) c b a) (0#32 ++ imm))
  | .cred h a b op => some (word 0x61 h (mid (0#29 ++ op) 0 b a) 0)
  | .cmm h a b c out list => some (word 0x62 h (mid (0#32 ++ b1 out) c b a) (0#16 ++ list))
  | .cfunc h a b fn => some (word 0x63 h (mid (0#28 ++ fn) 0 b a) 0)
  | .cconv h a b c scl => some (word 0x64 h (mid (0#30 ++ b1 scl ++ 0#2) c b a) 0)
  | .waitf h a off => some (word 0x70 h (mid 0 0 0 a) (0#16 ++ off))
  | .waite h a off => some (word 0x71 h (mid 0 0 0 a) (0#16 ++ off))
  | .setf h a state off => some (word 0x72 h (mid (0#32 ++ b1 state) 0 0 a) (0#16 ++ off))
  | .barrier h id mask => some (word 0x73 h (mid (0#25 ++ id) 0 0 0) mask)
  | .signal h a event => some (word 0x74 h (mid 0 0 0 a) (0#48 ++ event))
  | .wopen h a b off => some (word 0x75 h (mid 0 0 b a) (0#16 ++ off))
  | .wclose h a => some (word 0x76 h (mid 0 0 0 a) 0)
  | .cput h a b off => some (word 0x77 h (mid 0 0 b a) (0#16 ++ off))
  | .cget h a b off => some (word 0x78 h (mid 0 0 b a) (0#16 ++ off))
  | .cadd h a b off => some (word 0x79 h (mid 0 0 b a) (0#16 ++ off))
  | .ralloc h a b => some (word 0x7A h (mid 0 0 b a) 0)
  | .rfree h a => some (word 0x7B h (mid 0 0 0 a) 0)
  | .csrr h a csr => some (word 0xF0 h (mid 0 0 0 a) (0#52 ++ csr))
  | .csrw h a csr => some (word 0xF1 h (mid 0 0 0 a) (0#52 ++ csr))
  | .trapcfg h int nan => some (word 0xF2 h (mid (0#31 ++ b1 nan ++ b1 int) 0 0 0) 0)
  | _ => none

end Nupor

end Sys2Proof
end

