-- ==== Sys2Proof/Config.lean ====
section
/-! DEFINITION. What one module fixes (fuses, straps, ROM constants) and the FREE VALUES: values the manual leaves
open. Every constant here is opaque, so nothing can be proved of its value (notes/assumptions/2.md). -/

namespace Sys2Proof.Config

/-- HOST.IDENT.REV, the silicon revision (R344). -/
opaque rev : BitVec 8
/-- 1 for ZX4-768-LD, 0 for ZX4-768-LC (R1, SEC.STATUS.SCAN_FUSED of R431). -/
opaque isLD : Bool
/-- HOST.SERIAL, fused (R344). -/
opaque serial : BitVec 64
/-- The boot ROM version (R431). -/
opaque romVersion : BitVec 8
/-- The fused voltage floors FLOOR_DIV4, DIV5, DIV6 and DIV8 (R85). -/
opaque floorDiv4 : BitVec 6
opaque floorDiv5 : BitVec 6
opaque floorDiv6 : BitVec 6
opaque floorDiv8 : BitVec 6
/-- The fused power ceilings (R464, R471): the manual shows 1,600 W, 2,000 W and 42 A as the fused values. -/
opaque sustainedW : BitVec 11
opaque transientW : BitVec 11
opaque currentA : BitVec 8
/-- The PCIe width in lanes and the rate code that the link trains to (R340, R344). -/
opaque pcieWidth : BitVec 5
opaque pcieRate : BitVec 4
/-- A byte of a job's HBM page that nothing has written (R241): it may differ from run to run. -/
opaque hbmByte : Nat → Nat → BitVec 8
/-- A byte of host memory that the model has not been told of (notes/assumptions/4.md). -/
opaque hostByte : Nat → Nat → BitVec 8
/-- The CCLK that passed in a core beyond those that its instructions and HCLK show (R272, notes/assumptions/6.md). -/
opaque ccycle : Nat → BitVec 48
/-- The elementary functions that R306 fixes only within 2 ulp: function code, operand bit pattern. -/
opaque cfunc : BitVec 5 → BitVec 32 → BitVec 32
/-- The digests of the boot ROM code and of the factory defaults page (R414). -/
opaque romDigest : BitVec 512
opaque factoryDigest : BitVec 512
/-- SHA-512 of a byte string (R414, R417). -/
opaque sha512 : List (BitVec 8) → BitVec 512
/-- The Ed25519 signature of the device identity key over a byte string (R416, R418). -/
opaque sign : List (BitVec 8) → BitVec 512
/-- A nonce that the device draws (R428). -/
opaque nonce : Nat → BitVec 128
/-- The expected signature that the boot ROM holds for a kind of Inventory target (R446). -/
opaque bistSignature : Nat → BitVec 32
/-- The cause codes of events 0x1070 and 0x1030 (R489), which the manual does not number: by source of ALERT_N (0 to 6) or
other module condition, and by cause of a link's change of state. -/
opaque moduleCause : Nat → BitVec 64
opaque linkCause : Nat → BitVec 64
/-- REGION.TAG_TIMEOUT.LIMIT of another device of the fabric, in µs (R229). -/
opaque peerTagLimit : Nat → BitVec 32
/-- A value that the manual leaves open where the machine goes on: the draw number names the place. -/
opaque openWord : Nat → BitVec 32

end Sys2Proof.Config
end

