-- ==== Sys2Proof/Machine/Bits.lean ====
section
/-! DEFINITION. Bit fields, byte order and small list helpers (00_scope R6, the notation table). -/

namespace Sys2Proof.Machine

/-- The `w` bits of `v` from bit `lo`, as a number. -/
def bitsOf (v lo w : Nat) : Nat := v / 2 ^ lo % 2 ^ w

/-- Bit `i` of `v`. -/
def bitAt (v i : Nat) : Bool := decide (v / 2 ^ i % 2 = 1)

/-- `v` with the `w` bits from `lo` replaced by `x`. -/
def bitsPut (v lo w x : Nat) : Nat := v - bitsOf v lo w * 2 ^ lo + x % 2 ^ w * 2 ^ lo

/-- Field of a 64-bit register. -/
def fget (v : DWord) (lo w : Nat) : Nat := bitsOf v.toNat lo w

/-- A 64-bit register with one field replaced. -/
def fput (v : DWord) (lo w x : Nat) : DWord := BitVec.ofNat 64 (bitsPut v.toNat lo w x)

/-- The number that little-endian bytes spell (R6). -/
def leNat : List Byte → Nat
  | [] => 0
  | b :: t => b.toNat + 256 * leNat t

/-- `n` little-endian bytes of a number (R6). -/
def leBytes : Nat → Nat → List Byte
  | 0, _ => []
  | n + 1, v => BitVec.ofNat 8 v :: leBytes n (v / 256)

/-- Bytes as cells from address `a` on. -/
def cellsAt (a : Nat) : List Byte → List (Nat × Byte)
  | [] => []
  | b :: t => (a, b) :: cellsAt (a + 1) t

/-- The addresses of the 64-byte lines that hold `len` bytes from `a` (R211). -/
def linesOf (a len : Nat) : List Nat :=
  if len = 0 then [] else (List.range ((a + len - 1) / 64 - a / 64 + 1)).map (fun i => (a / 64 + i) * 64)

/-- Cuts a list into pieces of `k`, at most `fuel` pieces. -/
def piecesOf {α : Type} (k : Nat) : Nat → List α → List (List α)
  | 0, _ => []
  | _ + 1, [] => []
  | fuel + 1, l => l.take k :: piecesOf k fuel (l.drop k)

/-- Rounding up a quotient. -/
def ceilDiv (a b : Nat) : Nat := (a + b - 1) / b

/-- Sign extension of a `w`-bit number to an integer. -/
def signExt (v w : Nat) : Int := if 2 ^ (w - 1) ≤ v % 2 ^ w then ((v % 2 ^ w : Nat) : Int) - 2 ^ w else (v % 2 ^ w : Nat)

/-- Keeps the first of equal elements. -/
def dedupNat : List Nat → List Nat
  | [] => []
  | x :: t => x :: (dedupNat t).filter (fun y => y != x)

/-- Applies `f` to the elements in order, from a start value. -/
def foldOver {α β : Type} (f : β → α → β) : β → List α → β
  | b, [] => b
  | b, x :: t => foldOver f (f b x) t

/-- Inserts a number into an ascending list without repeats. -/
def insertNat (x : Nat) : List Nat → List Nat
  | [] => [x]
  | y :: t => if x < y then x :: y :: t else if x = y then y :: t else y :: insertNat x t

/-- The number of one bits of a `w`-bit number. -/
def popBits (w v : Nat) : Nat := ((List.range w).filter (fun i => bitAt v i)).length

end Sys2Proof.Machine
end

