-- ==== Sys2Proof/Machine/Num.lean ====
section
/-! DEFINITION. Exact values and the single rounding rule (02_number_formats R25 to R38, R41, R46, R48): every
conversion works on an exact value and rounds once, to nearest with ties to even. -/

namespace Sys2Proof.Machine

/-- An exact value of a source element (R32, R33): NaN, an infinity, or plus or minus `m` times 2^`e`. -/
inductive Val where
  | nan
  | inf (neg : Bool)
  | fin (neg : Bool) (m : Nat) (e : Int)
  deriving DecidableEq, Repr

/-- `num / den` rounded to the nearest natural number, ties to even (R33). -/
def divRNE (num den : Nat) : Nat :=
  let q := num / den
  let r := num % den
  if den < 2 * r ∨ (2 * r = den ∧ q % 2 = 1) then q + 1 else q

/-- `m * 2^e` as a fraction of naturals. -/
def scaleFrac (m : Nat) (e : Int) : Nat × Nat :=
  if 0 ≤ e then (m * 2 ^ e.toNat, 1) else (m, 2 ^ (-e).toNat)

/-- floor(log2 (num / den)) for positive `num` and `den`. -/
def floorLog2 (num den : Nat) : Int :=
  let k : Int := (Nat.log2 num : Int) - (Nat.log2 den : Int)
  let f := scaleFrac den k
  if f.1 ≤ num * f.2 then k else k - 1

/-- The fraction num/den times 2^e. -/
def shiftFrac (num den : Nat) (e : Int) : Nat × Nat :=
  if 0 ≤ e then (num * 2 ^ e.toNat, den) else (num, den * 2 ^ (-e).toNat)

/-- (-1)^`neg` times `num / den` rounded to binary32 under RNE with the subnormal range in place (R41). -/
def roundF32 (neg : Bool) (num den : Nat) : Word :=
  let sign : Nat := if neg then 2 ^ 31 else 0
  if num = 0 then BitVec.ofNat 32 sign
  else
    let e := max (floorLog2 num den) (-126)
    let f := shiftFrac num den (23 - e)
    let n := divRNE f.1 f.2
    let bits := (e + 126).toNat * 2 ^ 23 + n
    BitVec.ofNat 32 (sign + min bits 0x7F800000)

/-- The canonical binary32 NaN (R32). -/
def f32NaN : Word := 0x7FC00000#32

/-- Infinity with a sign. -/
def f32Inf (neg : Bool) : Word := if neg then 0xFF800000#32 else 0x7F800000#32

/-- A binary32 pattern as an exact value. -/
def f32Val (b : Word) : Val :=
  let x := b.toNat
  let neg := decide (2 ^ 31 ≤ x)
  let e : Nat := x / 2 ^ 23 % 256
  let f : Nat := x % 2 ^ 23
  if e = 255 then (if f = 0 then .inf neg else .nan)
  else if e = 0 then .fin neg f (-149)
  else .fin neg (2 ^ 23 + f) ((e : Int) - 150)

/-- An exact value rounded once to binary32. -/
def valF32 (v : Val) : Word :=
  match v with
  | .nan => f32NaN
  | .inf neg => f32Inf neg
  | .fin neg m e => let f := scaleFrac m e; roundF32 neg f.1 f.2

def f32IsNaN (b : Word) : Bool := decide (f32Val b = .nan)

/-- Finite. -/
def f32Finite (b : Word) : Bool := decide (b.toNat / 2 ^ 23 % 256 ≠ 255)

/-- Positive and finite (R115, R192, R282). -/
def f32PosFinite (b : Word) : Bool := f32Finite b && decide (0 < b.toNat) && decide (b.toNat < 2 ^ 31)

/-- Subnormal: non-zero and below 2^-126 in magnitude (R41). -/
def f32Subnormal (b : Word) : Bool :=
  decide (b.toNat / 2 ^ 23 % 256 = 0) && decide (b.toNat % 2 ^ 23 ≠ 0)

/-- A signed integer times a power of two as an exact value; zero is +0. -/
def intVal (i : Int) (e : Int) : Val := .fin (decide (i < 0)) i.natAbs e

/-- The signed mantissa of a finite value. -/
def signedM (neg : Bool) (m : Nat) : Int := if neg then -(m : Int) else (m : Int)

/-- The exact sum of two values. A zero sum of non-zero terms is +0, and -0 only comes of two negative zeros (RNE). -/
def addVal : Val → Val → Val
  | .nan, _ => .nan
  | _, .nan => .nan
  | .inf a, .inf b => if a = b then .inf a else .nan
  | .inf a, .fin _ _ _ => .inf a
  | .fin _ _ _, .inf b => .inf b
  | .fin a m e, .fin b n f =>
    if m = 0 ∧ n = 0 then .fin (a && b) 0 0
    else
      let g := min e f
      intVal (signedM a (m * 2 ^ (e - g).toNat) + signedM b (n * 2 ^ (f - g).toNat)) g

/-- The exact product. -/
def mulVal : Val → Val → Val
  | .nan, _ => .nan
  | _, .nan => .nan
  | .inf a, .inf b => .inf (a != b)
  | .inf a, .fin b m _ => if m = 0 then .nan else .inf (a != b)
  | .fin a m _, .inf b => if m = 0 then .nan else .inf (a != b)
  | .fin a m e, .fin b n f => .fin (a != b) (m * n) (e + f)

def negVal : Val → Val
  | .nan => .nan
  | .inf a => .inf (!a)
  | .fin a m e => .fin (!a) m e

def absVal : Val → Val
  | .nan => .nan
  | .inf _ => .inf false
  | .fin _ m e => .fin false m e

/-- Magnitude comparison of finite values: |a| ≤ |b|, exact. -/
def magLe (m : Nat) (e : Int) (n : Nat) (f : Int) : Bool :=
  let g := min e f
  decide (m * 2 ^ (e - g).toNat ≤ n * 2 ^ (f - g).toNat)

/-- The signed order of two values that are not NaN: a ≤ b; the zeros are equal. -/
def leVal : Val → Val → Bool
  | .nan, _ => false
  | _, .nan => false
  | .inf true, _ => true
  | _, .inf false => true
  | .inf false, _ => false
  | _, .inf true => false
  | .fin a m e, .fin b n f =>
    let g := min e f
    decide (signedM a (m * 2 ^ (e - g).toNat) ≤ signedM b (n * 2 ^ (f - g).toNat))

def ltVal (a b : Val) : Bool := leVal a b && !(leVal b a)

/-- binary32 addition under RNE (R94, R95). -/
def f32Add (a b : Word) : Word := valF32 (addVal (f32Val a) (f32Val b))
def f32Sub (a b : Word) : Word := valF32 (addVal (f32Val a) (negVal (f32Val b)))
def f32Mul (a b : Word) : Word := valF32 (mulVal (f32Val a) (f32Val b))
/-- Fused multiply-add, one rounding (R303). -/
def f32Fma (a b c : Word) : Word := valF32 (addVal (mulVal (f32Val a) (f32Val b)) (f32Val c))
def f32Neg (a : Word) : Word := if f32IsNaN a then f32NaN else a ^^^ 0x80000000#32
def f32Abs (a : Word) : Word := if f32IsNaN a then f32NaN else a &&& 0x7FFFFFFF#32

/-- MAX and MIN of R48: NaN if either is NaN, and -0 below +0. -/
def f32Max (a b : Word) : Word :=
  if f32IsNaN a || f32IsNaN b then f32NaN
  else if ltVal (f32Val a) (f32Val b) then b
  else if ltVal (f32Val b) (f32Val a) then a
  else a &&& b
def f32Min (a b : Word) : Word :=
  if f32IsNaN a || f32IsNaN b then f32NaN
  else if ltVal (f32Val a) (f32Val b) then a
  else if ltVal (f32Val b) (f32Val a) then b
  else a ||| b

/-- FEQ, FLT and FLE of R278. -/
def f32Eq (a b : Word) : Bool := leVal (f32Val a) (f32Val b) && leVal (f32Val b) (f32Val a)
def f32Lt (a b : Word) : Bool := ltVal (f32Val a) (f32Val b)
def f32Le (a b : Word) : Bool := leVal (f32Val a) (f32Val b)

/-- floor(sqrt n) by digit recurrence over `k` bits, from the highest. -/
def isqrtBits (n : Nat) : Nat → Nat → Nat
  | 0, acc => acc
  | k + 1, acc =>
    let t := acc + 2 ^ k
    isqrtBits n k (if t * t ≤ n then t else acc)

/-- The square root, correctly rounded (R306): 40 extra bits and a sticky bit settle the rounding. -/
def f32Sqrt (a : Word) : Word :=
  match f32Val a with
  | .nan => f32NaN
  | .inf neg => if neg then f32NaN else f32Inf false
  | .fin neg m e =>
    if m = 0 then a
    else if neg then f32NaN
    else
      let odd := decide (e % 2 ≠ 0)
      let n := (if odd then 2 * m else m) * 2 ^ 80
      let h := ((if odd then e - 1 else e) - 80) / 2
      let r := isqrtBits n 60 0
      let q := 2 * r + (if r * r = n then 0 else 1)
      valF32 (.fin false q (h - 1))

/-- The reciprocal, correctly rounded (R306). -/
def f32Recip (a : Word) : Word :=
  match f32Val a with
  | .nan => f32NaN
  | .inf neg => if neg then 0x80000000#32 else 0#32
  | .fin neg m e =>
    if m = 0 then f32Inf neg
    else let f := shiftFrac 1 m (-e); roundF32 neg f.1 f.2

/-- A signed 64-bit integer to binary32 (I2F). -/
def i64ToF32 (x : DWord) : Word := valF32 (intVal x.toInt 0)

/-- An exact finite value rounded to the nearest integer, ties to even. -/
def rneInt (neg : Bool) (m : Nat) (e : Int) : Int :=
  let f := scaleFrac m e
  signedM neg (divRNE f.1 f.2)

/-- binary32 to signed 64 bits (F2I): RNE, NaN to 0, saturating. -/
def f32ToI64 (a : Word) : DWord :=
  match f32Val a with
  | .nan => 0#64
  | .inf neg => if neg then 0x8000000000000000#64 else 0x7FFFFFFFFFFFFFFF#64
  | .fin neg m e =>
    let i := rneInt neg m e
    if i < -(2 ^ 63 : Int) then 0x8000000000000000#64
    else if (2 ^ 63 : Int) - 1 < i then 0x7FFFFFFFFFFFFFFF#64
    else BitVec.ofInt 64 i

/-- A binary32 result after the flush of R41: the result and whether it was flushed. -/
def f32Flush (ftz : Bool) (a : Word) : Word × Bool :=
  if ftz && f32Subnormal a then (a &&& 0x80000000#32, true) else (a, false)

end Sys2Proof.Machine
end

