-- ==== Sys2Proof/Machine/Formats.lean ====
section
/-! DEFINITION. The element formats (02_number_formats R25 to R38): decoding, encoding, the XS8 group scale and
the flags that a conversion sets (R34 to R37, R49). -/

namespace Sys2Proof.Machine

/-- An element format of R25. Widths are 1 to 8 for XU, 2 to 8 for XI. -/
inductive Fmt where
  | xu (w : Nat)
  | xi (w : Nat)
  | xb1
  | xf4
  | xf8
  | xf16
  | xs8
  | f32
  deriving DecidableEq, Repr

/-- The format of a 6-bit code, none for a reserved code (R25). -/
def Fmt.ofCode (c : Nat) : Option Fmt :=
  if 1 ≤ c ∧ c ≤ 8 then some (.xu c)
  else if 0x12 ≤ c ∧ c ≤ 0x18 then some (.xi (c - 0x10))
  else if c = 0x20 then some .xb1
  else if c = 0x21 then some .xf4
  else if c = 0x22 then some .xf8
  else if c = 0x23 then some .xf16
  else if c = 0x24 then some .f32
  else if c = 0x25 then some .xs8
  else none

/-- Code width in bits (R28). -/
def Fmt.width : Fmt → Nat
  | .xu w => w
  | .xi w => w
  | .xb1 => 1
  | .xf4 => 4
  | .xf8 => 8
  | .xf16 => 16
  | .xs8 => 8
  | .f32 => 32

/-- Only the integer formats and XB1 may be grouped (R42). -/
def Fmt.groupable : Fmt → Bool
  | .xu _ => true
  | .xi _ => true
  | .xb1 => true
  | _ => false

/-- An XU or XI format. -/
def Fmt.isInt : Fmt → Bool
  | .xu _ => true
  | .xi _ => true
  | _ => false

def Fmt.signed : Fmt → Bool
  | .xi _ => true
  | _ => false

/-- qmax of R26. -/
def qmax (w : Nat) (signed : Bool) : Nat := if signed then 2 ^ (w - 1) - 1 else 2 ^ w - 1

/-- The parameters of a floating column of R29. -/
structure FCol where
  fbits : Nat
  bias : Int
  maxCode : Nat
  nanCode : Nat
  infCode : Option Nat
  signBit : Option Nat
  negZero : Bool
  deriving DecidableEq, Repr

def colXF16 : FCol := ⟨9, 31, 0x7DFF, 0x7F00, some 0x7E00, some 15, true⟩
def colXF8 : FCol := ⟨3, 7, 0x7E, 0x7F, none, some 7, true⟩
def colXF4 : FCol := ⟨1, 1, 7, 8, none, some 3, false⟩
def colXS8 : FCol := ⟨3, 15, 0xFE, 0xFF, none, none, false⟩

/-- The magnitude of a code without its sign: a normal or subnormal of R29. -/
def FCol.mag (c : FCol) (x : Nat) : Nat × Int :=
  let e : Nat := x / 2 ^ c.fbits
  let f : Nat := x % 2 ^ c.fbits
  if e = 0 then (f, 1 - c.bias - c.fbits) else (2 ^ c.fbits + f, (e : Int) - c.bias - c.fbits)

def FCol.decode (c : FCol) (isNaN : Nat → Bool) (x : Nat) : Val :=
  if isNaN x then .nan
  else
    let sb := match c.signBit with | some b => 2 ^ b | none => 2 ^ 64
    let neg := decide (x / sb % 2 = 1)
    let y := x % sb
    if c.infCode = some y then .inf neg
    else let d := c.mag y; .fin neg d.1 d.2

/-- Decoding of R32: exact. -/
def Fmt.decode (f : Fmt) (x : Nat) : Val :=
  match f with
  | .xu _ => .fin false x 0
  | .xi w => if 2 ^ (w - 1) ≤ x then intVal ((x : Int) - 2 ^ w) 0 else .fin false x 0
  | .xb1 => .fin (decide (x = 1)) 1 0
  | .xf4 => colXF4.decode (fun y => decide (y = 8)) x
  | .xf8 => colXF8.decode (fun y => decide (y = 0x7F ∨ y = 0xFF)) x
  | .xf16 => colXF16.decode (fun y => decide (y / 512 % 64 = 63 ∧ y % 512 ≠ 0)) x
  | .xs8 => colXS8.decode (fun y => decide (y = 0xFF)) x
  | .f32 => f32Val (BitVec.ofNat 32 x)

/-- The integer value of an XU, XI or XB1 code. -/
def Fmt.intOf (f : Fmt) (x : Nat) : Int :=
  match f with
  | .xi w => if 2 ^ (w - 1) ≤ x then (x : Int) - 2 ^ w else x
  | .xb1 => if x = 1 then -1 else 1
  | _ => x

/-- Sticky flag bits of R49. -/
def flagInexact : BitVec 11 := 1
def flagSaturated : BitVec 11 := 2
def flagFlushed : BitVec 11 := 4
def flagNaN : BitVec 11 := 8
def flagLongSum : BitVec 11 := 16
def flagZeroRange : BitVec 11 := 32
def flagSparseDrop : BitVec 11 := 64
def flagPredMiss : BitVec 11 := 128
def flagBankConflict : BitVec 11 := 256
def flagReplay : BitVec 11 := 512
def flagIntSat : BitVec 11 := 1024

/-- What one conversion gives: the code, the flags, and whether it produced a NaN (R36, R106). -/
structure Conv where
  code : Nat
  flags : BitVec 11
  nan : Bool
  deriving DecidableEq, Repr

/-- An overflow into a floating target (R34). -/
def FCol.overflow (c : FCol) (neg : Bool) (satNan : Bool) : Conv :=
  let s := match c.signBit with | some b => if neg then 2 ^ b else 0 | none => 0
  if satNan then ⟨c.nanCode, flagSaturated ||| flagNaN ||| flagInexact, true⟩
  else ⟨s + c.maxCode, flagSaturated ||| flagInexact, false⟩

/-- encode_float of R33 to R36 on the finite value (-1)^neg num/den. -/
def FCol.encodeFrac (c : FCol) (satNan neg : Bool) (num den : Nat) : Conv :=
  let s := match c.signBit with | some b => if neg then 2 ^ b else 0 | none => 0
  let z := if c.negZero then s else 0
  if num = 0 then ⟨z, 0, false⟩
  else
    let ex := max (floorLog2 num den) (1 - c.bias)
    let g := shiftFrac num den ((c.fbits : Int) - ex)
    let n := divRNE g.1 g.2
    let exact := decide (n * g.2 = g.1)
    let code := (ex - (1 - c.bias)).toNat * 2 ^ c.fbits + n
    let fl : BitVec 11 := if exact then 0 else flagInexact
    if c.signBit.isNone && neg then
      (if n = 0 then ⟨0, flagInexact, false⟩ else ⟨0, flagSaturated ||| flagInexact, false⟩)
    else if c.maxCode < code then c.overflow neg satNan
    else if n = 0 then ⟨z, fl, false⟩
    else ⟨s + code, fl, false⟩

/-- encode_float of R33 to R36. -/
def FCol.encode (c : FCol) (satNan : Bool) (v : Val) : Conv :=
  match v with
  | .nan => ⟨c.nanCode, 0, false⟩
  | .inf neg =>
    match c.infCode, c.signBit with
    | some i, some b => ⟨(if neg then 2 ^ b else 0) + i, 0, false⟩
    | _, none => if neg then ⟨0, flagSaturated ||| flagInexact, false⟩ else c.overflow false satNan
    | _, _ => c.overflow neg satNan
  | .fin neg m e =>
    let f := scaleFrac m e
    c.encodeFrac satNan neg f.1 f.2

/-- encode_int of R33 to R36 on the exact quotient (-1)^neg num/den. -/
def encodeInt (w : Nat) (signed : Bool) (neg : Bool) (num den : Nat) : Conv :=
  let n := signedM neg (divRNE num den)
  let lo : Int := if signed then -(2 ^ (w - 1) : Int) else 0
  let hi : Int := if signed then 2 ^ (w - 1) - 1 else 2 ^ w - 1
  let r := max lo (min hi n)
  let sat := decide (r ≠ n)
  let exact := !sat && decide (divRNE num den * den = num)
  ⟨(BitVec.ofInt w r).toNat,
   (if sat then flagSaturated else 0) ||| (if exact then 0 else flagInexact), false⟩

/-- Conversion into XB1 (R37). Only a NaN follows the integer columns of R36; an infinity sets INEXACT_CONV alone
(notes/assumptions/156.md). -/
def encodeXB1 (v : Val) : Conv :=
  match v with
  | .nan => ⟨0, flagNaN ||| flagInexact, true⟩
  | .inf neg => ⟨if neg then 1 else 0, flagInexact, false⟩
  | .fin neg m e =>
    let f := scaleFrac m e
    ⟨if neg && decide (m ≠ 0) then 1 else 0, if f.1 = f.2 then 0 else flagInexact, false⟩

/-- The quotient x / (s * a) as a fraction, for finite x and positive finite s and a. -/
def quoFrac (m : Nat) (e : Int) (d : Nat) (de : Int) : Nat × Nat :=
  let f := shiftFrac m d (e - de)
  f

/-- Conversion of an element into an ungrouped target: encode_int (x / s) for an integer format, encode_float x
for a floating one (R36, R283). `s` is finite and positive, given as mantissa and exponent. -/
def Fmt.encode (f : Fmt) (satNan : Bool) (sm : Nat) (se : Int) (v : Val) : Conv :=
  match f with
  | .xf4 => colXF4.encode satNan v
  | .xf8 => colXF8.encode satNan v
  | .xf16 => colXF16.encode satNan v
  | .xs8 => colXS8.encode satNan v
  | .f32 =>
    match v with
    | .fin neg m e =>
      let b := valF32 v
      let exact := match f32Val b with
        | .fin n' m' e' => decide (n' = neg) && magLe m e m' e' && magLe m' e' m e
        | _ => false
      if !(f32Finite b) then
        (if satNan then ⟨f32NaN.toNat, flagSaturated ||| flagNaN ||| flagInexact, true⟩
         else ⟨(if neg then 0xFF7FFFFF else 0x7F7FFFFF), flagSaturated ||| flagInexact, false⟩)
      else ⟨b.toNat, if exact then 0 else flagInexact, false⟩
    | _ => ⟨(valF32 v).toNat, 0, false⟩
  | .xb1 => encodeXB1 v
  | .xu w => encInt w false
  | .xi w => encInt w true
where
  encInt (w : Nat) (signed : Bool) : Conv :=
    match v with
    | .nan => ⟨0, flagNaN ||| flagInexact, true⟩
    | .inf neg =>
      let lo := if signed then 2 ^ (w - 1) else 0
      ⟨if neg then lo else qmax w signed, flagSaturated ||| flagInexact, false⟩
    | .fin neg m e =>
      let q := quoFrac m e sm se
      encodeInt w signed neg q.1 q.2

/-- The XS8 group scale for the magnitude num/den, rounded upward (R38). -/
def xs8Up (num den : Nat) : Nat × BitVec 11 :=
  if num = 0 then (0, 0)
  else
    let ex := max (floorLog2 num den) (-14)
    let g := shiftFrac num den (3 - ex)
    let n := (g.1 + g.2 - 1) / g.2
    let code := (ex + 14).toNat * 8 + n
    if 0xFE < code then (0xFE, flagSaturated ||| flagInexact) else (code, 0)

/-- XS8 code as mantissa and exponent (R31); 0xFF is handled by the caller. -/
def xs8Mag (c : Nat) : Nat × Int := colXS8.mag c

end Sys2Proof.Machine
end

