-- ==== Sys2Proof/Machine/Assoc.lean ====
section
/-! DEFINITION. Sparse tables in one canonical form: a list of (key, value) pairs with strictly rising keys and no
entry equal to the value that an unlisted key reads as. Register files, memories, region tables and slot windows of
the manual are such tables. -/

namespace Sys2Proof.Machine

/-- A sparse table. -/
abbrev Assoc (α : Type) := List (Nat × α)

/-- The value at `k`, or `d` when `k` is not listed. -/
def Assoc.get {α : Type} (d : α) : Assoc α → Nat → α
  | [], _ => d
  | (j, v) :: t, k => if j = k then v else Assoc.get d t k

/-- Lists `v` at `k` whatever it is: for a memory whose unlisted cells have no value. -/
def Assoc.insert {α : Type} : Assoc α → Nat → α → Assoc α
  | [], k, v => [(k, v)]
  | (j, w) :: t, k, v =>
    if k < j then (k, v) :: (j, w) :: t
    else if k = j then (k, v) :: t
    else (j, w) :: Assoc.insert t k v

/-- Takes `k` out of the table. -/
def Assoc.erase {α : Type} (t : Assoc α) (k : Nat) : Assoc α := t.filter (fun e => e.1 != k)

/-- Puts `v` at `k`; the value `d` of an unlisted key is never listed. -/
def Assoc.put {α : Type} [DecidableEq α] (d : α) (t : Assoc α) (k : Nat) (v : α) : Assoc α :=
  if v = d then Assoc.erase t k else Assoc.insert (Assoc.erase t k) k v

/-- The listed value at `k`, if any. -/
def Assoc.find {α : Type} : Assoc α → Nat → Option α
  | [], _ => none
  | (j, v) :: t, k => if j = k then some v else Assoc.find t k

/-- Changes the value at `k` by `f`. -/
def Assoc.modify {α : Type} [DecidableEq α] (d : α) (t : Assoc α) (k : Nat) (f : α → α) : Assoc α :=
  Assoc.put d t k (f (Assoc.get d t k))

/-- Keeps the entries whose key satisfies `p`. -/
def Assoc.keep {α : Type} (p : Nat → Bool) (t : Assoc α) : Assoc α :=
  t.filter (fun e => p e.1)

/-- The keys rise strictly and all lie above `lo` (when there is one). -/
def Assoc.sorted {α : Type} : Option Nat → Assoc α → Bool
  | _, [] => true
  | none, (k, _) :: t => Assoc.sorted (some k) t
  | some l, (k, _) :: t => decide (l < k) && Assoc.sorted (some k) t

/-- The canonical form. -/
def Assoc.wf {α : Type} [DecidableEq α] (d : α) (t : Assoc α) : Bool :=
  Assoc.sorted none t && t.all (fun e => decide (e.2 ≠ d))

end Sys2Proof.Machine
end

