-- ==== Sys2Proof/Machine/State.lean ====
section
/-! DEFINITION. The state of the block as plain data, the reasons a step can stop, and the state after reset.
Registers that the host numbers by a BAR0 offset live in ONE register file keyed by that offset (R341, R342); the
memories, tables, queues and job records that no register shows have fields of their own. -/

namespace Sys2Proof.Machine

/-- Why a step stops. -/
inductive Fault where
  /-- Raised by a command whose operands are not ones the outside world can give (`Instr.wf` fails): a cell list out
  of order, or a byte count beyond the transfer. Safe: no such command exists. -/
  | malformed
  deriving DecidableEq, Repr

/-- Why a command has no meaning. -/
inductive Refusal where
  /-- Raised only by an arm of `exec` that is not modelled. Safe. -/
  | notModelled (mnemonic : String)
  deriving DecidableEq, Repr

/-- An entry of a Salon or Gallery region table (R221), with the full tags of its slots (R224). -/
structure Region where
  valid : Bool := false
  circ : Bool := false
  clsW : Bool := false
  quar : Bool := false
  slot : Nat := 0
  owner : Nat := 0
  job : Half := 0
  base : Nat := 0
  len : Nat := 0
  head : Word := 0
  tail : Word := 0
  full : List Nat := []
  deriving DecidableEq, Repr

/-- A page-map entry (R222, R422): owner, class, key slot, retired. -/
structure Page where
  job : Half := 0
  clsW : Bool := false
  keySlot : Nat := 0
  retired : Bool := false
  deriving DecidableEq, Repr

/-- Why and since when an operation of a core waits (R228, R309, R310). `got` holds the bytes that have returned,
`done` the write lines that have landed; `issued` says that its lines have been presented to the memories (R216), `onTag`
that it waits on a tag (R228). -/
structure Wait where
  iaddr : Word
  opcode : Nat
  since : Nat
  aux : Half
  timed : Bool
  got : List (Nat × Byte) := []
  done : List Nat := []
  issued : Bool := false
  onTag : Bool := false
  deriving DecidableEq, Repr

/-- An accepted, unretired instruction with its captured operands (R259, R260). `issued` is 1 once its queue has started it,
in the array queue from its issue (R102); an array product has `chunks` chunks, of which `chunk` have entered. The registers it writes, its ranges in the address
interlock (R262), its ACM units (R102) and its Vitrine slots (R219) stand with it. -/
structure QEntry where
  instr : Instr
  queue : QKind
  iaddr : Word
  s : Assoc DWord
  td : Assoc TileReg
  sW : List Nat := []
  tW : List Nat := []
  reads : List (Nat × Nat) := []
  writes : List (Nat × Nat) := []
  units : BitVec 32 := 0
  wSlots : BitVec 16 := 0
  aSlots : BitVec 16 := 0
  issued : Bool := false
  chunk : Nat := 0
  chunks : Nat := 0
  deriving DecidableEq, Repr

/-- A check slice as the check engine has copied it (R77, R78): the array instruction with its descriptors, the chunk, the
engine and quarter, the 32 rows of each weight plane with their code set and lane masks, the activation planes, and the slot
values that the engine handed on, by (row of the slice, position, slot). -/
structure Slice where
  iaddr : Word
  engine : Nat
  quarter : Nat
  fields : ArrayFields
  s : Assoc DWord
  td : Assoc TileReg
  chunk : Nat
  wRow : Assoc (BitVec 256)
  wMask : Assoc (BitVec 256)
  aUnit : Assoc (BitVec 256)
  slots : List Int
  deriving DecidableEq, Repr

/-- A Docent sample (R184, R185): its slot, the layer, the rows of A and W that the Curator fetched for it with the elements of its
reduction, and T with the entry of the channel table. -/
structure Sample where
  slot : Nat
  layer : Nat
  aRow : Nat
  wRow : Nat
  kl : Nat
  t : Word
  ct : Option Word
  deriving DecidableEq, Repr

/-- A request to the check engine (R80): a Provenance slice or a Docent sample. -/
inductive CheckReq where
  | slice (x : Slice)
  | sample (x : Sample)
  deriving DecidableEq, Repr

/-- One FE row or segment that QPREP staged (R156): row, and its (coordinate, code) entries. -/
structure FeRow where
  row : Nat
  entries : List (Nat × Nat)
  deriving DecidableEq, Repr

/-- The Quadrille's staging (R158, R298): the operand and chunks that QPREP named, the metadata bytes it read, the FE
rows it kept, and the union that GATHERA formed. -/
structure Quad where
  tensor : Nat := 0
  spf : Nat := 0
  base : Nat := 0
  first : Nat := 0
  count : Nat := 0
  rows : List FeRow := []
  union : List Nat := []
  staged : List (Nat × Byte) := []
  deriving DecidableEq, Repr

/-- The tile invocation that a core runs or has just run (R266, R330): layer, item and split part, whether it is an epilogue, the
product of the two tensor scales (R131), and the result tiles that the Curator writes to host memory: descriptor, first row,
first element (R267). -/
structure TileRun where
  layer : Nat
  item : Nat
  part : Nat
  epilogue : Bool := false
  t : Word := 0
  outs : List (TileReg × Nat × Nat) := []
  deriving DecidableEq, Repr

/-- One core: its Caller (R246), its ACM (R99), its Vitrines (R219), its check engine (R80), the neurons that Docent
predicted active for the positions of its tile (R178, R183), and its Salon's region table (R221). -/
structure CoreSt where
  running : Bool := false
  halting : Bool := false
  stopped : Bool := false
  s : Assoc DWord := []
  td : Assoc TileReg := []
  p : BitVec 16 := 0
  lcCount : Assoc Word := []
  lcStart : Assoc Half := []
  pc : Half := 0
  kbase : Word := 0
  klen : Nat := 0
  kbuf : Assoc InstrWord := []
  intTrap : Bool := false
  nanTrap : Bool := false
  ftz : Bool := false
  satNan : Bool := false
  salonFault : Bool := false
  galFault : Bool := false
  job : Half := 0
  dispatched : Bool := false
  /-- First output channel and first position of the invocation (R108, R267). -/
  tileM : Nat := 0
  tileN : Nat := 0
  /-- CSR.CCYCLE when it was last set or read, and the HCLK of that moment (R272). -/
  ccycle : Nat := 0
  ccAt : Nat := 0
  invoc : Word := 0
  flags : BitVec 11 := 0
  measuring : Bool := false
  queue : List QEntry := []
  waits : List Wait := []
  acm : Assoc Word := []
  wFull : BitVec 16 := 0
  aFull : BitVec 16 := 0
  wRow : Assoc (BitVec 256) := []
  aUnit : Assoc (BitVec 256) := []
  wMask : Assoc (BitVec 256) := []
  wAbsent : BitVec 16 := 0
  wSide : Assoc Byte := []
  aSide : Assoc Byte := []
  /-- The lanes that absent blocks mask in an XB1 tile that the Quadrille expanded (R153, R164): the tensor, and a 1 for each
  masked code, at the Salon address of the code. -/
  maskOf : Nat := 0
  masked : Assoc Byte := []
  quad : Quad := {}
  winC : Assoc Nat := []
  winN : Assoc Nat := []
  winDiv : Bool := false
  provCount : Nat := 0
  provS : Nat := 10
  provDraw : Option (Nat × Nat × Nat) := none
  checkNow : Option CheckReq := none
  checkQ : List CheckReq := []
  docY : Option Nat := none
  docBase : Nat := 0
  tile : Option TileRun := none
  nextItem : Nat := 0
  active : Assoc (List Nat) := []
  regions : Assoc Region := []
  deriving DecidableEq, Repr

/-- One cluster: its Curator's event queue (R310), its job, and the causes that freeze its Deaccession unit (R170). -/
structure ClusterSt where
  job : Half := 0
  events : List (Half × DWord) := []
  startup : Bool := true
  invTest : Bool := false
  skipped : List Nat := []
  deriving DecidableEq, Repr

/-- An occupied way of the Catalogue (R195): the key, the value and its type; `quar` is 0 for a valid entry, or the handle of the
ended job under which it waits for its scrub (R201). -/
structure CatEntry where
  tensor : Nat
  idx : Nat
  val : Word
  isF32 : Bool
  quar : Nat := 0
  deriving DecidableEq, Repr

/-- A Catalogue registration (R193). -/
structure CatReg where
  tensor : Nat
  isF32 : Bool
  base : Nat
  extent : Nat
  job : Half
  deriving DecidableEq, Repr

/-- A barrier instance (R309). -/
structure Barrier where
  job : Half
  id : Nat
  mask : DWord
  arrived : DWord
  deriving DecidableEq, Repr

/-- An entry of a Hall's window table (R311, R393, R408); a closed window keeps its entry until the next one takes it. -/
structure Window where
  isOpen : Bool := false
  base : Nat := 0
  len : Nat := 0
  rights : BitVec 3 := 0
  clsW : Bool := false
  spf : Nat := 0
  fmt : Nat := 0
  isStatic : Bool := false
  number : Nat := 0
  gen : Nat := 0
  job : Half := 0
  epoch : Word := 0
  peerset : Word := 0
  refused : Word := 0
  deriving DecidableEq, Repr

/-- A context of R390: window entry, OFFSET, LENGTH, COUNT + 1, bytes landed per contributor. -/
structure OrdCtx where
  window : Nat
  off : Nat
  len : Nat
  parts : Nat
  ftz0 : Bool
  arrived : Assoc Nat
  deriving DecidableEq, Repr

/-- A packet that the Courier has sent and not seen acknowledged (R383, R384). -/
structure SentPkt where
  hdr : PktHdr
  loc : Nat
  sends : Nat
  since : Nat
  xfer : Nat
  choice : Nat
  deriving DecidableEq, Repr

/-- A CPUT, CGET or CADD in flight (R312, R386): the packets still open, and the lowest refusal. -/
structure Xfer where
  core : Nat
  iaddr : Word
  opcode : Nat
  dest : Nat
  job : Half
  left : Nat
  refusal : Option (Nat × Half)
  used : Nat := 0
  deriving DecidableEq, Repr

/-- A packet that waits for a tag at its window (R229): the link that it came in by, none for the device's own, since when, and
the slots that have landed. -/
structure Arrival where
  hdr : PktHdr
  data : List Byte
  win : Nat × Nat
  link : Option Nat
  since : Nat
  done : List Nat
  deriving DecidableEq, Repr

/-- A tile in a Gallery stage (R327): the job, whether it is a weight tile, which of the two stages of its kind holds it, its region
table entry, what it is (tensor, rows of the tensor, first and last reduction element, format), and where its streams begin. -/
structure StageTile where
  job : Half
  weight : Bool
  half : Nat
  region : Nat
  tensor : Nat
  rows : List (Nat × Option (Nat × Nat))
  k0 : Nat
  kext : Nat
  fmt : Nat
  base : Nat
  scale : Nat
  aux : Nat
  len : Nat
  deriving DecidableEq, Repr

/-- A Hall: the Catalogue's sets with the most recently used way first (R195), its registrations, its Gallery's
region table, barriers, windows, ordered contexts, the corrected-error bookkeeping (R231, R233) and its scrub. -/
structure HallSt where
  cat : Assoc (List CatEntry) := []
  regs : List CatReg := []
  regions : Assoc Region := []
  barriers : List Barrier := []
  windows : Assoc Window := []
  ordered : List OrdCtx := []
  ceEntries : Nat := 0
  cePages : List (Nat × List Nat) := []
  scrub : List (Half × Nat) := []
  /-- The tiles in the Gallery stages, oldest first (R327). -/
  stages : List StageTile := []
  deriving DecidableEq, Repr

/-- The Tempo state of a slot beside its registers (R118 to R120, R125, R130, R134, R136): `list` is the outlier list of the last
production that completed, `nextList` that of the production in progress (R137). -/
structure TempoX where
  job : Half := 0
  prodValid : Bool := false
  measuring : Bool := false
  deciding : Bool := false
  m : Word := 0
  outMax : Word := 0
  overs : Nat := 0
  any : Bool := false
  reported : Word := 0
  chanMax : Assoc Word := []
  list : List Nat := []
  nextList : List Nat := []
  deriving DecidableEq, Repr

/-- A Tempo record (R114). -/
structure TempoRec where
  tensor : Nat
  signed : Bool
  mode : Nat
  hist : Nat
  seedValid : Bool
  grouped : Bool
  gsize : Nat
  wmin : Nat
  wmax : Nat
  pinW : Nat
  delta : Word
  seed : Word
  pinS : Word
  headroom : Word
  satLimit : Word
  outliers : Nat
  track : Bool
  list : List Nat
  deriving DecidableEq, Repr

/-- A Docent record (R176). -/
structure DocRec where
  inTensor : Nat
  uncal : Bool
  adapt : Bool
  rank : Nat
  neurons : Nat
  tau : Word
  tauStep : Word
  tauMin : Word
  eps : Word
  topk : Nat
  uAddr : Nat
  vAddr : Nat
  sigmaU : Word
  sigmaV : Word
  deriving DecidableEq, Repr

/-- The sampling periods of one Curator (R184, R202): the predicted-inactive elements that it has counted, from which element on
periods have which length, latest first, and the first elements of the periods whose sample is drawn. -/
structure Periods where
  count : Nat := 0
  segs : List (Nat × Nat) := []
  drawn : List Nat := []
  deriving DecidableEq, Repr

/-- A sample of a dense run (R185): the core that computes it, its position and output channel, and y once it is stored. -/
structure DueSample where
  core : Nat
  pos : Nat
  ch : Nat
  y : Option Word := none
  deriving DecidableEq, Repr

/-- A Docent slot's state beside its registers (R180, R184, R187, R189, R190, R202): the settings that its window began with; what the
Curators took at the first dispatch of the step: tau, DENSE, the active neurons by row of the input, the (cluster, row) pairs in the
order in which they are scored, and when scoring began; the sampling periods by cluster; the samples that a dense run computes;
and where U and V lie in each Gallery. -/
structure DocX where
  job : Half := 0
  layer : Nat := 0
  rc : Option DocRec := none
  window : Nat := 0
  limit : Nat := 0
  tau : Word := 0
  dense : Bool := false
  sets : Assoc (List Nat) := []
  order : List (Nat × Nat) := []
  begun : Nat := 0
  periods : Assoc Periods := []
  due : List DueSample := []
  placed : Assoc (Nat × Nat) := []
  deriving DecidableEq, Repr

/-- A Catalogue record (R194). -/
structure CatRec where
  tensor : Nat
  isF32 : Bool
  atensor : Nat
  aoffset : Nat
  extent : Nat
  deriving DecidableEq, Repr

/-- One problem of a pointer list (R331), or the whole layer; `fm` and `fn` are the numbers of tuples folded along M and N (R332). -/
structure Problem where
  aRow : Nat
  wRow : Nat
  yRow : Nat
  yCol : Nat
  pm : Nat
  pn : Nat
  pk : Nat
  fm : Nat := 1
  fn : Nat := 1
  deriving DecidableEq, Repr

/-- A tensor-table entry (R316) with its placement (R317). -/
structure Tensor where
  mem : Nat := 0
  clsW : Bool := false
  circ : Bool := false
  slot : Nat := 0
  hall : Nat := 0
  fmt : Nat := 0
  spf : Nat := 0
  gsize : Nat := 0
  grouped : Bool := false
  zero : Bool := false
  off : Nat := 0
  bytes : Nat := 0
  kext : Nat := 0
  rows : Nat := 0
  soff : Nat := 0
  aoff : Nat := 0
  addr : Nat := 0
  deriving DecidableEq, Repr

/-- A layer descriptor (R319) with the records it names. -/
structure Layer where
  op : Nat
  mode : Nat
  wa : Nat
  ww : Nat
  passes : Nat
  g : Nat
  path : Nat
  split : Nat
  ordHG : Nat
  ordGS : Nat
  ordSV : Nat
  ctv : Bool
  lenM : Nat
  lenN : Nat
  lenK : Nat
  w : Nat
  a : Nat
  y : Nat
  ct : Nat
  m : Nat
  n : Nat
  k : Nat
  kentry : Nat
  num : Word
  tcount : Nat
  plcount : Nat
  pladdr : Nat
  taddr : Nat
  daddr : Nat
  caddr : Nat
  ccount : Nat
  eentry : Nat
  args : List DWord
  problems : List Problem
  tempos : List TempoRec
  docent : Option DocRec
  cats : List CatRec
  deriving DecidableEq, Repr

/-- A job descriptor (R315). -/
structure JobDesc where
  version : Nat
  layers : Nat
  freeze : Bool
  reps : Nat
  tensors : Nat
  klen : Nat
  kimg : Nat
  mimg : Nat
  mlen : Nat
  ttab : Nat
  ltab : Nat
  wtab : Nat
  wcount : Nat
  lens : List Nat
  deriving DecidableEq, Repr

/-- Where a job stands (R362): fetched; statically checked; copied and waiting to start; running; ended, with its memories in
quarantine unless they are scrubbed. -/
inductive JobPhase where
  | fetched | checked | copied | running | ended
  deriving DecidableEq, Repr

/-- An active job (R350, R356): the submission entry, what the loader read, and what it allocated. -/
structure Job where
  jobId : DWord
  ring : Nat
  order : Nat
  desc : Nat
  key : Word
  keyOnce : Bool := false
  cmask : Word
  prio : Nat
  noirq : Bool
  fence : Bool
  mbx : Nat
  epoch : Word
  peerset : Word
  domain : Half
  phase : JobPhase := .fetched
  mapped : Word := 0
  cores : List Nat := []
  jd : Option JobDesc := none
  tensors : List Tensor := []
  layers : List Layer := []
  winRecs : List Window := []
  winTensor : List (Nat × Nat) := []
  kimg : List Byte := []
  jbytes : List Byte := []
  kaddr : Assoc Nat := []
  outAddr : Assoc Nat := []
  splitAddr : Assoc Nat := []
  /-- S of R327 by Hall. -/
  stageSize : Assoc Nat := []
  pages : List Nat := []
  modelPages : Nat := 0
  keySlots : List (Nat × Nat) := []
  keyLoaded : Bool := false
  histDepth : Nat := 0
  salonFault : Bool := false
  galFault : Bool := false
  numDef : DWord := 0
  clsStage : Bool := false
  flags : BitVec 11 := 0
  step : Nat := 0
  layer : Nat := 0
  layerDone : Word := 0
  started : Bool := false
  closed : List Nat := []
  splitDone : Assoc Nat := []
  splitStage : List (Nat × Nat × List Word) := []
  docSlots : List Nat := []
  winGen : Assoc Nat := []
  heard : Assoc Nat := []
  startAt : Nat := 0
  paths : Assoc Nat := []
  jdigest : Digest := 0
  mdigest : Digest := 0
  cring : Nat := 0
  measure : Bool := false
  scrubbed : Bool := false
  pendingRec : Option (Half × Half × Word × Half × Half) := none
  deriving DecidableEq, Repr

/-- A fault report on its way to the Foyer (R270). -/
structure Report where
  job : Half
  code : Half
  iaddr : Word
  unit : Half
  aux : Half
  extra : List DWord := []
  /-- The HCLK in which it was sent. -/
  sent : Nat := 0
  deriving DecidableEq, Repr

/-- The function's configuration space, as far as a rule names its fields (R339, R341, R342, R368): the orderings that Device
Control enables, its two size codes, the AER status of an Unsupported Request, and the address-association ranges of the selective
IDE streams: stream, BAR, base and length; stream, host base and length. -/
structure PcieCfg where
  relaxed : Bool := false
  ido : Bool := false
  mps : BitVec 3 := 0
  mrrs : BitVec 3 := 0
  aerUr : Bool := false
  ideBars : List (Nat × Nat × Nat × Nat) := []
  ideHost : List (Nat × Nat × Nat) := []
  deriving DecidableEq, Repr

/-- An installed job key (R419). -/
structure VKey where
  handle : Word
  domain : Half
  once : Bool
  material : Digest
  deriving DecidableEq, Repr

/-- A job that ended, kept for its attestation report (R418). -/
structure Ended where
  handle : Half
  job : Job
  status : Half
  code : Half
  deriving DecidableEq, Repr

/-- A packet that waits at a link's transmitter (R376), and the receive buffer that it still occupies: the link that it came in by
and the class code there. -/
structure WaitPkt where
  hdr : PktHdr
  data : List Byte
  held : Option (Nat × Nat)
  deriving DecidableEq, Repr

/-- A link's sequence and key state (R373 to R376): the next flit expected and sent, the replay buffer, how often each of
its flits has been resent, whether a NAK is out, how many keys each direction has had; the HCLK and the payload bytes in use of
the flit that is being filled (R374); the credits in use by class code (R376), the packets that wait for credits, and the moments
and flits of VC2 packets sent in the last 100 µs (R426). -/
structure LinkSt where
  rxNext : Half := 0
  txNext : Half := 0
  replay : List Half := []
  resent : Assoc Nat := []
  nakked : Bool := false
  txKey : Nat := 0
  rxKey : Nat := 0
  fillAt : Nat := 0
  fill : Nat := 0
  spent : Assoc Nat := []
  waiting : List WaitPkt := []
  control : List (Nat × Nat) := []
  deriving DecidableEq, Repr

/-- A Visitor Book packet (R488). -/
structure VPkt where
  event : Half
  kind : BitVec 4
  num : BitVec 12
  job : Half
  time : BitVec 63
  payload : List DWord
  deriving DecidableEq, Repr

/-- A Visitor Book entry (R488): 64 bits, the end-mark, the truncation bit, and whether its packet counts in PKTS. -/
structure VEntry where
  val : DWord
  fin : Bool
  trunc : Bool
  counted : Bool
  deriving DecidableEq, Repr

/-- What the block gives to the outside world. -/
inductive Out where
  | msix (vector : Nat)
  | data (bytes : List Byte)
  | unsupported
  | retry
  | nakTransfer
  | frs
  | packet (link : Nat) (hdr : PktHdr) (data : List Byte)
  | flitAck (link : Nat) (fseq : Half)
  | flitNak (link : Nat) (fseq : Half)
  | credit (link cls flits : Nat)
  | response (status : Half) (bytes : List Byte)
  deriving DecidableEq, Repr

/-- A firmware image slot in flash (R410, R412). -/
structure Image where
  svn : BitVec 8 := 0
  version : Word := 0
  digest : BitVec 512 := 0
  deriving DecidableEq, Repr

/-- The module's flash: image slots, preferred slot, its trial and whether the trial boot has begun, the stored Profile, the
retirement list (R470), and the SVN fuses. -/
structure Flash where
  slotA : Image := {}
  slotB : Image := {}
  preferB : Bool := false
  trial : Bool := false
  tried : Bool := false
  profile : List Byte := []
  profileSeq : Word := 0
  ownerKey : Bool := true
  retired : List Nat := []
  svnFused : BitVec 8 := 0
  deriving DecidableEq, Repr

/-- How far the module has come (R346, R430, R448, R449, R498). -/
inductive Phase where
  | off | powered | booting | bootFail | service | safe | test
  deriving DecidableEq, Repr

/-- A recovery in progress (R438): its scope, when it began, the fault code that started it, whether it can only fail
(R440, R441), and whether its units have been reset (step 3). -/
structure Recovery where
  scope : Scope
  since : Nat
  code : Half
  stuck : Bool
  reset : Bool := false
  deriving DecidableEq, Repr

/-- The module's pins (R473): the inputs as last seen and the outputs as driven. -/
structure Pins where
  pwrEn : Bool := true
  pwrGood : Bool := true
  perstN : Bool := true
  modResetN : Bool := true
  faultN : Bool := true
  alertN : Bool := true
  thermTripN : Bool := true
  vbAttnN : Bool := true
  testEn : Bool := false
  modAddr : BitVec 3 := 0
  deriving DecidableEq, Repr

/-- The power and thermal controller (R461, R464, R468): requests as divider index 0 to 3 and duty in eighths, their counts
of evaluations; `hold`: the input has left its range and not yet been back for 10 ms (R478). -/
structure Power where
  capDiv : Nat := 0
  capDuty : Nat := 8
  under : Nat := 0
  thDiv : Nat := 0
  thDuty : Nat := 8
  cool : Nat := 0
  hold : Bool := false
  deriving DecidableEq, Repr

/-- Debouncing of the coolant and leak sensors (R479, R480): the candidate state and its count. -/
structure Debounce where
  state : Nat := 0
  count : Nat := 0
  deriving DecidableEq, Repr

/-- The machine. -/
structure State where
  /-- Commands that wait, first in first out. -/
  pending : List Instr
  /-- BAR0's 64-bit registers by offset (R341, R342): every register that a rule gives an offset and that is not a
  view of another field. A counter counts in its register. -/
  reg : Assoc DWord
  /-- The bits of a register that an applied Profile has locked (R505). -/
  locks : Assoc DWord
  /-- The value that each register held after the Profile was applied (R366). -/
  profiled : Assoc DWord
  /-- The staging window of the Profile, by word index (R509). -/
  staging : Assoc DWord
  /-- Salon and Gallery bytes by device address (R207); an unlisted byte is 0 (R236). -/
  sram : List Host.Cell
  /-- HBM bytes by device address; an unlisted byte has not been written (R241). -/
  hbm : List Host.Cell
  /-- Host memory as the device has seen or written it. -/
  hostMem : List Host.Cell
  /-- The HBM page map by page number (R222). -/
  pages : Assoc Page
  /-- HBM pages that the background scrub still has to write (R241). -/
  scrubPages : List Nat
  /-- Cores whose Salon alone is gated (R235); HBM stacks in self-refresh (R466, R469). -/
  salonGate : List Nat
  selfRefresh : BitVec 8
  cores : Assoc CoreSt
  clusters : Assoc ClusterSt
  halls : Assoc HallSt
  tempo : Assoc TempoX
  docent : Assoc DocX
  /-- Jobs by handle, 1 to 32767, from their fetch until their record (R350). -/
  jobs : List (Nat × Job)
  /-- Jobs whose record is written and whose memories are still in quarantine, by the handle that they had (R237, R350). -/
  scrubs : List (Nat × Job)
  /-- The next fetch order number, and the ring served last (R23). -/
  fetches : Nat
  lastRing : Nat
  /-- Counted records of a completion ring not yet signalled (R365). -/
  coal : Assoc Nat
  /-- Reports that have not reached the Foyer (R270). -/
  reports : List Report
  /-- Mailbox command in progress (R360). -/
  mbxBusy : Option (BitVec 64 × Nat)
  /-- Secure IDE streams: bit 0 the link stream, bits 1 to 8 the selective streams (R368). -/
  ide : BitVec 9
  /-- MSI-X pending bits of vectors that could not be sent (R341), and table words. -/
  msixTable : Assoc DWord
  /-- Size of BAR2 in bytes (R341). -/
  bar2Size : Nat
  cfg : PcieCfg
  /-- The register bits written in one HCLK and by whom (R9, R484): the HCLK; offset, bits, and rank of the writer. -/
  writtenAt : Nat
  written : List (Nat × DWord × Nat)
  keys : List VKey
  /-- HBM key slots, slot 64 * Hall + n, holding a job handle or 65535 for the firmware key (R422). -/
  keySlots : Assoc Half
  ended : List Ended
  /-- Open SPDM sessions (R415). -/
  sessions : BitVec 4
  /-- The device identity key is available (R416). -/
  identity : Bool
  flash : Flash
  links : Assoc LinkSt
  /-- Courier: next SEQ by destination, expected SEQ by source, kept statuses, packets in flight, transfers. -/
  seqTx : Assoc Word
  seqRx : Assoc Word
  statusRx : List (Nat × Nat × Half)
  arrivals : List Arrival
  sent : List SentPkt
  xfers : List (Nat × Xfer)
  nextXfer : Nat
  /-- Recoveries in progress and the times of past ones (R438, R440). -/
  recoveries : List Recovery
  history : List (Scope × Nat)
  /-- Inventory: slices running, held targets, targets that passed since the last rotation, end of the last slice. -/
  invRun : List Nat
  invHeld : List Nat
  invPassed : List Nat
  invLast : Assoc Nat
  /-- When the boot Inventory ran (R448). -/
  invStart : Nat
  invAmps : Nat
  power : Power
  clampOn : Bool
  pins : Pins
  /-- The input stage: the cause of its last action, whether it is latched off, and whether the next start records the cause
  (R477, R478). -/
  latchCause : BitVec 4
  latched : Bool
  latchNews : Bool
  /-- The test scopes that are enabled (R429). -/
  testScope : BitVec 2
  coolDeb : Debounce
  leakA : Debounce
  leakB : Debounce
  /-- Trips within 100 ms of a retry, by cable (R481). -/
  fuseFast : Assoc Nat
  /-- Visitor Book: waiting packets in posting order, the FIFO, the last value returned, the last source (R488). -/
  vbWait : List VPkt
  vb : List VEntry
  vbLast : DWord
  vbSource : Nat
  /-- Pending TIME_SET value (R485), time of the last accepted edge. -/
  timeSet : Option Word
  ppsAt : Option Nat
  phase : Phase
  /-- Layers 2 and 3 have been applied (R502). -/
  defaultsOn : Bool
  /-- HCLK since power-up; a model's own field that the empty queue advances. -/
  hclk : Nat
  /-- The model's own counter of free values drawn. -/
  fresh : Nat
  /-- What the block has given to the outside world, in order; the model's own field. -/
  out : List Out
  deriving DecidableEq, Repr

/-- The registers whose value after reset is not 0 and does not come from fuses, flash or boot: FOYER.PROV_CTL (R83),
TEMPO.CTL (R138), SPARSE.BREAKEVEN (R173), DOCENT.CTL (R202), REGION.TAG_TIMEOUT (R243), TABEY.CTL (R405), FAULT.WDOG
and INV.CTL (R452), POWER.CAP, POWER.CTL, POWER.STAT, THERM.CTL (R471), MGMT.ALERT, COOL.STAT, COOL.CTL (R496), VB.WM
(R495), and CLU.DEACC_STATE of the 32 clusters (R175) is a view. -/
def State.resetRegs : Assoc DWord :=
  [(0x00400020, 0x0000000004001000#64),
   (0x02000048, 10#64),
   (0x02000058, 0x3F80000000001004#64),
   (0x02000080, 0x00320320038403B6#64),
   (0x02000088, 0x0000000008060064#64),
   (0x020000B0, 10000#64),
   (0x02000108, 0x0000138800000000#64),
   (0x02000560, 0x0000000000000A02#64),
   (0x02000568, 0x000000000005003C#64),
   (0x02000608, 1500#64),
   (0x02000610, 0x000000000001000A#64),
   (0x02000620, 0x0000800000000000#64),
   (0x02000628, 95#64),
   (0x02000720, 0x0000000000070000#64),
   (0x02000730, 0x00000000000007FF#64),
   (0x02000738, 0x0000000000000F2D#64)]

/-- The machine right after reset: rails in regulation, nothing booted, every register at its "After reset" value. -/
def State.reset : State where
  pending := []
  reg := State.resetRegs
  locks := []
  profiled := []
  staging := []
  sram := []
  hbm := []
  hostMem := []
  pages := []
  scrubPages := []
  salonGate := []
  selfRefresh := 0
  cores := []
  clusters := []
  halls := []
  tempo := []
  docent := []
  jobs := []
  scrubs := []
  fetches := 0
  lastRing := 16383
  coal := []
  reports := []
  mbxBusy := none
  ide := 0
  msixTable := []
  bar2Size := 2 ^ 30
  cfg := {}
  writtenAt := 0
  written := []
  keys := []
  keySlots := []
  ended := []
  sessions := 0
  identity := false
  flash := {}
  links := []
  seqTx := []
  seqRx := []
  statusRx := []
  arrivals := []
  sent := []
  xfers := []
  nextXfer := 0
  recoveries := []
  history := []
  invRun := []
  invHeld := []
  invPassed := []
  invLast := []
  invStart := 0
  invAmps := 0
  power := {}
  clampOn := false
  pins := {}
  latchCause := 0
  latched := false
  latchNews := false
  testScope := 0
  coolDeb := {}
  leakA := {}
  leakB := {}
  fuseFast := []
  vbWait := []
  vb := []
  vbLast := 0
  vbSource := 0
  timeSet := none
  ppsAt := none
  phase := .powered
  defaultsOn := false
  hclk := 0
  fresh := 0
  out := []

end Sys2Proof.Machine
end

