-- ==== Sys2Proof/Machine/Ops.lean ====
section
/-! DEFINITION. The named operations over the state: the register file, the cores, the memories with their checks
and tags (08_memory R207 to R228), the Visitor Book's source queues (17_module R488, R490), sticky flags (R50), trap
records (R106 to R108) and fault reports (09_nupor_model R270). -/

namespace Sys2Proof.Machine

/-! Register offsets (R82, R175, R245, R341, R407, R409). -/

def hallBlock (h : Nat) : Nat := 0x01000000 + h * 0x00400000
def coreReg (n off : Nat) : Nat := hallBlock (n / 64) + 0x00100000 + 0x400 * (n % 64) + off
def cluReg (c off : Nat) : Nat := hallBlock (c / 8) + 0x00080000 + 0x400 * (c % 8) + off
def hallCat (h off : Nat) : Nat := hallBlock h + 0x2000 + off
def hallMem (h off : Nat) : Nat := hallBlock h + 0x3000 + off
def linkReg (l off : Nat) : Nat := hallBlock (l / 8) + 0x4000 + 0x100 * (l % 8) + off
def hallCour (h off : Nat) : Nat := hallBlock h + 0x5000 + off
def foy (off : Nat) : Nat := 0x02000000 + off
def tempoSlot (n off : Nat) : Nat := foy (0x00100000 + 0x40 * n + off)
def docentSlot (n off : Nat) : Nat := foy (0x00140000 + 0x20 * n + off)
def routeEntry (d off : Nat) : Nat := foy (0x00180000 + 0x10 * d + off)
def peerEntry (n off : Nat) : Nat := foy (0x00190000 + 0x400 * n + off)
def ringReg (n off : Nat) : Nat := 0x00100000 + 0x40 * n + off
def grantReg (n off : Nat) : Nat := 0x00300000 + 0x20 * n + off
def mbxReg (n off : Nat) : Nat := 0x2000 + 0x40 * n + off
def vbReg (off : Nat) : Nat := 0x00400000 + off
def cableReg (n : Nat) : Nat := foy (0x0740 + 8 * n)

/-! The register file. -/

def State.rget (s : State) (off : Nat) : DWord := Assoc.get 0 s.reg off
def State.rput (s : State) (off : Nat) (v : DWord) : State := { s with reg := Assoc.put 0 s.reg off v }
def State.fld (s : State) (off lo w : Nat) : Nat := fget (s.rget off) lo w
def State.setFld (s : State) (off lo w x : Nat) : State := s.rput off (fput (s.rget off) lo w x)
/-- A counter that wraps at 2^48 (R82 and the other counter rules). -/
def State.bump (s : State) (off n : Nat) : State := s.setFld off 0 48 (s.fld off 0 48 + n)
/-- A counter field that wraps at its own width. -/
def State.bumpFld (s : State) (off lo w n : Nat) : State := s.setFld off lo w (s.fld off lo w + n)

/-! Writers that meet in one HCLK (R9, R484). -/

/-- Of writers that name one field in one HCLK, the one of the highest rank prevails: the host, then the endpoint, then
firmware. -/
def writerRank : Writer → Nat
  | .firmware => 0
  | .endpoint => 1
  | .host => 2

/-- The bits of a register that a writer of a higher rank has written in this HCLK. -/
def State.claimed (s : State) (off : Nat) (w : Writer) : DWord :=
  if s.writtenAt = s.hclk then
    foldOver (fun (m : DWord) (e : Nat × DWord × Nat) => if e.1 = off ∧ writerRank w < e.2.2 then m ||| e.2.1 else m) 0 s.written
  else 0

/-- Keeps what a writer has written until the HCLK ends. -/
def State.claim (s : State) (off : Nat) (m : DWord) (w : Writer) : State :=
  { s with writtenAt := s.hclk
           written := (if s.writtenAt = s.hclk then s.written else []) ++ [(off, m, writerRank w)] }

/-! Cores, clusters, Halls and jobs. -/

def State.core (s : State) (n : Nat) : CoreSt := Assoc.get {} s.cores n
def State.setCore (s : State) (n : Nat) (c : CoreSt) : State := { s with cores := Assoc.put {} s.cores n c }
def State.cluster (s : State) (c : Nat) : ClusterSt := Assoc.get {} s.clusters c
def State.setCluster (s : State) (c : Nat) (x : ClusterSt) : State :=
  { s with clusters := Assoc.put {} s.clusters c x }
def State.hall (s : State) (h : Nat) : HallSt := Assoc.get {} s.halls h
def State.setHall (s : State) (h : Nat) (x : HallSt) : State := { s with halls := Assoc.put {} s.halls h x }
def State.tempoX (s : State) (n : Nat) : TempoX := Assoc.get {} s.tempo n
def State.setTempoX (s : State) (n : Nat) (x : TempoX) : State := { s with tempo := Assoc.put {} s.tempo n x }
def State.docX (s : State) (n : Nat) : DocX := Assoc.get {} s.docent n
def State.setDocX (s : State) (n : Nat) (x : DocX) : State := { s with docent := Assoc.put {} s.docent n x }
def State.link (s : State) (l : Nat) : LinkSt := Assoc.get {} s.links l
def State.setLink (s : State) (l : Nat) (x : LinkSt) : State := { s with links := Assoc.put {} s.links l x }
def State.job (s : State) (h : Nat) : Option Job := Assoc.find s.jobs h
def State.setJob (s : State) (h : Nat) (j : Job) : State := { s with jobs := Assoc.insert s.jobs h j }
def State.page (s : State) (p : Nat) : Page := Assoc.get {} s.pages p
def State.setPage (s : State) (p : Nat) (x : Page) : State := { s with pages := Assoc.put {} s.pages p x }

/-- Hands a value to the outside world. -/
def State.give (s : State) (o : Out) : State := { s with out := s.out ++ [o] }

/-- A request that the function does not support: the completion, and the AER status (R342). -/
def State.giveUnsupported (s : State) : State := { s with cfg := { s.cfg with aerUr := true } }.give .unsupported

/-- The next free value's number. -/
def State.draw (s : State) : State := { s with fresh := s.fresh + 1 }

/-! The Visitor Book: posting. -/

/-- The time entry of a packet (R488): NS, SEC, SYNCED of MGMT.TIME. -/
def State.time (s : State) : BitVec 63 := BitVec.ofNat 63 (s.rget (foy 0x0708)).toNat

/-- A source posts a packet; a source with four packets waiting drops it and counts it (R490). -/
def State.post (s : State) (event : Nat) (kind num : Nat) (job : Half) (payload : List DWord) : State :=
  let p : VPkt := ⟨BitVec.ofNat 16 event, BitVec.ofNat 4 kind, BitVec.ofNat 12 num, job, s.time, payload⟩
  if 4 ≤ (s.vbWait.filter (fun q => q.kind == p.kind && q.num == p.num)).length then
    s.bumpFld (vbReg 0x30) 0 32 1
  else { s with vbWait := s.vbWait ++ [p] }

/-- The locus word of a fault event (R489). -/
def locusWord (iaddr : Word) (unit aux : Half) : DWord := (aux ++ unit ++ iaddr : BitVec 64)

/-- An event of a fault code (R489). -/
def State.postFault (s : State) (code : Half) (kind num : Nat) (job : Half) (iaddr : Word) (unit aux : Half)
    (status : Nat) (more : List DWord) : State :=
  s.post code.toNat kind num job (locusWord iaddr unit aux :: BitVec.ofNat 64 status :: more)

/-! Sticky flags (R49, R50). -/

def State.jobFlags (s : State) (h : Half) (fl : BitVec 11) : State :=
  match s.job h.toNat with
  | some j => s.setJob h.toNat { j with flags := j.flags ||| fl }
  | none => s

/-- A unit of core `n` sets flags of the job that it serves. -/
def State.coreFlags (s : State) (n : Nat) (fl : BitVec 11) : State :=
  if fl = 0 then s
  else
    let c := s.core n
    (s.setCore n { c with flags := c.flags ||| fl }).jobFlags c.job fl

/-! Fault reports (R270). -/

def State.report (s : State) (r : Report) : State := { s with reports := s.reports ++ [{ r with sent := s.hclk }] }

/-- A unit of core `n` faults in the instruction at `iaddr`: the Caller stops accepting and reports. -/
def State.coreFault (s : State) (n : Nat) (iaddr : Word) (code aux : Half) : State :=
  let c := s.core n
  (s.setCore n { c with stopped := true, waits := [] }).report
    { job := c.job, code := code, iaddr := iaddr, unit := BitVec.ofNat 16 n, aux := aux }

/-! Fault codes (R443). -/

def codeNanTrap : Half := 0x0101#16
def codeScaleSeq : Half := 0x0102#16
def codeIntOverflow : Half := 0x0103#16
def codeEcc : Half := 0x0201#16
def codeBankConflict : Half := 0x0202#16
def codeTagTimeout : Half := 0x0203#16
def codeRegionBounds : Half := 0x0204#16
def codeQuarantine : Half := 0x0205#16
def codeBufferSize : Half := 0x0301#16
def codeAlignment : Half := 0x0302#16
def codeCountMismatch : Half := 0x0303#16
def codeAcmCapacity : Half := 0x0304#16
def codeTooLarge : Half := 0x0305#16
def codeIntRange : Half := 0x0306#16
def codeWindowClosed : Half := 0x0401#16
def codeWindowBounds : Half := 0x0402#16
def codeEpochStale : Half := 0x0403#16
def codePartition : Half := 0x0404#16
def codeLinkDown : Half := 0x0405#16
def codeGrant : Half := 0x0501#16
def codeRingOverflow : Half := 0x0502#16
def codeReplayLimit : Half := 0x0601#16
def codeBist : Half := 0x0602#16
def codeThermal : Half := 0x0603#16
def codePowerInput : Half := 0x0604#16
def codeClusterReset : Half := 0x0605#16
def codeProvenance : Half := 0x0606#16

/-! Trap records (R106 to R108). -/

/-- Where a NaN was produced. -/
structure NanLoc where
  tensor : Nat := 0
  source : Nat := 0
  k : Nat := 0
  index : Nat := 0xFFFFFFFF
  eng : Nat := 0
  row : Nat := 0
  pos : Nat := 0
  slot : Nat := 0
  aux : Half := 0
  deriving DecidableEq, Repr

/-- A NaN is produced in core `n` (R106): NAN_SEEN, the first record of the job in the core, and whether the job
faults NAN_TRAP. The fault is raised by the caller of this operation. -/
def State.nanRecord (s : State) (n : Nat) (iaddr : Word) (opcode : Nat) (l : NanLoc) : State :=
  let s := s.coreFlags n flagNaN
  if s.fld (coreReg n 0x100) 63 1 = 1 then s
  else
    let c := s.core n
    let w0 := iaddr.toNat + opcode * 2 ^ 32 + l.tensor % 4096 * 2 ^ 40 + l.source % 8 * 2 ^ 52 + 2 ^ 63
    let w1 := c.tileM % 2 ^ 20 + c.tileN % 2 ^ 20 * 2 ^ 20 + l.k % 2 ^ 20 * 2 ^ 40
    let w2 := l.index % 2 ^ 32 + l.eng % 16 * 2 ^ 32 + l.row % 128 * 2 ^ 36 + l.pos % 16 * 2 ^ 43 + l.slot % 8 * 2 ^ 47
    ((s.rput (coreReg n 0x100) (BitVec.ofNat 64 w0)).rput (coreReg n 0x108) (BitVec.ofNat 64 w1)).rput
      (coreReg n 0x110) (BitVec.ofNat 64 w2)

/-! Addresses (R207). -/

/-- The memory that a device address selects: 0 HBM, 1 Gallery, 2 Salon, others reserved. -/
def memSel (a : Nat) : Nat := a / 2 ^ 40

/-- Valid device address. -/
def addrValid (a : Nat) : Bool :=
  match memSel a with
  | 0 => decide (a < 0xC000000000)
  | 1 => decide (bitsOf a 30 10 = 0 ∧ bitsOf a 0 28 < 0x0C000000)
  | 2 => decide (bitsOf a 30 10 = 0)
  | _ => false

/-- Memory kind code of R232 for an address. -/
def kindCode (a : Nat) : Half :=
  match memSel a with
  | 0 => 5
  | 1 => 4
  | 2 => 3
  | _ => 15

def galHall (a : Nat) : Nat := bitsOf a 28 2
def galOff (a : Nat) : Nat := bitsOf a 0 28
def salonCore (a : Nat) : Nat := bitsOf a 22 8
def salonOff (a : Nat) : Nat := bitsOf a 0 22
def salonBase (n : Nat) : Nat := 0x020000000000 + n * 2 ^ 22
def galBase (h : Nat) : Nat := 0x010000000000 + h * 2 ^ 28
def hbmHall (a : Nat) : Nat := a / 0x3000000000
def pageOf (a : Nat) : Nat := a / 2 ^ 21

/-! Bytes. -/

def State.readByte (s : State) (a : Nat) : Byte :=
  if memSel a = 0 then (Assoc.find s.hbm a).getD (Config.hbmByte s.fresh a) else Assoc.get 0 s.sram a

def State.writeByte (s : State) (a : Nat) (b : Byte) : State :=
  if memSel a = 0 then { s with hbm := Assoc.insert s.hbm a b } else { s with sram := Assoc.put 0 s.sram a b }

def State.writeCells (s : State) (cs : List (Nat × Byte)) : State := foldOver (fun t c => t.writeByte c.1 c.2) s cs

def State.readBytes (s : State) (a n : Nat) : List Byte := (List.range n).map (fun i => s.readByte (a + i))

/-- Host memory as the device knows it. -/
def State.hostByte (s : State) (a : Nat) : Byte := (Assoc.find s.hostMem a).getD (Config.hostByte s.fresh a)
def State.hostBytes (s : State) (a n : Nat) : List Byte := (List.range n).map (fun i => s.hostByte (a + i))
def State.hostWrite (s : State) (a : Nat) (bs : List Byte) : State :=
  { s with hostMem := foldOver (fun m c => Assoc.insert m c.1 c.2) s.hostMem (cellsAt a bs) }
/-- What the host has written since, given with a command. -/
def State.learn (s : State) (hm : List Host.Cell) : State :=
  { s with hostMem := foldOver (fun m c => Assoc.insert m c.1 c.2) s.hostMem hm }

/-! Regions and tags (R221 to R227). -/

/-- The number of slots and the slot size of a circular region. -/
def Region.slotSize (r : Region) : Nat := 2 ^ (8 + r.slot)
def Region.slots (r : Region) : Nat := r.len / r.slotSize
def Region.covers (r : Region) (off len : Nat) : Bool := decide (r.base ≤ off ∧ off + len ≤ r.base + r.len)
def Region.usable (r : Region) (job : Half) : Bool :=
  r.valid && decide (r.owner < 2) && decide (r.job = job) && !r.quar

/-- First entry of a region table that satisfies `p`. -/
def regionFind (p : Region → Bool) : Assoc Region → Option (Nat × Region)
  | [] => none
  | (i, r) :: t => if p r then some (i, r) else regionFind p t

/-- Names a region: the table (a Salon's core or 256 + Hall) and the index. -/
def State.regionTable (s : State) (t : Nat) : Assoc Region := if t < 256 then (s.core t).regions else (s.hall (t - 256)).regions
def State.setRegion (s : State) (t i : Nat) (r : Region) : State :=
  if t < 256 then let c := s.core t; s.setCore t { c with regions := Assoc.put {} c.regions i r }
  else let h := s.hall (t - 256); s.setHall (t - 256) { h with regions := Assoc.put {} h.regions i r }
def State.regionAt (s : State) (t i : Nat) : Region := Assoc.get {} (s.regionTable t) i

/-- The table that holds an SRAM address and the offset in it. -/
def tableOf (a : Nat) : Nat × Nat := if memSel a = 2 then (salonCore a, salonOff a) else (256 + galHall a, galOff a)

/-- R223: whether an instruction of `job` on core `n` may access the line at `a`. A mailbox is not readable (R359). -/
def State.lineOk (s : State) (n : Nat) (job : Half) (wr : Bool) (a : Nat) : Bool :=
  addrValid a &&
  (if memSel a = 0 then decide ((s.page (pageOf a)).job = job ∧ job ≠ 0)
   else
    let t := tableOf a
    (decide (256 ≤ t.1) || decide (t.1 = n)) &&
      (regionFind (fun r => r.usable job && (wr || r.owner == 0) && r.covers t.2 64) (s.regionTable t.1)).isSome)

/-- The slot of a circular region that holds `a`: table, index, slot number. -/
def State.slotOf (s : State) (a : Nat) : Option (Nat × Nat × Nat) :=
  if memSel a = 0 then none
  else
    let t := tableOf a
    match regionFind (fun r => r.valid && r.circ && r.covers t.2 1) (s.regionTable t.1) with
    | some (i, r) => some (t.1, i, (t.2 - r.base) / r.slotSize)
    | none => none

/-- One number for a slot, and the tag of a slot. -/
def slotId (x : Nat × Nat × Nat) : Nat := (x.1 * 1024 + x.2.1) * 2 ^ 20 + x.2.2
def State.slotFull (s : State) (x : Nat × Nat × Nat) : Bool := (s.regionAt x.1 x.2.1).full.contains x.2.2
def State.setTag (s : State) (x : Nat × Nat × Nat) (full : Bool) : State :=
  let r := s.regionAt x.1 x.2.1
  s.setRegion x.1 x.2.1
    { r with full := if full then insertNat x.2.2 r.full else r.full.filter (fun y => y != x.2.2) }

/-- The auxiliary field of R228 for a region. -/
def regionAux (t i : Nat) : Half :=
  if t < 256 then BitVec.ofNat 16 (i % 1024 + t / 64 * 2 ^ 11)
  else BitVec.ofNat 16 (i % 1024 + 2 ^ 10 + (t - 256) % 4 * 2 ^ 11)

/-! What running an instruction gives. -/

/-- Done; waiting (with the auxiliary field of its time-out and whether R228 times it); or a fault. -/
inductive Res where
  | done (s : State)
  | wait (s : State) (w : Wait)
  | fail (s : State) (code aux : Half)
  deriving DecidableEq, Repr

/-- The context in which a unit of a core runs an instruction: the core, the instruction address, its opcode, and the
captured s and td registers (R259). -/
structure Ctx where
  n : Nat
  iaddr : Word
  opcode : Nat
  s : Assoc DWord
  td : Assoc TileReg
  deriving DecidableEq, Repr

def Ctx.sreg (c : Ctx) (r : BitVec 5) : DWord := Assoc.get 0 c.s r.toNat
def Ctx.tdreg (c : Ctx) (r : Nat) : TileReg := Assoc.get 0 c.td (r % 32)

/-- s[A] + IMM[47:0], sign-extended, modulo 2^48 (R254). -/
def Ctx.addr (c : Ctx) (a : BitVec 5) (off : BitVec 48) : Nat := ((c.sreg a).toNat + off.toNat) % 2 ^ 48

def State.setS (s : State) (n : Nat) (r : BitVec 5) (v : DWord) : State :=
  let c := s.core n
  s.setCore n { c with s := Assoc.put 0 c.s r.toNat v }

def State.setTd (s : State) (n : Nat) (r : Nat) (v : TileReg) : State :=
  let c := s.core n
  s.setCore n { c with td := Assoc.put 0 c.td r v }

/-! Bank conflicts (R216, R218). -/

/-- The bank of a line: Salon 0 to 63, Gallery 16 * group + bank; none in HBM. -/
def bankOf (a : Nat) : Option (Bool × Nat × Nat) :=
  match memSel a with
  | 1 => some (true, galHall a, galOff a / 2 ^ 22 * 16 + galOff a / 64 % 16)
  | 2 => some (false, salonCore a, salonOff a / 64 % 64)
  | _ => none

/-- Lines of one issue group in one memory: the number of lines in the fullest bank, and the lowest bank with more
than one line. -/
def groupConflict (banks : List Nat) : Nat × Option Nat :=
  let most := foldOver (fun m b => max m (banks.filter (fun x => x == b)).length) 0 banks
  let multi := banks.filter (fun b => decide (1 < (banks.filter (fun x => x == b)).length))
  (most - 1, match multi with | [] => none | b :: t => some (foldOver min b t))

/-- The memory of a line as one number: a Gallery's Hall, or 4 plus the core of a Salon. -/
def bankMemory (b : Bool × Nat × Nat) : Nat := if b.1 then b.2.1 else 4 + b.2.1

/-- The conflicts of the issue groups that some lines form, memory by memory in ascending number: the memory, the NCLK lost
and the lowest conflicting bank (R216). -/
def conflictScan (groups : List (List Nat)) : List (Nat × Nat × Nat) :=
  groups.flatMap (fun g =>
    let bs := (dedupNat g).filterMap bankOf
    (dedupNat (bs.map bankMemory)).filterMap (fun m =>
      match groupConflict ((bs.filter (fun b => bankMemory b == m)).map (fun b => b.2.2)) with
      | (k, some b) => some (m, k, b)
      | (_, none) => none))

/-- The auxiliary field of R218: the bank, bit 10 for the Gallery, the Hall of the Gallery or of the Salon's core. -/
def conflictAux (m b : Nat) : Half :=
  BitVec.ofNat 16 (if m < 4 then b + 1024 + m * 2048 else b + (m - 4) / 64 * 2048)

/-- Applies the job's conflict mode of each memory to the issue groups of an instruction, in their order (R218): a conflict
under mode 0 counts and flags, the first one under mode 1 faults. -/
def State.conflicts (s : State) (n : Nat) (groups : List (List Nat)) : State × Option Half :=
  let c := s.core n
  foldOver (fun (acc : State × Option Half) x =>
    match acc.2 with
    | some _ => acc
    | none =>
      if if x.1 < 4 then c.galFault else c.salonFault then (acc.1, some (conflictAux x.1 x.2.2))
      else
        ((acc.1.bump (if x.1 < 4 then hallMem x.1 0x000 else coreReg n 0x140) x.2.1).coreFlags n flagBankConflict, none))
    (s, none) (conflictScan groups)

/-- The issue groups of lines that the NET or cluster ports take: 16 at a time in each memory (R216). -/
def portGroups (ls : List Nat) : List (List Nat) :=
  let ms := dedupNat (ls.filterMap (fun a => (bankOf a).map bankMemory))
  ms.flatMap (fun m =>
    let own := ls.filter (fun a => (bankOf a).map bankMemory == some m)
    piecesOf 16 own.length own)

/-! Memory accesses of one instruction. -/

/-- The first address among `as` that is not 8-byte aligned (R210), or not accessible (R207, R223). -/
def State.accessFault (s : State) (n : Nat) (wr : Bool) (ranges : List (Nat × Nat)) : Option (Half × Half) :=
  let job := (s.core n).job
  match ranges.find? (fun r => decide (r.2 ≠ 0 ∧ addrValid r.1 = true ∧ memSel r.1 ≠ 0 ∧ r.1 % 8 ≠ 0)) with
  | some r => some (codeAlignment, kindCode r.1)
  | none =>
    match (ranges.flatMap (fun r => linesOf r.1 r.2)).find? (fun a => !(s.lineOk n job wr a)) with
    | some a => some (codeRegionBounds, kindCode a)
    | none => none

/-- The memory work of one instruction: the byte ranges that it reads and writes, what it stores given a reader, and
its tag actions (R225). -/
structure MemWork where
  reads : List (Nat × Nat)
  writes : List (Nat × Nat)
  setFull : Bool := false
  setEmpty : Bool := false
  /-- The issue groups of R216 where they are not the lines of each memory in ascending order by 16. -/
  groups : Option (List (List Nat)) := none
  /-- The byte ranges that a write line needs, where it can land before every read line has returned (R224). -/
  needs : Option (Nat → List (Nat × Nat)) := none
  /-- The check that the read data must pass before anything is written (R45, R158). -/
  check : (Nat → Byte) → Option (Half × Half) := fun _ => none

/-- The wait of the operation at an instruction address, if it waits. -/
def CoreSt.waitOf (c : CoreSt) (iaddr : Word) (opcode : Nat) : Option Wait :=
  c.waits.find? (fun w => decide (w.iaddr = iaddr ∧ w.opcode = opcode))

/-- The slots, without repeats, of the lines of some ranges. -/
def State.slotsOf (s : State) (ranges : List (Nat × Nat)) : List (Nat × Nat × Nat) :=
  (((ranges.flatMap (fun r => linesOf r.1 r.2)).filterMap s.slotOf).eraseDups)

/-- Whether the tag of its slot lets a line be read, or written (R224); a plain line never waits. -/
def State.lineFree (s : State) (wr : Bool) (a : Nat) : Bool :=
  match s.slotOf a with
  | some x => if wr then !(s.slotFull x) else s.slotFull x
  | none => true

/-- Sets the tags of some slots. -/
def State.setTags (s : State) (xs : List (Nat × Nat × Nat)) (full : Bool) : State := foldOver (fun t x => t.setTag x full) s xs

/-- Keeps the bytes of lines that have returned. -/
def State.keepLines (s : State) (got : List (Nat × Byte)) (ls : List Nat) : List (Nat × Byte) :=
  foldOver (fun g a => foldOver (fun m i => Assoc.insert m (a + i) (s.readByte (a + i))) g (List.range 64)) got ls

/-- The auxiliary field of R228 for the slot of a line. -/
def State.lineAux (s : State) (a : Nat) : Half :=
  match s.slotOf a with
  | some x => regionAux x.1 x.2.1
  | none => 0

/-- Runs the memory work (R223 to R225): checks every address before any line moves; each read line returns once its slot is
full, each write line lands once its slot is empty and the bytes that it needs have returned, whether or not others wait; a
slot's tag action follows its last line. What has returned and what has landed stands in the wait until all is done. -/
def State.transfer (s : State) (c : Ctx) (w : MemWork) (cells : (Nat → Byte) → List (Nat × Byte))
    (fin : (Nat → Byte) → State → Res) : Res :=
  match s.accessFault c.n false w.reads, s.accessFault c.n true w.writes with
  | some f, _ => .fail s f.1 f.2
  | none, some f => .fail s f.1 f.2
  | none, none =>
    let old := (s.core c.n).waitOf c.iaddr c.opcode
    let got := match old with | some x => x.got | none => []
    let landed := match old with | some x => x.done | none => []
    let presented := match old with | some x => x.issued | none => false
    let since := match old with | some x => x.since | none => s.hclk
    let rl := dedupNat (w.reads.flatMap (fun r => linesOf r.1 r.2))
    let wl := dedupNat (w.writes.flatMap (fun r => linesOf r.1 r.2))
    let conf := if presented then (s, none) else s.conflicts c.n (w.groups.getD (portGroups rl ++ portGroups wl))
    match conf.2 with
    | some aux => .fail conf.1 codeBankConflict aux
    | none =>
      let s1 := conf.1
      let toRead := rl.filter (fun a => (Assoc.find got a).isNone)
      let blockedR := toRead.filter (fun a => !(s1.lineFree false a))
      let back := toRead.filter (fun a => s1.lineFree false a)
      let s2 := if w.setEmpty then s1.setTags ((back.filterMap s1.slotOf).eraseDups) false else s1
      let rd := fun (a : Nat) => (Assoc.find got a).getD (s1.readByte a)
      match (if blockedR.isEmpty then w.check rd else none) with
      | some f => .fail s2 f.1 f.2
      | none =>
        let here := fun (r : Nat × Nat) => (linesOf r.1 r.2).all (fun a => !(blockedR.contains a))
        let ready := fun (a : Nat) => blockedR.isEmpty || (match w.needs with | some f => (f a).all here | none => false)
        let toWrite := wl.filter (fun a => !(landed.contains a))
        let blockedW := toWrite.filter (fun a => !(s2.lineFree true a))
        let now := toWrite.filter (fun a => s2.lineFree true a && ready a)
        let left := toWrite.filter (fun a => !(now.contains a))
        let s3 := if blockedR.isEmpty && landed.isEmpty && left.isEmpty then s2.writeCells (cells rd)
          else s2.writeCells ((cells rd).filter (fun x => now.contains (x.1 / 64 * 64)))
        let open_ := (left.filterMap s2.slotOf).eraseDups
        let s4 := if w.setFull then
            s3.setTags (((now.filterMap s2.slotOf).eraseDups).filter (fun x => !(open_.contains x))) true
          else s3
        match blockedR ++ blockedW with
        | [] => fin rd s4
        | b :: _ =>
          .wait s4 { iaddr := c.iaddr, opcode := c.opcode, since := since, aux := s1.lineAux b, timed := true,
                     got := s1.keepLines got back, done := landed ++ now, issued := true, onTag := true }

/-- Reads bytes through a reader. -/
def rdBytes (rd : Nat → Byte) (a n : Nat) : List Byte := (List.range n).map (fun i => rd (a + i))
def rdNat (rd : Nat → Byte) (a n : Nat) : Nat := leNat (rdBytes rd a n)

/-- The `w` bits from stream bit `i` of the stream at `a` (R28). -/
def rdBits (rd : Nat → Byte) (a i w : Nat) : Nat :=
  bitsOf (rdNat rd (a + i / 8) ((i % 8 + w + 7) / 8)) (i % 8) w

/-- Overlay of cells on a reader. -/
def overlay (cs : List (Nat × Byte)) (rd : Nat → Byte) : Nat → Byte := fun a => (Assoc.find cs a).getD (rd a)

/-- Puts `w` bits at stream bit `i` of the stream at `a` into a sparse byte image over `rd` (R28). -/
def putBits (rd : Nat → Byte) (img : Assoc Byte) (a i w x : Nat) : Assoc Byte :=
  let n := (i % 8 + w + 7) / 8
  let base := a + i / 8
  let old := leNat ((List.range n).map (fun j => (Assoc.find img (base + j)).getD (rd (base + j))))
  foldOver (fun m c => Assoc.insert m c.1 c.2) img (cellsAt base (leBytes n (bitsPut old (i % 8) w x)))

end Sys2Proof.Machine
end

