-- ==== Sys2Proof/Machine/Fence.lean ====
section
/-! DEFINITION. Host events, fences and the first step of a recovery (15_faults_inventory R436, R438, R440, R441,
R450, R451), and what an ECC error does where it is found (08_memory R231 to R234). -/

namespace Sys2Proof.Machine

/-- Raises an MSI-X vector; a masked vector becomes pending (R365). -/
def State.msix (s : State) (v : Nat) : State :=
  if fget (Assoc.get 0 s.msixTable (2 * v + 1)) 32 1 = 1 then
    let w := fput (Assoc.get 0 s.msixTable (4096 + v / 64)) (v % 64) 1 1
    { s with msixTable := Assoc.put 0 s.msixTable (4096 + v / 64) w }
  else s.give (.msix v)

/-- Sets bit `i` of HOST.EVENT; vector 0 follows where HOST.EVENT_EN enables it (R344). -/
def State.event (s : State) (i : Nat) : State :=
  let s := s.setFld 0x0028 i 1 1
  if s.fld 0x0030 i 1 = 1 then s.msix 0 else s

/-- ALERT_N follows the sources that are enabled or cannot be masked (R487). -/
def State.alertPin (s : State) : State :=
  let src := s.fld (foy 0x0720) 0 7
  let en := s.fld (foy 0x0720) 16 7
  let any := (List.range 7).any (fun j => bitAt src j && (decide (j < 3) || bitAt en j))
  { s with pins := { s.pins with alertN := !any } }

/-- Event 0x1070 of the module: the cause code, which the manual does not number, and the register concerned (R489). -/
def State.moduleEvent (s : State) (cause : Nat) (off : Nat) : State :=
  s.post 0x1070 7 0 0 [Config.moduleCause cause, s.rget off]

/-- Sources of ALERT_N: sets bit `i` of MGMT.ALERT.SRC, writes the change (event 0x1070) and drives the pin (R487). -/
def State.alert (s : State) (i : Nat) (on : Bool) : State :=
  let old := s.fld (foy 0x0720) i 1
  let new := if on then 1 else 0
  if old = new then s
  else ((s.setFld (foy 0x0720) i 1 new).moduleEvent i (foy 0x0720)).alertPin

/-- FAULT.SUMMARY.REPLACE and its alert source (R451). -/
def State.replaceMe (s : State) : State := (s.setFld (foy 0x0500) 0 1 1).alert 0 true

/-- The scope code and number of R434. -/
def scopeUnit : Scope → Half
  | .core n => BitVec.ofNat 16 (0x1000 + n.val)
  | .cluster n => BitVec.ofNat 16 (0x2000 + n.val)
  | .hall n => BitVec.ofNat 16 (0x3000 + n.val)
  | .device => 0x4000#16

/-- Source kind and number of a scope in the Visitor Book (R488). -/
def scopeSrc : Scope → Nat × Nat
  | .core n => (3, n.val)
  | .cluster n => (2, n.val)
  | .hall n => (1, n.val)
  | .device => (0, 0)

def coreFenced (s : State) (n : Nat) : Bool := bitAt (s.rget (foy (0x0010 + 8 * (n / 64)))).toNat (n % 64)
def setCoreFence (s : State) (n : Nat) (b : Bool) : State :=
  s.setFld (foy (0x0010 + 8 * (n / 64))) (n % 64) 1 (if b then 1 else 0)
def clusterServing (s : State) (c : Nat) : Bool := bitAt (s.rget (foy 0x0008)).toNat c
def setService (s : State) (c : Nat) (b : Bool) : State := s.setFld (foy 0x0008) c 1 (if b then 1 else 0)

/-- The clusters and cores of a scope. -/
def scopeClusters : Scope → List Nat
  | .core _ => []
  | .cluster n => [n.val]
  | .hall h => (List.range 8).map (fun i => 8 * h.val + i)
  | .device => List.range 32
def scopeCores : Scope → List Nat
  | .core n => [n.val]
  | .cluster n => (List.range 8).map (fun i => 8 * n.val + i)
  | .hall h => (List.range 64).map (fun i => 64 * h.val + i)
  | .device => List.range 256

/-- Whether the first scope contains the second, strictly. -/
def scopeContains : Scope → Scope → Bool
  | .device, .device => false
  | .device, _ => true
  | .hall h, .cluster c => decide (c.val / 8 = h.val)
  | .hall h, .core n => decide (n.val / 64 = h.val)
  | .cluster c, .core n => decide (n.val / 8 = c.val)
  | _, _ => false

/-- Fences or releases the units of a scope in the fence maps (R14, R15). -/
def State.fence (s : State) (sc : Scope) : State :=
  match sc with
  | .core n => setCoreFence s n.val true
  | _ => foldOver (fun t c => setService t c false) s (scopeClusters sc)

/-- Fences a unit until the next power cycle (R440, R451). -/
def State.permanent (s : State) (sc : Scope) : State :=
  let s := (s.setFld (foy 0x0500) 1 1 1).replaceMe
  match sc with
  | .core n =>
    let s := s.setFld (foy (0x0510 + 8 * (n.val / 64))) (n.val % 64) 1 1
    s.bumpFld (foy 0x0500) 8 8 1
  | .cluster n => (s.setFld (foy 0x0508) n.val 1 1).bumpFld (foy 0x0500) 16 6 1
  | .hall h =>
    let s := s.setFld (foy 0x0500) (24 + h.val) 1 1
    foldOver (fun t c => t.setFld (foy 0x0008) (32 + c) 1 1) s (scopeClusters sc)
  | .device => s

/-- The device-scope safe state (R449): READY 0, SAFE 1, FAULT_N low, every cluster gated. -/
def State.safeState (s : State) : State :=
  let s := (s.setFld 0x0008 2 1 1).setFld 0x0008 0 1 0
  let s := (s.setFld (foy 0x0500) 5 1 1).replaceMe
  let s := s.setFld (foy 0x0008) 32 32 0xFFFFFFFF
  { s with phase := .safe, pins := { s.pins with faultN := false } }

/-- HCLK in 24 hours. -/
def dayHclk : Nat := 51840000000000

/-- Step 1 of a recovery (R438), in the HCLK of detection: fence, FAULT.LAST, the counter and the Visitor Book event;
R441 decides when it meets another recovery; the third within 24 hours is not reset (R440). -/
def State.beginRecovery (s : State) (sc : Scope) (code aux : Half) : State :=
  if s.recoveries.any (fun r => scopeContains r.scope sc) then s
  else if s.recoveries.any (fun r => decide (r.scope = sc)) then
    { s with recoveries := s.recoveries.map (fun r => if r.scope = sc then { r with stuck := true } else r) }
  else
    let past := (s.history.filter (fun h => decide (h.1 = sc ∧ s.hclk < h.2 + dayHclk))).length
    let s := { s with
      recoveries := (s.recoveries.filter (fun (r : Recovery) => !(scopeContains sc r.scope))) ++
        [({ scope := sc, since := s.hclk, code := code, stuck := decide (2 ≤ past) } : Recovery)],
      history := s.history ++ [(sc, s.hclk)] }
    let s := s.fence sc
    let s := s.rput (foy 0x0550)
      (BitVec.ofNat 64 (code.toNat + (scopeUnit sc).toNat * 2 ^ 16 + aux.toNat * 2 ^ 32))
    let s := s.post 0x1040 (scopeSrc sc).1 (scopeSrc sc).2 0 [BitVec.ofNat 64 (scopeUnit sc).toNat, BitVec.ofNat 64 code.toNat]
    match sc with
    | .core _ => s.bump (foy 0x0530) 1
    | .cluster _ => s.bump (foy 0x0538) 1
    | .hall h => ((s.bump (foy 0x0540) 1).setFld (foy 0x0500) (28 + h.val) 1 1).event 2
    | .device =>
      let s := ((s.bump (foy 0x0548) 1).setFld (foy 0x0500) 32 1 1).setFld 0x0008 0 1 0
      let s := { s with pins := { s.pins with faultN := false } }
      let s := s.event 2
      if 2 ≤ past then (s.setFld (foy 0x0500) 4 1 1).replaceMe else s

/-! Memory errors. -/

/-- The Hall that counts an error: of the address, or of the core for a memory outside the address space. -/
def eccHall (e : EccHit) (n : Nat) : Nat :=
  match e.kind.toNat with
  | 4 => galHall e.addr
  | 5 => hbmHall e.addr
  | _ => n / 64

/-- Whether the word's code is DEC-TED (R230): the weight Vitrine, and the class of the region or page. -/
def State.eccClassW (s : State) (e : EccHit) : Bool :=
  match e.kind.toNat with
  | 0 => true
  | 3 => let t := tableOf e.addr
         ((regionFind (fun r => r.valid && r.covers t.2 1) (s.regionTable t.1)).map (fun x => x.2.clsW)).getD false
  | 4 => let t := tableOf e.addr
         ((regionFind (fun r => r.valid && r.covers t.2 1) (s.regionTable t.1)).map (fun x => x.2.clsW)).getD false
  | 5 => (s.page (pageOf e.addr)).clsW
  | _ => false

/-- An uncorrectable error: more wrong bits than the code corrects (R230, R232). -/
def State.eccFatal (s : State) (e : EccHit) : Bool := decide ((if s.eccClassW e then 2 else 1) < e.bits)

/-- Retires a page (R233, R234): the map, the flash list, the counts and the Visitor Book. `ue` for an uncorrectable
error, which takes the page from its region at once. -/
def State.retirePage (s : State) (p : Nat) (ue : Bool) : State :=
  let x := s.page p
  if x.retired then s
  else
    let s := s.setPage p { x with retired := true, job := if ue then 0 else x.job }
    let h := hbmHall (p * 2 ^ 21)
    let s := s.post 0x1011 1 h 0 [BitVec.ofNat 64 (p * 2 ^ 21), if ue then 1 else 0]
    let full := decide (4096 ≤ s.flash.retired.length)
    let s := if full then s else { s with flash := { s.flash with retired := s.flash.retired ++ [p] } }
    let s := if full then s else (s.bumpFld (foy 0x00C0) 0 13 1).bumpFld (hallMem h 0x020) 0 13 1
    let s := if 4096 ≤ s.flash.retired.length then s.setFld (foy 0x00C0) 16 1 1 else s
    if 512 ≤ s.fld (hallMem h 0x020) 0 13 || decide (4096 ≤ s.flash.retired.length) then
      ((s.setFld (foy 0x00C0) 17 1 1).setFld (foy 0x0500) 3 1 1).replaceMe
    else s

/-- A correctable error (R231, R233): the counter, an entry while the window's 64 last, and the page's record. -/
def State.eccCorrect (s : State) (n : Nat) (e : EccHit) : State :=
  let h := eccHall e n
  let s := match e.kind.toNat with
    | 4 => s.bump (hallMem h 0x010) 1
    | 6 => s.bump (hallMem h 0x010) 1
    | 5 => s.bump (hallMem h 0x018) 1
    | _ => s.bump (coreReg n 0x150) 1
  let x := s.hall h
  let s := if x.ceEntries < 64 then
      (s.setHall h { x with ceEntries := x.ceEntries + 1 }).post 0x1010 1 h 0
        [BitVec.ofNat 64 e.addr, BitVec.ofNat 64 e.kind.toNat]
    else s
  if e.kind.toNat = 5 then
    let p := pageOf e.addr
    let x := s.hall h
    match x.cePages.find? (fun r => r.1 == p) with
    | some r =>
      let times := (r.2.filter (fun t => decide (s.hclk < t + dayHclk))) ++ [s.hclk]
      let s := s.setHall h { x with cePages := x.cePages.map (fun q => if q.1 = p then (p, times) else q) }
      if 3 ≤ times.length then s.retirePage p false else s
    | none =>
      let keep := if 256 ≤ x.cePages.length then x.cePages.drop 1 else x.cePages
      s.setHall h { x with cePages := keep ++ [(p, [s.hclk])] }
  else s

/-- The jobs that R232 ends for an error in a Catalogue or a firmware region of Hall `h`. -/
def State.hallJobs (s : State) (h : Nat) : List Half :=
  (s.jobs.filter (fun j => decide (j.2.phase = .running) &&
    ((List.range 8).any (fun i => bitAt j.2.mapped.toNat (8 * h + i)) ||
     j.2.pages.any (fun p => hbmHall (p * 2 ^ 21) == h)))).map (fun j => BitVec.ofNat 16 j.1)

/-- Reports an error to every job of a list but one. -/
def State.eccOthers (s : State) (h : Nat) (kind : Half) (job : Half) (jobs : List Half) : State :=
  foldOver (fun t j => t.report { job := j, code := codeEcc, iaddr := 0, unit := BitVec.ofNat 16 h, aux := kind }) s
    (jobs.filter (fun j => j != job))

/-- The latch and the Visitor Book entry of an uncorrectable error (R232, R245). -/
def State.eccLatch (s : State) (h : Nat) (job : Half) (iaddr : Word) (unit : Half) (e : EccHit) : State :=
  let kind : Half := e.kind.setWidth 16
  (s.rput (hallMem h 0x028) (BitVec.ofNat 64 (e.addr % 2 ^ 48 + e.kind.toNat * 2 ^ 48 + 2 ^ 63))).postFault codeEcc 1 h job iaddr unit
    kind (if job = 0 then 0 else 1) [BitVec.ofNat 64 e.addr]

/-- What an uncorrectable error does beyond the access that met it, by where it lies; `n` is the core concerned (R232). -/
def State.eccScope (s : State) (n : Nat) (job : Half) (e : EccHit) : State :=
  let h := eccHall e n
  let kind : Half := e.kind.setWidth 16
  match e.kind.toNat with
  | 3 => s.beginRecovery (.cluster (Fin.ofNat 32 (n / 8))) codeEcc kind
  | 4 =>
    let t := tableOf e.addr
    if (regionFind (fun r => r.valid && r.owner == 2 && r.covers t.2 1) (s.regionTable t.1)).isSome
        || decide (t.2 < 0x400000) then
      (s.eccOthers h kind job (s.hallJobs h)).beginRecovery (.hall (Fin.ofNat 4 h)) codeEcc kind
    else s
  | 5 =>
    let jobs := s.hallJobs h
    let s := s.retirePage (pageOf e.addr) true
    if 0x2F80000000 ≤ e.addr % 0x3000000000 then (s.eccOthers h kind job jobs).beginRecovery (.hall (Fin.ofNat 4 h)) codeEcc kind
    else s
  | 6 => s.eccOthers h kind job ((s.hall h).regs.map (fun r => r.job)).eraseDups
  | _ => s.beginRecovery (.core (Fin.ofNat 256 n)) codeEcc kind

/-- An uncorrectable error met by an instruction of core `n`: latch, Visitor Book, the scope's consequence; the access faults
(R232). -/
def State.eccFault (s : State) (n : Nat) (iaddr : Word) (e : EccHit) : State :=
  let job := (s.core n).job
  let s := s.eccLatch (eccHall e n) job iaddr (BitVec.ofNat 16 n) e
  (s.coreFault n iaddr codeEcc (e.kind.setWidth 16)).eccScope n job e

/-- The errors that the reads of an instruction meet: the corrected ones are counted; the first uncorrectable one is
given back. -/
def State.eccMeet (s : State) (n : Nat) (hits : List EccHit) : State × Option EccHit :=
  match hits.find? (fun e => s.eccFatal e) with
  | some e => (foldOver (fun t x => t.eccCorrect n x) s ((hits.takeWhile (fun x => !(s.eccFatal x)))), some e)
  | none => (foldOver (fun t x => t.eccCorrect n x) s hits, none)

/-- The core that an error concerns: that of a Salon address, else the one given. -/
def eccCore (e : EccHit) (n : Nat) : Nat := if e.kind = 3 then salonCore e.addr else n

/-- The errors that a read by the Curator, the Hall DMA, the Courier or the host meets: the corrected ones are counted; an
uncorrectable one gives no data and faults job `job`, if any, with instruction address 0 and the unit given (R231, R232). True
where the read had its data. -/
def State.eccDma (s : State) (n : Nat) (unit job : Half) (hits : List EccHit) : State × Bool :=
  let r := s.eccMeet n hits
  match r.2 with
  | none => (r.1, true)
  | some e =>
    let k := eccCore e n
    let t := r.1.eccLatch (eccHall e k) job 0 unit e
    let t := if job = 0 then t else t.report { job := job, code := codeEcc, iaddr := 0, unit := unit, aux := e.kind.setWidth 16 }
    (t.eccScope k job e, false)

end Sys2Proof.Machine
end

