-- ==== Sys2Proof/Machine/Operands.lean ====
section
/-! DEFINITION. Tile operands: the descriptor (09_nupor_model R249 to R251), where its elements lie (R250), the
blocks and headers of grouped tensors (02_number_formats R42 to R47), and writing a tile. -/

namespace Sys2Proof.Machine

/-- A tile descriptor's fields (R249). ROWS and KEXT stay encoded (minus one). -/
structure Td where
  base : Nat
  fmt : Nat
  spf : Nat
  gsize : Nat
  trans : Bool
  gov : Bool
  map : Bool
  scale : Nat
  tensor : Nat
  seq0 : Nat
  aux : Nat
  region : Nat
  goff : Nat
  rows : Nat
  kext : Nat
  rstride : Nat
  deriving DecidableEq, Repr

def Td.of (v : TileReg) : Td :=
  let x := v.toNat
  { base := bitsOf x 0 48, fmt := bitsOf x 48 6, spf := bitsOf x 54 4, gsize := bitsOf x 58 2,
    trans := bitAt x 60, gov := bitAt x 61, map := bitAt x 62, scale := bitsOf x 64 48,
    tensor := bitsOf x 112 12, seq0 := bitsOf x 124 4, aux := bitsOf x 128 48, region := bitsOf x 176 10,
    goff := bitsOf x 186 4, rows := bitsOf x 192 16, kext := bitsOf x 208 24, rstride := bitsOf x 232 24 }

/-- The format, none for a reserved code. -/
def Td.format (t : Td) : Option Fmt := Fmt.ofCode t.fmt
def Td.fm (t : Td) : Fmt := t.format.getD (.xu 8)
def Td.width (t : Td) : Nat := t.fm.width
def Td.grouped (t : Td) : Bool := decide (t.scale ≠ 0)
/-- G of R42 for a GSIZE code. -/
def groupLen (gsize : Nat) : Nat := 32 * 2 ^ gsize
def Td.g (t : Td) : Nat := groupLen t.gsize

/-- R251: validity of a descriptor. KEXT is a 24-bit field, so KEXT + 1 never exceeds 2^24. -/
def Td.valid (t : Td) : Bool :=
  t.format.isSome && decide (t.spf ≤ 6) && (!t.grouped || (decide (t.gsize ≠ 3) && t.fm.groupable))

/-- D of R43. -/
def blockBytes (g w : Nat) : Nat := 64 * ceilDiv (8 + 2 * g * w) 64
/-- D of R145 for a grouped F24 data stream. -/
def blockBytesF24 (g w : Nat) : Nat := 64 * ceilDiv (8 + g * w) 64
def Td.d (t : Td) : Nat := if t.spf = 1 then blockBytesF24 t.g t.width else blockBytes t.g t.width

/-- Groups per row: RSTRIDE, which a sparse operand ignores (R249). -/
def Td.pitch (t : Td) : Nat := if t.spf = 0 then t.rstride else ceilDiv (t.kext + 1) t.g

/-- The tile group of an element (R250). -/
def Td.group (t : Td) (r k : Nat) : Nat := t.goff + r * t.pitch + k / t.g

/-- Where the code of element (r, k) of a dense tile lies: stream address and bit (R250). -/
def Td.loc (t : Td) (r k : Nat) : Nat × Nat :=
  if t.grouped then
    let g := t.group r k
    (t.base + g / 16 * t.d + 8, (g % 16 * t.g + k % t.g) * t.width)
  else (t.base, 64 * t.rstride * r + t.width * k)

def Td.code (t : Td) (rd : Nat → Byte) (r k : Nat) : Nat :=
  let l := t.loc r k
  rdBits rd l.1 l.2 t.width

/-- The XS8 code of a tile group; 0x78 (one) for an ungrouped tile. -/
def Td.scaleCode (t : Td) (rd : Nat → Byte) (r k : Nat) : Nat :=
  if t.grouped then
    let g := t.group r k
    (rd (t.scale + 32 * (g / 16) + g % 16)).toNat
  else 0x78

/-- The blocks, counted from the block at BASE, that hold the groups of elements k0 to k1 of rows lo to lo + cnt - 1. -/
def Td.winBlocks (t : Td) (lo cnt k0 k1 : Nat) : List Nat :=
  if t.grouped then
    dedupNat ((List.range cnt).flatMap (fun r =>
      let a := t.group (lo + r) k0 / 16
      (List.range (t.group (lo + r) k1 / 16 - a + 1)).map (fun i => a + i)))
  else []

/-- The byte ranges of elements k0 to k1 of rows lo to lo + cnt - 1 of a dense tile. -/
def Td.winRanges (t : Td) (lo cnt k0 k1 : Nat) : List (Nat × Nat) :=
  if t.grouped then
    (t.winBlocks lo cnt k0 k1).flatMap (fun j => [(t.base + j * t.d, t.d), (t.scale + 32 * j, 32)])
  else
    (List.range cnt).map (fun r =>
      let b0 := t.width * k0 / 8
      (t.base + 8 * t.rstride * (lo + r) + b0, ceilDiv (t.width * (k1 + 1)) 8 - b0))

/-- The blocks that hold the tile's groups. -/
def Td.blocks (t : Td) : List Nat := t.winBlocks 0 (t.rows + 1) 0 t.kext

/-- The byte ranges of a dense tile. -/
def Td.ranges (t : Td) : List (Nat × Nat) := t.winRanges 0 (t.rows + 1) 0 t.kext

/-- The bounding interval of some ranges, for the interlock (R262). -/
def bounding (l : List (Nat × Nat)) : List (Nat × Nat) :=
  match l with
  | [] => []
  | r :: t =>
    let lo := foldOver (fun m x => min m x.1) r.1 t
    let hi := foldOver (fun m x => max m (x.1 + x.2)) (r.1 + r.2) t
    [(lo, hi - lo)]

/-- The bounding intervals of a dense tile: its data stream and its scale stream. -/
def Td.bounds (t : Td) : List (Nat × Nat) :=
  if t.grouped then
    bounding (t.blocks.map (fun j => (t.base + j * t.d, t.d))) ++ bounding (t.blocks.map (fun j => (t.scale + 32 * j, 32)))
  else bounding t.ranges

/-- The block header word of R44. -/
def headerWord (seq kind fmt gsize tensor : Nat) : Nat :=
  seq % 16 + kind * 2 ^ 4 + fmt % 64 * 2 ^ 8 + gsize % 4 * 2 ^ 14 + tensor % 4096 * 2 ^ 16

/-- Whether a header agrees with the descriptor in block `j` (R45); reserved bits are ignored. -/
def Td.headerOk (t : Td) (kind j h : Nat) : Bool :=
  decide (h % 2 ^ 28 = headerWord (t.seq0 + j) kind t.fmt t.gsize t.tensor)

/-- The first block of a list whose headers break R45. -/
def Td.badIn (t : Td) (rd : Nat → Byte) (blocks : List Nat) : Option Nat :=
  blocks.find? (fun j =>
    !(t.headerOk 1 j (rdNat rd (t.base + j * t.d) 8) && t.headerOk 2 j (rdNat rd (t.scale + 32 * j + 16) 8)))

/-- The first block of the tile whose headers break R45. -/
def Td.badBlock (t : Td) (rd : Nat → Byte) : Option Nat := t.badIn rd t.blocks

/-- SCALE_SEQ with the block or record number (R45, R158). -/
def seqFault (bad : Option Nat) : Option (Half × Half) :=
  bad.map (fun j => (codeScaleSeq, BitVec.ofNat 16 j))

/-- An integer code times its group scale times a tensor scale, exact. -/
def intScaled (f : Fmt) (code sc : Nat) (sm : Nat) (se : Int) : Val :=
  if sc = 0xFF then .nan
  else
    let i := f.intOf code
    let a := xs8Mag sc
    .fin (decide (i < 0)) (i.natAbs * a.1 * sm) (a.2 + se)

/-- The exact value of element (r, k) as XLOAD takes it (R283): integers times their scales, floats decoded. -/
def Td.value (t : Td) (rd : Nat → Byte) (sm : Nat) (se : Int) (r k : Nat) : Val :=
  match t.fm with
  | .xu w => intScaled (.xu w) (t.code rd r k) (t.scaleCode rd r k) sm se
  | .xi w => intScaled (.xi w) (t.code rd r k) (t.scaleCode rd r k) sm se
  | .xb1 => intScaled .xb1 (t.code rd r k) (t.scaleCode rd r k) sm se
  | f => f.decode (t.code rd r k)

/-- A binary32 scale as mantissa and exponent; 1.0 when it is not positive and finite (R282). -/
def scaleOf (b : Word) : Nat × Int :=
  if f32PosFinite b then (match f32Val b with | .fin _ m e => (m, e) | _ => (1, 0)) else (1, 0)

/-- What writing a tile gives: a byte image, flags, the first element whose conversion produced a NaN, and whether a
group had maximum 0. -/
structure TileOut where
  img : Assoc Byte := []
  flags : BitVec 11 := 0
  nan : Option Nat := none
  zeroGroup : Bool := false
  deriving DecidableEq, Repr

def TileOut.join (o : TileOut) (fl : BitVec 11) (nan : Option Nat) : TileOut :=
  { o with flags := o.flags ||| fl, nan := match o.nan with | some x => some x | none => nan }

/-- Writes an ungrouped tile: each element converts once (R33 to R37). -/
def Td.putPlain (t : Td) (rd : Nat → Byte) (satNan : Bool) (sm : Nat) (se : Int) (v : Nat → Nat → Val)
    (skip : Nat → Nat → Bool) : TileOut :=
  foldOver (fun o r =>
    foldOver (fun o k =>
      if skip r k then o
      else
        let c := t.fm.encode satNan sm se (v r k)
        let l := t.loc r k
        { o.join c.flags (if c.nan then some (r * (t.kext + 1) + k) else none) with
          img := putBits rd o.img l.1 l.2 t.width c.code }) o (List.range (t.kext + 1)))
    {} (List.range (t.rows + 1))

/-- The largest finite magnitude of some values; zero when there is none. -/
def maxMag (vs : List Val) : Val :=
  foldOver (fun m v =>
    match m, v with
    | .fin _ a e, .fin _ b f => if magLe a e b f then .fin false b f else m
    | m, _ => m) (.fin false 0 0) vs

def valFinite : Val → Bool
  | .fin _ _ _ => true
  | _ => false

/-- One group of a grouped integer target from its elements within the row: scale code, element codes, flags, zero
maximum (R38, R46, R124). Elements marked as outliers enter no maximum, store 0 and set no flag here: their conversion is
the one into the side tensor (R134; notes/assumptions/154.md). A poisoned group only propagates (R36): it sets no flag,
whatever finite elements stand beside the NaN or infinity (notes/assumptions/155.md). -/
def encodeGroup (f : Fmt) (sm : Nat) (se : Int) (vs : List (Val × Bool)) : Nat × List Nat × BitVec 11 × Bool :=
  let own := (vs.filter (fun v => !v.2)).map (fun v => v.1)
  if own.any (fun v => !(valFinite v)) then
    (0xFF, vs.map (fun _ => 0), 0, false)
  else
    match maxMag own with
    | .fin _ m e =>
      if m = 0 then
        (0, vs.map (fun _ => 0),
          if f = .xb1 then foldOver (fun fl v => fl ||| (encodeXB1 v).flags) 0 own else 0, true)
      else
        let q := if f.isInt then qmax f.width f.signed else 1
        let r := shiftFrac m (sm * q) (e - se)
        let sc := xs8Up r.1 r.2
        let a := xs8Mag sc.1
        let cs := vs.map (fun v =>
          if v.2 then (0, (0 : BitVec 11))
          else match f, v.1 with
            | .xb1, x => let c := encodeXB1 x; (c.code, c.flags)
            | _, .fin neg vm ve =>
              let x := quoFrac vm ve (sm * a.1) (se + a.2)
              let c := encodeInt f.width f.signed neg x.1 x.2
              (c.code, c.flags)
            | _, _ => (0, 0))
        (sc.1, cs.map (fun c => c.1), foldOver (fun fl c => fl ||| c.2) sc.2 cs, false)
    | _ => (0, vs.map (fun _ => 0), 0, true)

/-- The tile position (row, first k) of a tile group, if the group lies in the tile. -/
def Td.groupAt (t : Td) (gi : Nat) : Option (Nat × Nat) :=
  (List.range (t.rows + 1)).findSome? (fun r =>
    let a := t.group r 0
    if a ≤ gi ∧ gi ≤ t.group r t.kext then some (r, (gi - a) * t.g) else none)

/-- Writes a grouped tile in whole blocks: codes, scales, both headers and padding (R43, R47). `grp` gives the scale
code, codes and flags of the group that starts at (r, k); `hdr` the header words of a block. -/
def Td.putBlocks (t : Td) (hdr : Nat → Nat × Nat) (grp : Nat → Nat → Nat × List Nat × BitVec 11 × Bool) : TileOut :=
  foldOver (fun o j =>
    let h := hdr j
    let blank := cellsAt (t.base + j * t.d) (leBytes 8 h.1 ++ (List.range (t.d - 8)).map (fun _ => (0 : Byte))) ++
      cellsAt (t.scale + 32 * j) ((List.range 16).map (fun _ => (0 : Byte)) ++ leBytes 8 h.2 ++ leBytes 8 0)
    let o := { o with img := foldOver (fun m c => Assoc.insert m c.1 c.2) o.img blank }
    foldOver (fun o i =>
      match t.groupAt (16 * j + i) with
      | none => o
      | some (r, k) =>
        let e := grp r k
        let img := Assoc.insert o.img (t.scale + 32 * j + i) (BitVec.ofNat 8 e.1)
        let img := (foldOver (fun (acc : Assoc Byte × Nat) c =>
          (putBits (fun _ => 0) acc.1 (t.base + j * t.d + 8) ((i * t.g + acc.2) * t.width) t.width c, acc.2 + 1))
          (img, 0) e.2.1).1
        { (o.join e.2.2.1 none) with img := img, zeroGroup := o.zeroGroup || e.2.2.2 }) o (List.range 16))
    {} t.blocks

/-- Writes a tile through the conversion rules: the values `v`, the outlier elements `out`, which are stored as 0 and set
no flag in this tensor (R134; notes/assumptions/154.md). -/
def Td.put (t : Td) (rd : Nat → Byte) (satNan : Bool) (sm : Nat) (se : Int) (v : Nat → Nat → Val)
    (out : Nat → Nat → Bool) : TileOut :=
  if t.grouped then
    t.putBlocks (fun j => (headerWord (t.seq0 + j) 1 t.fmt t.gsize t.tensor, headerWord (t.seq0 + j) 2 t.fmt t.gsize t.tensor))
      (fun r k => encodeGroup t.fm sm se
        ((List.range (min t.g (t.kext + 1 - k))).map (fun i => (v r (k + i), out r (k + i)))))
  else t.putPlain rd satNan sm se (fun r k => if out r k then .fin false 0 0 else v r k) (fun _ _ => false)

/-- The entry `j` of a row map (R250). -/
def mapEntry (rd : Nat → Byte) (aux j : Nat) : Nat := rdNat rd (aux + 2 * j) 2

end Sys2Proof.Machine
end

