-- ==== Sys2Proof/Machine/Flags.lean ====
section
/-! DEFINITION. The comparison codes that write predicates (10_nupor_reference R278), the ALU operation codes (R279),
and the int32 entry of R89 with its saturation flag. -/

namespace Sys2Proof.Machine

def lowWord (v : DWord) : Word := v.setWidth 32

/-- The integer and binary32 comparisons 0x0 to 0xA of SETP (R278); none for another code. -/
def compareOp (cmp : BitVec 4) (l r : DWord) : Option Bool :=
  match cmp.toNat with
  | 0x0 => some (decide (l = r))
  | 0x1 => some (decide (l ≠ r))
  | 0x2 => some (l.slt r)
  | 0x3 => some (!(l.slt r))
  | 0x4 => some (l.ult r)
  | 0x5 => some (!(l.ult r))
  | 0x6 => some (l.sle r)
  | 0x7 => some (!(l.sle r))
  | 0x8 => some (f32Eq (lowWord l) (lowWord r))
  | 0x9 => some (f32Lt (lowWord l) (lowWord r))
  | 0xA => some (f32Le (lowWord l) (lowWord r))
  | _ => none

/-- The predicate combinations 0xB to 0xD of SETP (R278). -/
def predicateOp (cmp : BitVec 4) (b c : Bool) : Option Bool :=
  match cmp.toNat with
  | 0xB => some (b && c)
  | 0xC => some (b || c)
  | 0xD => some (b && !c)
  | _ => none

/-- The codes of SETP that are not reserved. -/
def cmpKnown (cmp : BitVec 4) : Bool := decide (cmp.toNat ≤ 0xD)

/-- A predicate register reads as its bit; p15 always reads 1 (R247). -/
def readPred (p : BitVec 16) (r : Nat) : Bool := r % 16 == 15 || p.getLsbD (r % 16)

/-- Writing a predicate register; a write to p15 is discarded (R247). -/
def writePred (p : BitVec 16) (r : Nat) (b : Bool) : BitVec 16 :=
  if r % 16 = 15 then p
  else BitVec.ofNat 16 (bitsPut p.toNat (r % 16) 1 (if b then 1 else 0))

/-- binary32 results are written zero-extended (R279). -/
def wide (w : Word) : DWord := w.setWidth 64

/-- The ALU (R279); none for a reserved operation code. -/
def aluOp (op : BitVec 6) (l r : DWord) : Option DWord :=
  match op.toNat with
  | 0x00 => some (l + r)
  | 0x01 => some (l - r)
  | 0x02 => some (l * r)
  | 0x03 => some (BitVec.ofNat 64 (l.toNat * r.toNat / 2 ^ 64))
  | 0x04 => some (if r = 0 then BitVec.allOnes 64 else l / r)
  | 0x05 => some (if r = 0 then l else l % r)
  | 0x08 => some (l &&& r)
  | 0x09 => some (l ||| r)
  | 0x0A => some (l ^^^ r)
  | 0x0C => some (l <<< (r.toNat % 64))
  | 0x0D => some (l >>> (r.toNat % 64))
  | 0x0E => some (l.sshiftRight (r.toNat % 64))
  | 0x10 => some (if l.slt r then l else r)
  | 0x11 => some (if l.slt r then r else l)
  | 0x12 => some (if l.ult r then l else r)
  | 0x13 => some (if l.ult r then r else l)
  | 0x20 => some (wide (f32Add (lowWord l) (lowWord r)))
  | 0x21 => some (wide (f32Sub (lowWord l) (lowWord r)))
  | 0x22 => some (wide (f32Mul (lowWord l) (lowWord r)))
  | 0x23 => some (wide (f32Min (lowWord l) (lowWord r)))
  | 0x24 => some (wide (f32Max (lowWord l) (lowWord r)))
  | 0x28 => some (wide (i64ToF32 l))
  | 0x29 => some (f32ToI64 (lowWord l))
  | _ => none

/-- The operation codes of the ALU that are not reserved. -/
def aluKnown (op : BitVec 6) : Bool :=
  [0x00, 0x01, 0x02, 0x03, 0x04, 0x05, 0x08, 0x09, 0x0A, 0x0C, 0x0D, 0x0E, 0x10, 0x11, 0x12, 0x13,
   0x20, 0x21, 0x22, 0x23, 0x24, 0x28, 0x29].contains op.toNat

/-- int_enter of R89: the new accumulator and whether it saturated. -/
def intEnter (acc : Word) (y : Int) : Word × Bool :=
  let z := acc.toInt + y
  if (2 ^ 31 - 1 : Int) < z then (0x7FFFFFFF#32, true)
  else if z < -(2 ^ 31 : Int) then (0x80000000#32, true)
  else (BitVec.ofInt 32 z, false)

/-- A binary32 addition that reports a produced NaN (R106) and a flush (R41). -/
def f32AddF (ftz : Bool) (a b : Word) : Word × Bool × Bool :=
  let r := f32Add a b
  let f := f32Flush ftz r
  (f.1, f.2, f32IsNaN r && !(f32IsNaN a) && !(f32IsNaN b))

end Sys2Proof.Machine
end

