-- ==== Sys2Proof/Machine/Caller.lean ====
section
/-! DEFINITION. The Caller (09_nupor_model R253, R260 to R270): how it meets an instruction at its PC, accepts it or
waits, and what acceptance, squashing, illegality and retirement do. Each instruction's meaning supplies a `Work`. -/

namespace Sys2Proof.Machine

/-- What the Caller needs to know of an instruction, and what its unit does with it. -/
structure Work where
  opcode : Nat
  queue : QKind
  /-- Registers read and written (R261); td registers whose descriptors are checked at acceptance (R251). -/
  sR : List Nat := []
  sW : List Nat := []
  /-- Registers that only some forms of the operands read. -/
  sRx : Ctx → List Nat := fun _ => []
  tR : List Nat := []
  tW : List Nat := []
  tds : List Nat := []
  /-- A reserved code in an operand field, whatever the predicate says (R253, R274). -/
  reserved : Bool := false
  /-- Another cause of illegality of R269, found at acceptance. -/
  illegal : Ctx → CoreSt → Option Half := fun _ _ => none
  /-- The PC after the instruction (R264, R276, R277). -/
  target : Ctx → CoreSt → Nat := fun _ c => c.pc.toNat + 16
  /-- Ranges for the address interlock (R262). -/
  reads : Ctx → List (Nat × Nat) := fun _ => []
  writes : Ctx → List (Nat × Nat) := fun _ => []
  /-- Further ranges that a request in memory names (R262, R384). -/
  reqR : Ctx → State → List (Nat × Nat) := fun _ _ => []
  reqW : Ctx → State → List (Nat × Nat) := fun _ _ => []
  /-- ACM units that it names (R102) and Vitrine slots (R219). -/
  units : BitVec 32 := 0
  slots : Ctx → BitVec 16 × BitVec 16 := fun _ => (0, 0)
  /-- An array product stays in its queue, issued, until its last chunk has entered (R102): its chunks. -/
  product : Bool := false
  chunks : Ctx → Nat := fun _ => 0
  /-- A scalar instruction that retires after its acceptance: LDTD (R260). -/
  late : Bool := false
  /-- The issue of an array instruction (R103), and the start of a VLOAD (R219); no other instruction waits to start. -/
  issue : Ctx → State → Res := fun _ s => .done s
  /-- WAITF, WAITE and BARRIER hold acceptance (R263). -/
  holds : Bool := false
  run : Ctx → State → Res := fun _ s => .done s

/-- The instruction address: KBASE + PC (R248). -/
def CoreSt.iaddr (c : CoreSt) : Word := c.kbase + c.pc.setWidth 32

/-- An illegal instruction faults the job with BUFFER_SIZE and the cause (R269). -/
def State.illegal (s : State) (n : Nat) (iaddr : Word) (aux : Half) : State := s.coreFault n iaddr codeBufferSize aux

/-- The predicate of an instruction (R253). -/
def CoreSt.runs (c : CoreSt) (h : NHdr) : Bool := readPred c.p h.pred.toNat != h.pneg

/-- Moves the PC; leaving the kernel, or a target off the 16-byte grid, makes the instruction illegal (R265). -/
def CoreSt.leaves (c : CoreSt) (t : Nat) : Bool := decide (c.klen ≤ t) || decide (t % 16 ≠ 0)

def overlaps (a b : Nat × Nat) : Bool := decide (a.2 ≠ 0 ∧ b.2 ≠ 0 ∧ a.1 < b.1 + b.2 ∧ b.1 < a.1 + a.2)

/-- Whether a range lies wholly in one circular region. -/
def State.inCircular (s : State) (r : Nat × Nat) : Bool :=
  decide (memSel r.1 ≠ 0) &&
    (regionFind (fun x => x.valid && x.circ && x.covers (tableOf r.1).2 r.2) (s.regionTable (tableOf r.1).1)).isSome

/-- Ranges that enter the interlock: those that do not lie in a circular region (R262). -/
def State.plainRanges (s : State) (l : List (Nat × Nat)) : List (Nat × Nat) :=
  l.filter (fun r => decide (r.2 ≠ 0) && !(s.inCircular r))

/-- The reasons for which acceptance waits, with the counter that counts it (R260 to R263). -/
inductive Stall where
  | sync | reg | addr | queue
  deriving DecidableEq, Repr

def Stall.counter : Stall → Nat
  | .reg => 0x170
  | .addr => 0x178
  | .queue => 0x180
  | .sync => 0x188

/-- Queue sizes (R260). -/
def queueSize : QKind → Nat
  | .scalar => 1
  | .movement => 8
  | .array => 4
  | .precision => 4
  | .sparse => 4
  | .conservator => 4
  | .sync => 8

def QEntry.holds (q : QEntry) : Bool :=
  match q.instr with
  | .waitf .. => true
  | .waite .. => true
  | .barrier .. => true
  | _ => false

/-- Whether acceptance waits, and why (R260 to R263), where no unretired WAITF, WAITE or BARRIER holds it. -/
def State.stall (s : State) (c : CoreSt) (h : NHdr) (w : Work) (x : Ctx) : Option Stall :=
  if h.fence && !c.queue.isEmpty then some .sync
  else if c.queue.any (fun q => (w.sR ++ w.sRx x ++ w.sW).any (fun r => q.sW.contains r) ||
      (w.tR ++ w.tW ++ w.tds).any (fun r => q.tW.contains r)) then some .reg
  else
    let rs := s.plainRanges (w.reads x ++ w.reqR x s)
    let ws := s.plainRanges (w.writes x ++ w.reqW x s)
    let clash := c.queue.any (fun q =>
      ws.any (fun a => (q.reads ++ q.writes).any (overlaps a)) || rs.any (fun a => q.writes.any (overlaps a)))
    let held := (c.queue.filter (fun q => !(q.reads ++ q.writes).isEmpty)).length
    if clash || (decide (16 ≤ held) && !(rs ++ ws).isEmpty) then some .addr
    else if w.queue != .scalar &&
        decide (queueSize w.queue ≤ (c.queue.filter (fun q => q.queue == w.queue)).length) then some .queue
    else none

/-- The causes of illegality at acceptance, in the order of R269's codes. -/
def Work.cause (w : Work) (x : Ctx) (c : CoreSt) : Option Half :=
  if w.tds.any (fun r => !(Td.of (x.tdreg r)).valid) then some 0x0007 else w.illegal x c

/-- HALT retires once the queues are empty and every check is compared; the core is then idle (R268, R81). -/
def State.tryHalt (s : State) (n : Nat) : State :=
  let c := s.core n
  if c.halting && c.queue.isEmpty && c.checkQ.isEmpty && c.checkNow.isNone then
    s.setCore n { c with halting := false, running := false }
  else s

/-- Forgets the wait of an operation. -/
def State.endWait (s : State) (n : Nat) (iaddr : Word) (opcode : Nat) : State :=
  let c := s.core n
  s.setCore n { c with waits := c.waits.filter (fun w => !(decide (w.iaddr = iaddr ∧ w.opcode = opcode))) }

/-- Records a wait; a refused attempt of a wait on a tag counts in CORE.TAG_WAIT (R228, R244). -/
def State.addWait (s : State) (n : Nat) (w : Wait) : State :=
  let s := s.endWait n w.iaddr w.opcode
  let c := s.core n
  let s := s.setCore n { c with waits := c.waits ++ [w] }
  if w.onTag then s.bump (coreReg n 0x158) 1 else s

/-- The effects of a run on the core: retired, accepted and waiting, or faulted. -/
def settle (n : Nat) (iaddr : Word) (opcode : Nat) (r : Res) (retire wait : State → State) : State :=
  match r with
  | .done t => (retire (t.endWait n iaddr opcode)).draw
  | .wait t w => (wait t).addWait n w
  | .fail t code aux => t.coreFault n iaddr code aux

/-- The context of an instruction of core `n` at its present PC. -/
def CoreSt.ctx (c : CoreSt) (n : Nat) (opcode : Nat) : Ctx := ⟨n, c.iaddr, opcode, c.s, c.td⟩

def State.setPc (s : State) (n : Nat) (t : Nat) : State :=
  let c := s.core n
  s.setCore n { c with pc := BitVec.ofNat 16 t }

/-- The entry that an accepted instruction takes in its queue. -/
def State.entry (s : State) (i : Instr) (w : Work) (x : Ctx) (issued : Bool) : QEntry :=
  { instr := i, queue := w.queue, iaddr := x.iaddr, s := x.s, td := x.td, sW := w.sW, tW := w.tW,
    reads := s.plainRanges (w.reads x ++ w.reqR x s), writes := s.plainRanges (w.writes x ++ w.reqW x s), units := w.units,
    wSlots := (w.slots x).1, aSlots := (w.slots x).2, issued := issued, chunks := w.chunks x }

def State.enqueue (s : State) (n : Nat) (q : QEntry) : State :=
  let c := s.core n
  s.setCore n { c with queue := c.queue ++ [q] }

/-- Whether the next instruction of a queue may start: all that were accepted before it into that queue have started, no earlier
run of the same instruction is under way, and an array product not before the last chunk of the product ahead of it (R103,
R260). -/
def CoreSt.starts (c : CoreSt) (q : QKind) (product : Bool) : Bool :=
  c.queue.all (fun e => (e.queue != q || (e.issued && (q == .array || e.iaddr != c.iaddr))) &&
    (!product || decide (e.chunks ≤ e.chunk + 1)))

/-- An accepted instruction is taken: a scalar one, and where `whole` asks for it any other, runs at once; the rest only enters
its queue. What cannot start or waits stays in its queue (R103, R260). -/
def State.take (s : State) (n : Nat) (i : Instr) (w : Work) (x : Ctx) (whole : Bool) (accept : State → State) : State :=
  let queued := fun (issued : Bool) (t : State) => accept (t.enqueue n (t.entry i w x issued))
  if w.queue == .scalar && !(w.late && !whole) then settle n x.iaddr x.opcode (w.run x s) accept (queued true)
  else if !((s.core n).starts w.queue w.product) || (!whole && w.queue != .array) then queued false s
  else
    match w.issue x s with
    | .wait t _ => queued false t
    | .fail t code aux => t.coreFault n x.iaddr code aux
    | .done t =>
      if w.product then (queued true t).draw
      else if whole then settle n x.iaddr x.opcode (w.run x t) accept (queued true)
      else queued true t

/-- The Caller of core `h.core` meets instruction `i` at its PC (R253, R260). An unretired WAITF, WAITE or BARRIER holds every later
instruction, a squashed one too (R263). A PC that leaves the kernel has moved when its instruction becomes illegal (R253, R265).
`whole` runs the instruction to its end at once, where nothing makes it wait; otherwise a queued instruction only enters its
queue. An array product stays in the array queue, issued when its tile and slots are free (R103). -/
def State.meet (s : State) (h : NHdr) (i : Instr) (w : Work) (whole : Bool) : State :=
  let n := h.core.val
  let c := s.core n
  let x := c.ctx n w.opcode
  if !c.running || c.halting || c.stopped then s
  else if c.queue.any QEntry.holds then s.bump (coreReg n Stall.sync.counter) 1
  else if w.reserved then s.illegal n x.iaddr 0x0002
  else if !(c.runs h) then
    let s := ((s.bump (coreReg n 0x168) 1).bump (coreReg n 0x198) 1).setPc n (c.pc.toNat + 16)
    if c.leaves (c.pc.toNat + 16) then s.illegal n x.iaddr 0x0008 else s
  else
    match s.stall c h w x with
    | some st => s.bump (coreReg n st.counter) 1
    | none =>
      match w.cause x c with
      | some aux => s.illegal n x.iaddr aux
      | none =>
        if w.opcode = 0x01 then
          let s := s.bump (coreReg n 0x168) 1
          let c := s.core n
          (s.setCore n { c with halting := true }).tryHalt n
        else if c.leaves (w.target x c) then (s.setPc n (w.target x c)).illegal n x.iaddr 0x0008
        else
          let e := s.eccMeet n h.ecc
          match e.2 with
          | some hit => e.1.eccFault n x.iaddr hit
          | none => e.1.take n i w x whole (fun t => (t.bump (coreReg n 0x168) 1).setPc n (w.target x c))

/-- The meaning of an instruction command: the Caller meets it and it runs whole. -/
def Work.meets (w : Work) (h : NHdr) (i : Instr) (s : State) : Host.Outcome State Fault Refusal :=
  .next (s.meet h i w true)

end Sys2Proof.Machine
end

