-- ==== Sys2Proof/Machine/Folnil.lean ====
section
/-! DEFINITION. The sparse forms as the Quadrille delivers them (06_folnil_sparsity R142 to R163): the lanes of F24 and
F24T strips, the superblocks of FB8 to FB32, the rows of FE, their checks and what is dropped. -/

namespace Sys2Proof.Machine

/-! The 90 patterns of R147. -/

def pairCols (q : Nat) : Nat × Nat :=
  match q with
  | 0 => (0, 1)
  | 1 => (0, 2)
  | 2 => (0, 3)
  | 3 => (1, 2)
  | 4 => (1, 3)
  | _ => (2, 3)

def pairHas (q c : Nat) : Bool := (pairCols q).1 == c || (pairCols q).2 == c

/-- Two choices in every column. -/
def patternOk (qs : List Nat) : Bool :=
  [0, 1, 2, 3].all (fun c => (qs.filter (fun q => pairHas q c)).length == 2)

/-- The patterns in ascending lexicographic order. -/
def f24tPatterns : List (List Nat) :=
  (List.range 1296).filterMap (fun n =>
    let qs := [n / 216, n / 36 % 6, n / 6 % 6, n % 6]
    if patternOk qs then some qs else none)

/-- The pair index of row `r` of pattern `n`; none above 89. -/
def patternRow (n r : Nat) : Option Nat := (f24tPatterns[n]?).bind (fun qs => qs[r]?)

/-! F24 and F24T. -/

def Td.kdim (t : Td) : Nat := t.kext + 1
def Td.mdim (t : Td) : Nat := t.rows + 1
/-- Strips of a row (R144). -/
def Td.strips (t : Td) : Nat := ceilDiv t.kdim 512

/-- A compact lane: its code after the drops of R162, its position code, and the drops counted for it. -/
structure Lane where
  code : Nat
  pos : Nat
  drops : Nat
  deriving DecidableEq, Repr

/-- The stored code of lane `l` of strip `j` of row `r` (R145); a grouped row stores none beyond its last group (R144). -/
def Td.f24Code (t : Td) (rd : Nat → Byte) (r j l : Nat) : Nat :=
  if t.grouped then
    let k := 4 * (128 * j + l / 2)
    if t.g * ceilDiv t.kdim t.g ≤ k then 0 else
    let g := t.group r k
    rdBits rd (t.base + g / 16 * t.d + 8) ((g % 16 * (t.g / 2) + k % t.g / 2 + l % 2) * t.width) t.width
  else rdBits rd (t.base + (r * t.strips + j) * (32 * t.width)) (l * t.width) t.width

/-- The metadata block and the position codes of a row-strip (R146). -/
def Td.f24Meta (t : Td) (idx : Nat) : Nat := t.aux + idx / 16 * 1088 + 64 + 64 * (idx % 16)
def Td.f24Pos (t : Td) (rd : Nat → Byte) (r j l : Nat) : Nat := rdBits rd (t.f24Meta (r * t.strips + j)) (2 * l) 2

/-- A lane of F24 (R144, R162). -/
def Td.f24Lane (t : Td) (rd : Nat → Byte) (r j l : Nat) : Lane :=
  let c := t.f24Code rd r j l
  let p := t.f24Pos rd r j l
  let n := if c = 0 then 0 else 1
  if t.kdim ≤ 4 * (128 * j + l / 2) + p then ⟨0, p, n⟩
  else if l % 2 = 1 ∧ p = t.f24Pos rd r j (l - 1) then ⟨0, p, n⟩
  else ⟨c, p, 0⟩

/-- The address of pattern byte `i` (R148). -/
def Td.patAddr (t : Td) (i : Nat) : Nat := t.aux + i / 1024 * 1088 + 64 + i % 1024

/-- A lane of F24T in the forward use (R149). -/
def Td.f24tLane (t : Td) (rd : Nat → Byte) (r j l : Nat) : Lane :=
  let m := 128 * j + l / 2
  let c := t.f24Code rd r j l
  let n := if c = 0 then 0 else 1
  if t.kdim / 4 ≤ m then ⟨0, l % 2, n⟩
  else
    match patternRow (rd (t.patAddr (r / 4 * (t.kdim / 4) + m))).toNat (r % 4) with
    | none => ⟨0, l % 2, n⟩
    | some q => ⟨c, if l % 2 = 0 then (pairCols q).1 else (pairCols q).2, 0⟩

/-- The code of lane `l` of group `m` of stored row `r`, in a tensor whose rows have `k` elements. -/
def Td.f24tStored (t : Td) (rd : Nat → Byte) (k r m l : Nat) : Nat :=
  rdBits rd (t.base + (r * ceilDiv k 512 + m / 128) * (32 * t.width)) ((2 * (m % 128) + l) * t.width) t.width

/-- A lane of the transposed use (R149): row `r` of the operand is a stored column, and its reduction runs over the
stored rows. ROWS and KEXT describe the operand as it is used. -/
def Td.f24tLaneT (t : Td) (rd : Nat → Byte) (r j l : Nat) : Lane :=
  let m := 128 * j + l / 2
  if t.kdim ≤ 4 * m then ⟨0, l % 2, 0⟩
  else
    let n := (rd (t.patAddr (m * (t.mdim / 4) + r / 4))).toNat
    let kept := (List.range 4).filter (fun i => match patternRow n i with | some q => pairHas q (r % 4) | none => false)
    match kept[l % 2]? with
    | some i =>
      let first := match patternRow n i with | some q => (pairCols q).1 == r % 4 | none => false
      ⟨t.f24tStored rd t.mdim (4 * m + i) (r / 4) (if first then 0 else 1), i, 0⟩
    | none =>
      ⟨0, l % 2, if t.f24tStored rd t.mdim (4 * m + r % 4) (r / 4) (l % 2) = 0 then 0 else 1⟩

/-- A compact lane of a 2:4 form; strips beyond the operand hold nothing. -/
def Td.lane (t : Td) (rd : Nat → Byte) (r j l : Nat) : Lane :=
  if t.strips ≤ j ∨ t.rows < r then ⟨0, l % 2, 0⟩
  else if t.spf = 1 then t.f24Lane rd r j l
  else if t.trans then t.f24tLaneT rd r j l
  else t.f24tLane rd r j l

/-! Block forms. -/

/-- B, header lines, bitmap offset and blocks of a superblock (R150, R151). -/
def Td.fbSide (t : Td) : Nat := 2 ^ t.spf
def Td.fbHead (t : Td) : Nat := if t.spf = 3 then 2 else 1
def Td.fbMapAt (t : Td) : Nat := if t.spf = 3 then 64 else 8
def Td.fbBlocks (t : Td) : Nat := 32768 / (t.fbSide * t.fbSide)
def Td.fbCols (t : Td) : Nat := ceilDiv t.kdim 256

/-- The record of superblock `i` (R152). -/
def Td.fbRec (t : Td) (rd : Nat → Byte) (i : Nat) : Nat := t.base + 64 * rdNat rd (t.aux + 4 * i) 4
def Td.fbMap (t : Td) (rd : Nat → Byte) (i : Nat) : Nat :=
  rdNat rd (t.fbRec rd i + t.fbMapAt) (t.fbBlocks / 8)
def Td.fbCount (t : Td) (rd : Nat → Byte) (i : Nat) : Nat := bitsOf (rdNat rd (t.fbRec rd i) 8) 28 16
/-- Lines of a record (R152). -/
def Td.fbLines (t : Td) (count : Nat) : Nat := t.fbHead + ceilDiv (count * t.fbSide * t.fbSide * t.width) 512

/-- Whether engine `e` has a superblock in chunk `j`, and its index. -/
def Td.fbIndex (t : Td) (e j : Nat) : Option Nat :=
  if 128 * e ≤ t.rows ∧ j < t.fbCols then some (e * t.fbCols + j) else none

/-- Whether a block lies wholly at or beyond M or K (R162). -/
def Td.fbOutside (t : Td) (e j bit : Nat) : Bool :=
  let cols := 256 / t.fbSide
  decide (t.mdim ≤ 128 * e + bit / cols * t.fbSide) || decide (t.kdim ≤ 256 * j + bit % cols * t.fbSide)

/-- Blocks of a superblock dropped under R162. -/
def Td.fbDrops (t : Td) (rd : Nat → Byte) (e j i : Nat) : Nat :=
  ((List.range t.fbBlocks).filter (fun b => bitAt (t.fbMap rd i) b && t.fbOutside e j b)).length

/-- The code of row `r`, lane `l` of engine `e` in chunk `j`, and whether its block is present. -/
def Td.fbCode (t : Td) (rd : Nat → Byte) (e j r l : Nat) : Nat × Bool :=
  match t.fbIndex e j with
  | none => (0, false)
  | some i =>
    let b := t.fbSide
    let bit := r / b * (256 / b) + l / b
    let map := t.fbMap rd i
    if bitAt map bit && !(t.fbOutside e j bit) then
      if t.rows < 128 * e + r ∨ t.kext < 256 * j + l then (0, true)
      else
        let rank := popBits bit map
        (rdBits rd (t.fbRec rd i + 64 * t.fbHead) ((rank * b * b + r % b * b + l % b) * t.width) t.width, true)
    else (0, false)

/-- The COUNT and offset-table checks of R152 and R163 for superblock `i`. -/
def Td.fbCountOk (t : Td) (rd : Nat → Byte) (i : Nat) : Bool :=
  let n := ceilDiv t.mdim 128 * t.fbCols
  let off := fun x => rdNat rd (t.aux + 4 * x) 4
  decide (t.fbCount rd i = popBits t.fbBlocks (t.fbMap rd i)) && (decide (i ≠ 0) || decide (off 0 = 0)) &&
    (decide (n ≤ i + 1) || decide (off (i + 1) = off i + t.fbLines (t.fbCount rd i)))

/-! FE. -/

def Td.feRows (t : Td) (rd : Nat → Byte) : Nat := rdNat rd (t.base + 8) 4
def Td.feList (t : Td) (rd : Nat → Byte) : Nat := t.base + 64 + 64 * ceilDiv (8 * t.feRows rd) 64
def Td.feRow (t : Td) (rd : Nat → Byte) (r : Nat) : Nat × Nat :=
  (rdNat rd (t.base + 64 + 8 * r) 4, rdNat rd (t.base + 68 + 8 * r) 4)
def Td.feEntry (t : Td) (rd : Nat → Byte) (n : Nat) : Nat × Nat :=
  let v := rdNat rd (t.feList rd + 4 * n) 4
  (v % 2 ^ 24, bitsOf v 24 8 % 2 ^ t.width)

/-- The kept entries of a row or segment and the number dropped (R162): a coordinate at or beyond K, or not above the
previous kept coordinate of its row. `prev` is one more than the coordinate kept before it. -/
def feKeep (k : Nat) : Nat → List (Nat × Nat) → List (Nat × Nat) × Nat
  | _, [] => ([], 0)
  | prev, e :: t =>
    if k ≤ e.1 ∨ e.1 < prev then let r := feKeep k prev t; (r.1, r.2 + 1)
    else let r := feKeep k (e.1 + 1) t; (e :: r.1, r.2)

/-- The entries of row `r`, as they lie in the list. -/
def Td.feEntries (t : Td) (rd : Nat → Byte) (r : Nat) : List (Nat × Nat) :=
  (List.range (t.feRow rd r).2).map (fun i => t.feEntry rd ((t.feRow rd r).1 + i))

/-- One more than the last coordinate of a list of kept entries; 0 for none. -/
def fePrev (l : List (Nat × Nat)) : Nat := match l.getLast? with | some e => e.1 + 1 | none => 0

/-- The first row of a row table that breaks R154, in order: its FIRST is not the sum of the COUNTs before it. -/
def feBroken (rd : Nat → Byte) (p rows : Nat) : Option Nat :=
  (foldOver (fun (a : Option Nat × Nat) r =>
    (match a.1 with
     | some x => some x
     | none => if rdNat rd (p + 64 + 8 * r) 4 = a.2 then none else some r,
     a.2 + rdNat rd (p + 68 + 8 * r) 4)) (none, 0) (List.range rows)).1

/-- The sum of the COUNTs of a row table. -/
def feTotal (rd : Nat → Byte) (p rows : Nat) : Nat :=
  foldOver (fun n r => n + rdNat rd (p + 68 + 8 * r) 4) 0 (List.range rows)

/-- R154 on the FE stream at `p`: FIRST and COUNT agree row by row, and the COUNTs sum to NNZ. -/
def rowTableOk (rd : Nat → Byte) (p : Nat) : Bool :=
  let m := rdNat rd (p + 8) 4
  (feBroken rd p m).isNone && decide (feTotal rd p m = rdNat rd (p + 16) 8)

/-! Staging (R158, R296). -/

/-- Header check of R158. -/
def Td.metaHeadOk (t : Td) (kind gsize i h : Nat) : Bool :=
  decide (h % 2 ^ 28 = headerWord (t.seq0 + i) kind t.fmt gsize t.tensor)

/-- The metadata block of F24 and F24T that chunk `j` needs. -/
def Td.metaBlocks (t : Td) (j : Nat) : List Nat :=
  if t.strips ≤ j then []
  else if t.spf = 1 then dedupNat ((List.range t.mdim).map (fun r => (r * t.strips + j) / 16))
  else if t.trans then
    dedupNat ((List.range (min 128 (ceilDiv t.kdim 4 - 128 * j))).flatMap (fun m =>
      (List.range (ceilDiv t.mdim 4)).map (fun c => ((128 * j + m) * (t.mdim / 4) + c) / 1024)))
  else
    dedupNat ((List.range (ceilDiv t.mdim 4)).flatMap (fun r =>
      (List.range (min 128 (ceilDiv t.kdim 4 - 128 * j))).map (fun m => (r * (t.kdim / 4) + 128 * j + m) / 1024)))

/-- The engines' superblocks of chunk `j`. -/
def Td.chunkRecs (t : Td) (j : Nat) : List (Nat × Nat) :=
  (List.range 16).filterMap (fun e => (t.fbIndex e j).map (fun i => (e, i)))

/-- The metadata bytes of chunk `j`; `peek` reads the offset table. -/
def Td.metaRanges (t : Td) (peek : Nat → Byte) (j : Nat) : List (Nat × Nat) :=
  if t.spf = 1 ∨ t.spf = 2 then (t.metaBlocks j).map (fun b => (t.aux + 1088 * b, 1088))
  else
    (t.chunkRecs j).flatMap (fun x =>
      [(t.aux + 4 * x.2, if x.2 + 1 < ceilDiv t.mdim 128 * t.fbCols then 8 else 4),
       (t.fbRec peek x.2, 64 * t.fbHead)])

/-- The data bytes of chunk `j` of a sparse operand, scales included. -/
def Td.dataRanges (t : Td) (peek : Nat → Byte) (j : Nat) : List (Nat × Nat) :=
  if t.spf = 1 ∨ t.spf = 2 then
    if t.strips ≤ j then []
    else if t.grouped then t.winRanges 0 t.mdim (512 * j) (min (512 * j + 511) t.kext)
    else if t.spf = 2 ∧ t.trans then
      (List.range (min 512 (t.kdim - 512 * j))).flatMap (fun r =>
        [(t.base + (512 * j + r) * ceilDiv t.mdim 512 * (32 * t.width), ceilDiv t.mdim 512 * (32 * t.width))])
    else (List.range t.mdim).map (fun r => (t.base + (r * t.strips + j) * (32 * t.width), 32 * t.width))
  else
    (t.chunkRecs j).map (fun x => (t.fbRec peek x.2 + 64 * t.fbHead, 64 * (t.fbLines (t.fbCount peek x.2) - t.fbHead)))
      ++ (if t.grouped then
            (t.winBlocks 0 t.mdim (256 * j) (min (256 * j + 255) t.kext)).map (fun b => (t.scale + 32 * b, 32))
          else [])

/-- The checks of chunk `j` (R158, R163). -/
def Td.metaCheck (t : Td) (rd : Nat → Byte) (j : Nat) : Option (Half × Half) :=
  if t.spf = 1 ∨ t.spf = 2 then
    seqFault ((t.metaBlocks j).find? (fun b =>
      !(t.metaHeadOk 3 (if t.grouped ∧ t.spf = 1 then t.gsize else 0) b (rdNat rd (t.aux + 1088 * b) 8))))
  else
    match (t.chunkRecs j).find? (fun x => !(t.metaHeadOk 4 (t.spf - 3) x.2 (rdNat rd (t.fbRec rd x.2) 8))) with
    | some x => some (codeScaleSeq, BitVec.ofNat 16 x.2)
    | none =>
      match (t.chunkRecs j).find? (fun x => !(t.fbCountOk rd x.2)) with
      | some x => some (codeCountMismatch, BitVec.ofNat 16 x.2)
      | none => none

/-- The whole table of an FE operand (R154, R163): ROWS is M, FIRST and COUNT agree, and the COUNTs sum to NNZ. The auxiliary
field names the first row that breaks it, or 0 where the header does (notes/assumptions/158.md). -/
def Td.feTableCheck (t : Td) (rd : Nat → Byte) : Option (Half × Half) :=
  if t.feRows rd ≠ t.mdim then some (codeCountMismatch, 0)
  else
    match feBroken rd t.base t.mdim with
    | some r => some (codeCountMismatch, BitVec.ofNat 16 r)
    | none => if feTotal rd t.base t.mdim = rdNat rd (t.base + 16) 8 then none else some (codeCountMismatch, 0)

/-- The bytes of an FE stream before its entry list. -/
def Td.feHead (t : Td) : Nat := 64 + 64 * ceilDiv (8 * t.mdim) 64

/-- The checks of an FE stream and of the entries that are staged: header, row table, and each entry within its row (R158,
R163). -/
def Td.feCheck (t : Td) (rd : Nat → Byte) (es : List (Nat × Nat × Nat)) : Option (Half × Half) :=
  if !(t.metaHeadOk 5 0 0 (rdNat rd t.base 8)) then some (codeScaleSeq, 0)
  else
    match t.feTableCheck rd with
    | some f => some f
    | none =>
      (es.find? (fun e =>
        let row := t.feRow rd e.1
        !(decide (e.1 < t.mdim) && decide (row.1 ≤ e.2.1 ∧ e.2.1 + e.2.2 ≤ row.1 + row.2)))).map
        (fun e => (codeCountMismatch, BitVec.ofNat 16 e.1))

/-- The FE row or segment of one entry (row, first, count): what is kept and what is dropped (R156, R162). -/
def Td.feStage (t : Td) (rd : Nat → Byte) (e : Nat × Nat × Nat) : FeRow × Nat :=
  let first := (t.feRow rd e.1).1
  let before := (feKeep t.kdim 0 ((List.range (e.2.1 - first)).map (fun i => t.feEntry rd (first + i)))).1
  let r := feKeep t.kdim (fePrev before) ((List.range e.2.2).map (fun i => t.feEntry rd (e.2.1 + i)))
  (⟨e.1, r.1⟩, r.2)

/-- The bytes that staging some entries reads: the header, the row table, and each entry's row as far as the entry goes. -/
def Td.feRanges (t : Td) (peek : Nat → Byte) (es : List (Nat × Nat × Nat)) : List (Nat × Nat) :=
  (t.base, t.feHead) :: es.map (fun e =>
    let first := min (t.feRow peek e.1).1 e.2.1
    ((t.feList peek + 4 * first) / 8 * 8, 4 * (e.2.1 + e.2.2 - first) + 4))

/-- The rows of an FE operand as entries of their own. -/
def Td.feAll (t : Td) (rd : Nat → Byte) : List (Nat × Nat × Nat) :=
  (List.range (min 2048 t.mdim)).map (fun r => (r, (t.feRow rd r).1, (t.feRow rd r).2))

/-- The items of chunk `j` dropped under R162. -/
def Td.metaDrops (t : Td) (rd : Nat → Byte) (j : Nat) : Nat :=
  if t.spf = 1 ∨ t.spf = 2 then
    foldOver (fun n r => foldOver (fun n l => n + (t.lane rd r j l).drops) n (List.range 256)) 0 (List.range t.mdim)
  else foldOver (fun n (x : Nat × Nat) => n + t.fbDrops rd x.1 j x.2) 0 (t.chunkRecs j)

/-- R45 for the grouped streams that a load of chunk `j` reads. -/
def Td.chunkSeq (t : Td) (rd : Nat → Byte) (k0 span : Nat) (rows : Nat) : Option (Half × Half) :=
  if t.grouped ∧ k0 ≤ t.kext then
    let bs := t.winBlocks 0 rows k0 (min (k0 + span - 1) t.kext)
    if t.spf = 0 ∨ t.spf = 1 then seqFault (t.badIn rd bs)
    else seqFault (bs.find? (fun b => !(t.headerOk 2 b (rdNat rd (t.scale + 32 * b + 16) 8))))
  else none

/-- Whether core chunk `j` of a block-sparse operand is wholly absent (R160). -/
def Td.wholly (t : Td) (rd : Nat → Byte) (j : Nat) : Bool :=
  decide (3 ≤ t.spf ∧ t.spf ≤ 5) && (t.chunkRecs j).all (fun x => decide (t.fbCount rd x.2 = 0))

/-- Counts drops: CORE.QUAD_DROPS and SPARSE_DROP. -/
def State.quadDrops (s : State) (n k : Nat) : State :=
  if k = 0 then s else (s.bump (coreReg n 0x120) k).coreFlags n flagSparseDrop

end Sys2Proof.Machine
end

