-- ==== Sys2Proof/Machine/Store.lean ====
section
/-! DEFINITION. The store path (05_tempo R119, R124, R126, R132 to R134, R284): the width and scale in force, the range
monitor, listed outlier channels, F24T packing, and the flags and traps of a conversion. -/

namespace Sys2Proof.Machine

/-- The Tempo record under which a job governs a tensor (R113). -/
def jobTempo (j : Job) (t : Nat) : Option TempoRec :=
  (j.layers.flatMap (fun l => l.tempos)).find? (fun r => r.tensor == t)

/-- The record under which the job of core `n` governs a tensor. -/
def State.governs (s : State) (n t : Nat) : Option TempoRec :=
  (s.job (s.core n).job.toNat).bind (fun j => jobTempo j t)

/-- What a store into a destination uses: the descriptor with the format in force, the tensor scale, the Tempo record,
the outlier list in force, and whether the stores are suppressed (R124, R130, R137). -/
structure InForce where
  td : Td
  sm : Nat
  se : Int
  rc : Option TempoRec
  list : List Nat
  mute : Bool
  deriving DecidableEq, Repr

def State.inForce (s : State) (n : Nat) (dst : Td) (sm : Nat) (se : Int) : InForce :=
  match (if dst.gov then s.governs n dst.tensor else none) with
  | none => ⟨dst, sm, se, none, [], false⟩
  | some r =>
    let w := s.fld (tempoSlot dst.tensor 0x20) 11 3 + 1
    let sc := scaleOf (BitVec.ofNat 32 (s.fld (tempoSlot dst.tensor 0x28) 0 32))
    let x := s.tempoX dst.tensor
    ⟨{ dst with fmt := if r.signed then 0x10 + w else w }, sc.1, sc.2, some r, if r.outliers = 0 then [] else x.nextList,
      x.measuring && (s.core n).measuring⟩

/-- The side tensor of a governed tensor: address, and bytes from one position to the next (R133). -/
def State.sideAt (s : State) (n t : Nat) : Nat × Nat :=
  match s.job (s.core n).job.toNat with
  | some j => (Assoc.get 0 j.outAddr (4 * t + 1), Assoc.get 0 j.outAddr (4 * t + 3))
  | none => (0, 0)

/-- Where in a list a channel stands. -/
def listAt (l : List Nat) (k : Nat) : Option Nat := l.findIdx? (fun x => x == k)

/-- One F24T tile from its pattern bytes: codes packed under R148, listed channels stored as 0 (R134), blocks with a
pattern above 89 dropped (R284). The result counts the drops: one per element of such a block whose code would not be 0, at
most the block's 8 (R162; notes/assumptions/157.md). -/
def Td.packF24T (t : Td) (rd : Nat → Byte) (satNan : Bool) (sm : Nat) (se : Int) (v : Nat → Nat → Val)
    (out : Nat → Nat → Bool) : TileOut × Nat :=
  let code := fun r k => if out r k then ⟨0, 0, false⟩ else t.fm.encode satNan sm se (v r k)
  let blank := cellsAt t.base ((List.range (t.mdim * t.strips * 32 * t.width)).map (fun _ => (0 : Byte)))
  foldOver (fun (acc : TileOut × Nat) i =>
    let br := i / (t.kdim / 4)
    let m := i % (t.kdim / 4)
    let pat := (rd (t.patAddr i)).toNat
    if 89 < pat then
      (acc.1, acc.2 + min 8 ((List.range 16).filter (fun x =>
        decide (4 * br + x / 4 ≤ t.rows) && decide ((code (4 * br + x / 4) (4 * m + x % 4)).code ≠ 0))).length)
    else
      (foldOver (fun (o : TileOut) x =>
        let r := 4 * br + x / 2
        let q := (patternRow pat (x / 2)).getD 0
        let c := if x % 2 = 0 then (pairCols q).1 else (pairCols q).2
        if t.rows < r then o
        else
          let e := code r (4 * m + c)
          { o.join e.flags (if e.nan then some (r * t.kdim + 4 * m + c) else none) with
            img := putBits (fun _ => 0) o.img (t.base + (r * t.strips + m / 128) * (32 * t.width))
              ((2 * (m % 128) + x % 2) * t.width) t.width e.code }) acc.1 (List.range 8), acc.2))
    ({ img := foldOver (fun g c => Assoc.insert g c.1 c.2) [] blank }, 0)
    (List.range (ceilDiv t.mdim 4 * (t.kdim / 4)))

/-- The bytes that a store writes, without the side tensor. -/
def Td.storeRanges (t : Td) : List (Nat × Nat) :=
  if t.spf = 2 then [(t.base, t.mdim * t.strips * 32 * t.width)] else t.ranges

/-- The pattern bytes that an F24T store reads. -/
def Td.patRanges (t : Td) : List (Nat × Nat) :=
  if t.spf = 2 then
    (List.range (ceilDiv (ceilDiv t.mdim 4 * (t.kdim / 4)) 1024)).map (fun b =>
      (t.aux + 1088 * b + 64, min 1024 (ceilDiv t.mdim 4 * (t.kdim / 4) - 1024 * b)))
  else []

/-- The greater of two non-negative binary32 patterns. -/
def maxWord (a b : Word) : Word := if a.toNat < b.toNat then b else a

/-- |x| of a finite value as binary32, capped at the largest finite value; 0 for another value. -/
def magWord (v : Val) : Word :=
  match v with
  | .fin _ m e => let b := valF32 (.fin false m e); if f32Finite b then b else 0x7F7FFFFF#32
  | _ => 0

/-- Whether a finite |x| > s * qmax(w), exact (R119). -/
def overRange (f : Fmt) (sm : Nat) (se : Int) (v : Val) : Bool :=
  match v with
  | .fin _ m e => !(magLe m e (sm * qmax f.width f.signed) se)
  | _ => false

/-- The range monitor's step totals after a tile (R119, R136): `chan` gives an element's channel, `inside` whether its
position lies in the tensor, `out` whether its channel is listed. OVER counts the values that count towards M: finite, inside
the tensor, in no listed channel; so it is 0 where M̂ is 0, and listed channels never widen the tensor (R123, R134;
notes/assumptions/34.md). -/
def TempoX.measure (x : TempoX) (t : Td) (track : Bool) (noOver : Bool) (sm : Nat) (se : Int) (v : Nat → Nat → Val)
    (chan : Nat → Nat) (inside out : Nat → Nat → Bool) : TempoX :=
  foldOver (fun x r =>
    foldOver (fun (x : TempoX) k =>
      let e := v r k
      let mag := magWord e
      let x := { x with any := true }
      if !(inside r k) then x
      else if out r k then { x with outMax := maxWord x.outMax mag }
      else
        let x := if !noOver && overRange t.fm sm se e then { x with overs := min (x.overs + 1) (2 ^ 32 - 1) } else x
        let x := { x with m := maxWord x.m mag }
        if track then { x with chanMax := Assoc.put 0 x.chanMax (chan k) (maxWord (Assoc.get 0 x.chanMax (chan k)) mag) }
        else x) x (List.range (t.kext + 1))) x (List.range (t.rows + 1))

/-- The flags of a conversion, its trap record (R106), and NAN_TRAP when the core's enable is 1. -/
def State.converted (s : State) (c : Ctx) (tensor : Nat) (flags : BitVec 11) (nan : Option Nat) : Res :=
  let s := s.coreFlags c.n flags
  match nan with
  | none => .done s
  | some i =>
    let s := s.nanRecord c.n c.iaddr c.opcode { tensor := tensor, source := 0, index := i }
    if (s.core c.n).nanTrap then .fail s codeNanTrap 0 else .done s

def lowerOf (a b : Option Nat) : Option Nat :=
  match a, b with
  | some x, some y => some (min x y)
  | some x, none => some x
  | none, y => y

/-- What a store does beside its tile: reads, tag actions, the check of what it read, its values, and the flags and
first NaN that forming the values gave, for the elements that are not skipped. -/
structure StoreReq where
  reads : List (Nat × Nat)
  setFull : Bool
  setEmpty : Bool := false
  check : (Nat → Byte) → Option (Half × Half) := fun _ => none
  vals : (Nat → Byte) → Nat → Nat → Val
  pre : (Nat → Byte) → (Nat → Nat → Bool) → BitVec 11 × Option Nat := fun _ _ => (0, none)

/-- The extents of a tensor of the core's job: rows and elements. -/
def State.extents (s : State) (n t : Nat) : Nat × Nat :=
  match (s.job (s.core n).job.toNat).bind (fun j => j.tensors[t]?) with
  | some x => (x.rows + 1, x.kext + 1)
  | none => (0, 0)

/-- Whether a group of a tile that lies at least partly in the tensor has maximum 0 (R126). -/
def Td.zeroGroup (t : Td) (v : Nat → Nat → Val) (inside out : Nat → Nat → Bool) : Bool :=
  t.grouped && (List.range (t.rows + 1)).any (fun r =>
    (List.range (t.kext / t.g + 1)).any (fun g =>
      inside r (g * t.g) && (List.range (min t.g (t.kext + 1 - g * t.g))).all (fun i =>
        out r (g * t.g + i) || (match v r (g * t.g + i) with | .fin _ m _ => m == 0 | _ => false))))

/-- Whether Docent predicts a neuron inactive at a position of core `n`'s tile (R183). -/
def State.inactive (s : State) (n tensor pos ch : Nat) : Bool :=
  let c := s.core n
  decide (c.docY = some tensor) &&
    (match Assoc.find c.active pos with | some l => !(l.contains ch) | none => false)

/-- The Docent records of a job with their layers, and the slot and record of layer `li`. -/
def Job.docRecs (j : Job) : List (Nat × DocRec) :=
  ((List.range j.layers.length).zip j.layers).filterMap (fun u => u.2.docent.map (fun d => (u.1, d)))
def Job.docentOf (j : Job) (li : Nat) : Option (Nat × DocRec) :=
  ((j.docSlots.zip j.docRecs).find? (fun x => x.2.1 == li)).map (fun x => (x.1, x.2.2))

/-- A sample of a dense run reads its y as it is stored: position `pos` + r, channel `ch` + k of the layer's output (R185). -/
def State.seeSamples (s : State) (n tensor pos ch : Nat) (t : Td) (v : Nat → Nat → Val) : State :=
  match s.job (s.core n).job.toNat with
  | none => s
  | some j =>
    match j.docentOf j.layer, j.layers[j.layer]? with
    | some (slot, _), some l =>
      let x := s.docX slot
      if l.y ≠ tensor ∨ x.due.isEmpty = true then s
      else
        let here := fun (d : DueSample) => decide (pos ≤ d.pos ∧ d.pos ≤ pos + t.rows ∧ ch ≤ d.ch ∧ d.ch ≤ ch + t.kext)
        s.setDocX slot { x with due := x.due.map (fun d =>
          if here d then { d with y := some (valF32 (v (d.pos - pos) (d.ch - ch))) } else d) }
    | _, _ => s

/-- Stores a tile of values into `dst` (R124, R132, R134, R183, R185, R284). -/
def State.storePath (s : State) (c : Ctx) (dst : Td) (sm : Nat) (se : Int) (q : StoreReq) : Res :=
  let f := s.inForce c.n dst sm se
  let t := f.td
  let satNan := (s.core c.n).satNan
  let chan := fun k => (c.sreg 0).toNat + k
  let posn := fun r => (c.sreg 1).toNat + r
  let ext := s.extents c.n dst.tensor
  let off := fun r k => s.inactive c.n dst.tensor (posn r) (chan k)
  let vals := fun rd r k => if off r k then Val.fin false 0 0 else q.vals rd r k
  let inside := fun r k => decide (posn r < ext.1 ∧ chan k < ext.2)
  let out := fun (_ : Nat) k => (listAt f.list (chan k)).isSome
  let side := s.sideAt c.n dst.tensor
  let cols := (List.range (t.kext + 1)).filterMap (fun k => (listAt f.list (chan k)).map (fun j => (k, j)))
  let sideRanges := if cols.isEmpty || f.mute then [] else
    (List.range (t.rows + 1)).flatMap (fun r => cols.map (fun x => (side.1 + side.2 * posn r + x.2 / 4 * 8, 8)))
  let tile := fun rd =>
    if t.spf = 2 then t.packF24T rd satNan f.sm f.se (vals rd) out
    else (t.put rd satNan f.sm f.se (vals rd) out, 0)
  let sideOut := fun rd =>
    foldOver (fun o r =>
      foldOver (fun (o : TileOut) (x : Nat × Nat) =>
        let e := match vals rd r x.1 with
          | .fin neg m ex => let d := quoFrac m ex f.sm f.se; colXF16.encodeFrac satNan neg d.1 d.2
          | w => colXF16.encode satNan w
        { o.join e.flags (if e.nan then some (r * (t.kext + 1) + x.1) else none) with
          img := putBits rd o.img (side.1 + side.2 * posn r) (16 * x.2) 16 e.code }) o cols)
      ({} : TileOut) (List.range (t.rows + 1))
  s.transfer c
    { reads := q.reads ++ t.patRanges, writes := if f.mute then [] else t.storeRanges ++ sideRanges,
      setFull := q.setFull, setEmpty := q.setEmpty, check := q.check }
    (fun rd => if f.mute then [] else (tile rd).1.img ++ (sideOut rd).img)
    (fun rd s1 =>
      let s2 := match f.rc with
        | none => s1
        | some r => s1.setTempoX dst.tensor
            ((s1.tempoX dst.tensor).measure t r.track f.mute f.sm f.se (vals rd) chan inside out)
      let s2 := s2.seeSamples c.n dst.tensor (posn 0) (chan 0) t (vals rd)
      let p := q.pre rd off
      if f.mute then s2.converted c dst.tensor p.1 p.2
      else
        let o := tile rd
        let d := sideOut rd
        let zero : BitVec 11 := if f.rc.isSome && t.zeroGroup (vals rd) inside out then flagZeroRange else 0
        (s2.quadDrops c.n o.2).converted c dst.tensor (p.1 ||| o.1.flags ||| d.flags ||| zero)
          (lowerOf p.2 (lowerOf o.1.nan d.nan)))

end Sys2Proof.Machine
end

