-- ==== Sys2Proof/Machine/Tiling.lean ====
section
/-! DEFINITION. Tiling (11_curator_tiling R322 to R332): the actual extents, the tile sizes, the items of a layer and
the positions that run them, folding of pointer lists, splits of K, the loop orders and the live tiles, and the placement
of a tensor's streams (R317). -/

namespace Sys2Proof.Machine

/-! Tensors (R316, R317). -/

def Tensor.fm (t : Tensor) : Fmt := (Fmt.ofCode t.fmt).getD (.xu 8)
def Tensor.g (t : Tensor) : Nat := groupLen t.gsize
def Tensor.groups (t : Tensor) : Nat := (t.rows + 1) * ceilDiv (t.kext + 1) t.g
def Tensor.blocks (t : Tensor) : Nat := ceilDiv t.groups 16
/-- Rounded up to whole lines. -/
def lineUp (n : Nat) : Nat := 64 * ceilDiv n 64
/-- Superblocks of a block-sparse tensor (R150). -/
def Tensor.supers (t : Tensor) : Nat := ceilDiv (t.rows + 1) 128 * ceilDiv (t.kext + 1) 256
/-- Where the records of a block-sparse tensor begin: after its offset table when that is put first (R152). -/
def Tensor.recsAt (t : Tensor) : Nat := if t.aoff = 0 then lineUp (4 * t.supers) else 0

/-- The descriptor of a whole tensor that lies at `base` (R249). -/
def Tensor.td (t : Tensor) (id base : Nat) : Td :=
  { base := if 3 ≤ t.spf ∧ t.spf ≤ 5 then base + t.recsAt else base, fmt := t.fmt, spf := t.spf, gsize := t.gsize,
    trans := false, gov := false, map := false, scale := if t.grouped then base + t.soff else 0, tensor := id, seq0 := 0,
    aux := if 1 ≤ t.spf ∧ t.spf ≤ 5 then base + t.aoff else 0, region := 0, goff := 0, rows := t.rows, kext := t.kext,
    rstride := if t.grouped then ceilDiv (t.kext + 1) t.g else ceilDiv ((t.kext + 1) * t.fm.width) 64 }

/-- The streams of a tensor: where each starts and how many bytes it takes (R317). What records and entry lists take depends on the
content, which `rd` reads where it is known; otherwise their least. -/
def Tensor.streams (t : Tensor) (rd : Option (Nat → Byte)) : List (Nat × Nat) :=
  let w := t.fm.width
  let strips := ceilDiv (t.kext + 1) 512
  let n := t.rows + 1
  let scale := if t.grouped then [(t.soff, lineUp (32 * t.blocks))] else []
  match t.spf with
  | 0 => (0, lineUp (if t.grouped then t.blocks * blockBytes t.g w else n * 8 * ceilDiv ((t.kext + 1) * w) 64)) :: scale
  | 1 => (0, lineUp (if t.grouped then t.blocks * blockBytesF24 t.g w else n * strips * 32 * w)) ::
      (t.aoff, lineUp (1088 * ceilDiv (n * strips) 16)) :: scale
  | 2 => [(0, lineUp (n * strips * 32 * w)), (t.aoff, lineUp (1088 * ceilDiv (n / 4 * ((t.kext + 1) / 4)) 1024))]
  | 6 =>
    let nnz := match rd with | some r => rdNat r 16 8 | none => 0
    [(0, 64 + lineUp (8 * n) + lineUp (4 * nnz))]
  | f =>
    let d := t.td 0 0
    let lines := match rd with
      | some r => foldOver (fun k i => k + d.fbLines (d.fbCount r i)) 0 (List.range t.supers)
      | none => t.supers * (if f = 3 then 2 else 1)
    (t.aoff, lineUp (4 * t.supers)) :: (t.recsAt, 64 * lines) :: scale

/-- The bytes of a Salon tile of `rows` rows by `ks` elements in the dense layouts (R325). -/
def denseTile (t : Tensor) (w rows ks : Nat) : Nat :=
  if t.grouped then rows * (ks / t.g) * (blockBytes t.g w / 16 + 2) else rows * 8 * ceilDiv (ks * w) 64

/-- The bytes of a Salon weight tile (R325). -/
def weightTile (t : Tensor) (sparse : Bool) (w rows ks : Nat) : Nat :=
  if !sparse then denseTile t w rows ks
  else
    match t.spf with
    | 0 => denseTile t w rows ks
    | 1 => rows * (ks / 512) * 68 +
        (if t.grouped then rows * (ks / t.g) * (blockBytesF24 t.g w / 16 + 2) else rows * (ks / 512) * (32 * w))
    | 2 => rows * (ks / 512) * 68 + rows * (ks / 512) * (32 * w)
    | 6 => 4 * 262144
    | f => ceilDiv rows 128 * (ks / 256) * (64 * (if f = 3 then 2 else 1) + 4096 * w) +
        (if t.grouped then 2 * (rows * (ks / t.g)) else 0)

/-- Tile sizes (R325). -/
structure Geo where
  rs : Nat
  c : Nat
  kc : Nat
  nk : Nat
  ks : Nat
  ns : Nat
  deriving DecidableEq, Repr

/-- What the sizes depend on: the operands, their widths in force, the path, PASSES, and the outliers of A. -/
structure Shape where
  w : Tensor
  a : Tensor
  ww : Nat
  wa : Nat
  sparse : Bool
  passes : Nat
  outl : Nat
  deriving DecidableEq, Repr

/-- R325 for actual extents `m` and `k`. -/
def Shape.geo (q : Shape) (m k : Nat) : Geo :=
  let rs := min 2048 m
  let c := if q.sparse && decide (q.w.spf = 1 ∨ q.w.spf = 2) then 512 else 256
  let kc := ceilDiv k c
  let per := weightTile q.w q.sparse q.ww rs c
  let kmax := if per = 0 ∨ (q.sparse = true ∧ q.w.spf = 6) then max 1 kc else max 1 (1048576 / per)
  let nk := ceilDiv kc kmax
  let ks := c * ceilDiv kc (max 1 nk)
  let act := fun n => q.passes * denseTile q.a q.wa n ks + n * q.outl * 2
  let ns := ([64, 48, 32, 16].find? (fun n => (decide (q.outl = 0) || decide (n ≤ 32)) && decide (act n ≤ 524288))).getD 16
  { rs := rs, c := c, kc := kc, nk := nk, ks := ks, ns := ns }

/-! Extents and problems (R322, R331, R332). -/

/-- The extent that a selector leaves of a declared extent. -/
def selected (lens : List Nat) (sel ext : Nat) : Nat := if sel < 8 then min (lens[sel]?.getD ext) ext else ext

/-- Whether tuple `y` continues a run after `x` along N, or along M. -/
def foldsN (x y : Problem) : Bool :=
  decide (y.wRow = x.wRow ∧ y.yCol = x.yCol ∧ y.aRow = x.aRow + x.pn + 1 ∧ y.yRow = x.yRow + x.pn + 1)
def foldsM (x y : Problem) : Bool :=
  decide (y.aRow = x.aRow ∧ y.yRow = x.yRow ∧ y.wRow = x.wRow + x.pm + 1 ∧ y.yCol = x.yCol + x.pm + 1)
def foldable (x y : Problem) : Bool :=
  decide (y.pm = x.pm ∧ y.pn = x.pn ∧ y.pk = x.pk ∧ (x.pm + 1) * (x.pn + 1) < 131072)

/-- The length of the run after `x` under a relation. -/
def runLen (p : Problem → Problem → Bool) (x : Problem) : List Problem → Nat
  | [] => 0
  | y :: t => if foldable x y && p x y then runLen p y t + 1 else 0

/-- Folds the tuples of a list in order, at most `fuel` of them (R332), along M or N where the dimension may be folded. -/
def foldProblems (okM okN : Problem → Bool) : Nat → List Problem → List Problem
  | 0, l => l
  | _ + 1, [] => []
  | fuel + 1, x :: t =>
    let n := if okN x then runLen foldsN x t else 0
    let m := if okM x then runLen foldsM x t else 0
    if m ≤ n then { x with fn := n + 1, pn := (n + 1) * (x.pn + 1) - 1 } :: foldProblems okM okN fuel (t.drop n)
    else { x with fm := m + 1, pm := (m + 1) * (x.pm + 1) - 1 } :: foldProblems okM okN fuel (t.drop m)

/-- The problems of a layer: its pointer list folded, or the whole layer. A dimension that its run-time length cuts is not folded
(DESIGN CHOICE, notes/assumptions/169.md): each problem keeps its own bound (R331). -/
def Layer.grid (l : Layer) (lens : List Nat) : List Problem :=
  if l.plcount = 0 then [{ aRow := 0, wRow := 0, yRow := 0, yCol := 0, pm := l.m, pn := l.n, pk := l.k }]
  else
    foldProblems (fun p => decide (selected lens l.lenM (p.pm + 1) = p.pm + 1))
      (fun p => decide (selected lens l.lenN (p.pn + 1) = p.pn + 1)) l.problems.length l.problems

/-- The tuples that folding removes. -/
def Layer.folded (l : Layer) (lens : List Nat) : Nat :=
  if l.plcount = 0 then 0 else l.problems.length - (l.grid lens).length

/-- The actual extents of a problem: the selector bounds each tuple of a folded one (R322, R331). -/
def Layer.actual (l : Layer) (lens : List Nat) (p : Problem) : Nat × Nat × Nat :=
  (p.fm * selected lens l.lenM ((p.pm + 1) / p.fm), p.fn * selected lens l.lenN ((p.pn + 1) / p.fn),
   selected lens l.lenK (p.pk + 1))

/-- The M tiles for which a problem has room in its layer's split buffer: its blocks of 2,048 channels, and for an FE operand the most
that its bins can give: segments at most double the rows, a bin's last tile can be short, and of two consecutive tiles cut at 262,144
entries more than that many lie in both (DESIGN CHOICE, notes/assumptions/172.md). -/
def Problem.rawBlocks (p : Problem) (w : Tensor) : Nat :=
  let mb := ceilDiv (p.pm + 1) 2048
  if w.spf = 6 then 2 * mb + 26 + ceilDiv w.bytes 524288 else mb

/-- The bytes that a problem takes in its layer's split buffer: every position by its M tiles of 2,048 Floor rows (R330). -/
def Problem.rawBytes (p : Problem) (w : Tensor) : Nat := p.rawBlocks w * 8192 * (64 * ceilDiv (p.pn + 1) 64)

/-- The bytes of a layer's split buffer, given its weight operand. -/
def Layer.splitBytes (l : Layer) (w : Tensor) (lens : List Nat) : Nat :=
  foldOver (fun n (p : Problem) => n + p.rawBytes w) 0 (l.grid lens)

/-! Items (R322, R326, R330). -/

/-- Which weight rows a core tile takes: blocks of 2,048 output channels (R326); the rows and segments of an FE operand, bin by bin
(R156); or the neurons that are active in each group of 16 positions of a problem (R181). -/
inductive RowSource where
  | blocks
  | bins (l : List (List (Nat × Nat × Nat)))
  | unions (f : Problem → Nat → List Nat)

/-- An item or a part of one: the problem and its number, the number of its M tile, the first channel, position and reduction element within it, and
the in-bound extents: Floor rows, positions, elements, and output channels; the Floor rows of a gathered tile as (row of W, first
entry, entries); `skip` when nothing of it is in bounds, `split` when its raw sums meet in the split buffer. -/
structure Item where
  p : Problem
  pi : Nat
  item : Nat
  mi : Nat
  m0 : Nat
  n0 : Nat
  k0 : Nat
  ml : Nat
  nl : Nat
  kl : Nat
  cl : Nat
  part : Nat
  parts : Nat
  ns : Nat
  kc : Nat
  c : Nat
  rows : Option (List (Nat × Nat × Nat)) := none
  skip : Bool
  split : Bool := false
  deriving DecidableEq, Repr

/-- The first output channel of an item. -/
def Item.chan (i : Item) : Nat := i.p.yCol + i.m0

/-- The rows and segments of one bin as core tiles: consecutive, at most 2,048 Floor rows and 262,144 entries (R156, R325). -/
def binTiles (es : List (Nat × Nat × Nat)) : List (List (Nat × Nat × Nat)) :=
  foldOver (fun (a : List (List (Nat × Nat × Nat))) e =>
    match a.getLast? with
    | some t =>
      if t.length < 2048 ∧ foldOver (fun n (x : Nat × Nat × Nat) => n + x.2.2) e.2.2 t ≤ 262144 then a.dropLast ++ [t ++ [e]]
      else a ++ [[e]]
    | none => [[e]]) [] es

/-- One M tile of a problem for an N tile: its first channel within the problem, its in-bound Floor rows and output channels, and what
it gathers. A bin tile's row map names channels of the whole problem. -/
structure MTile where
  m0 : Nat
  ml : Nat
  cl : Nat
  rows : Option (List (Nat × Nat × Nat))
  deriving DecidableEq, Repr

/-- The bin tiles of a problem: the rows that it declares, in order of the bins from bin 1 on. -/
def Problem.binTiles (p : Problem) (bins : List (List (Nat × Nat × Nat))) : List (List (Nat × Nat × Nat)) :=
  (bins.drop 1).flatMap (fun b => Sys2Proof.Machine.binTiles (b.filter (fun e => decide (p.wRow ≤ e.1 ∧ e.1 ≤ p.wRow + p.pm))))

/-- M tile `i` of a union of neurons (R181): 2,048 of them; its output channels run from its first neuron to the next tile's, so that
every element of the problem, active or not, is stored by one tile (R183; DESIGN CHOICE, notes/assumptions/173.md). -/
def unionTile (wRow m : Nat) (us : List Nat) (i : Nat) : MTile :=
  let lo := if i = 0 then 0 else (us[2048 * i]?).getD m
  let rs := (us.drop (2048 * i)).take 2048
  ⟨lo, rs.length, (us[2048 * (i + 1)]?).getD m - lo, some (rs.map (fun r => (wRow + r, 0, 0)))⟩

/-- The M tiles of a problem of `m` in-bound channels for each N tile. -/
def RowSource.tiles (src : RowSource) (p : Problem) (m : Nat) : List (Nat → MTile) :=
  let mb := List.range (ceilDiv (p.pm + 1) 2048)
  match src with
  | .blocks => mb.map (fun i => fun _ => let n := min 2048 (m - 2048 * i); ⟨2048 * i, n, n, none⟩)
  | .bins bs =>
    (p.binTiles bs).map (fun b => fun _ =>
      let rs := b.filter (fun e => decide (e.1 < p.wRow + m))
      ⟨0, rs.length, rs.length, some rs⟩)
  | .unions f => mb.map (fun i => fun j => unionTile p.wRow m ((f p j).filter (fun r => decide (r < m))) i)

/-- The items of problem number `pi`, numbered from `t0`. -/
def problemItems (src : RowSource) (q : Shape) (l : Layer) (lens : List Nat) (t0 pi : Nat) (p : Problem) : List Item :=
  let x := l.actual lens p
  let g := q.geo x.1 x.2.2
  let ns := match src with | .unions _ => 16 | _ => g.ns
  let nb := ceilDiv (p.pn + 1) ns
  ((List.range ((src.tiles p x.1).length)).zip (src.tiles p x.1)).flatMap (fun r =>
    (List.range nb).map (fun j =>
      let t := r.2 j
      let nl := min ns (x.2.1 - j * ns)
      { p := p, pi := pi, item := t0 + r.1 * nb + j, mi := r.1, m0 := t.m0, n0 := j * ns, k0 := 0, ml := t.ml, nl := nl, kl := x.2.2,
        cl := t.cl, part := 0, parts := 1, ns := ns, kc := g.kc, c := g.c, rows := t.rows,
        skip := decide (t.cl = 0 ∨ nl = 0 ∨ x.2.2 = 0) }))

/-- The row tiles of problem number `pi` of a row layer, numbered from `t0`. -/
def rowItems (l : Layer) (lens : List Nat) (t0 pi : Nat) (p : Problem) : List Item :=
  let x := l.actual lens p
  (List.range (ceilDiv (p.pn + 1) 64)).map (fun t =>
    let nl := min 64 (x.2.1 - 64 * t)
    { p := p, pi := pi, item := t0 + t, mi := 0, m0 := 0, n0 := 64 * t, k0 := 0, ml := x.2.2, nl := nl, kl := x.2.2, cl := x.2.2, part := 0,
      parts := 1, ns := 64,
      kc := 1, c := 256, skip := decide (nl = 0 ∨ x.2.2 = 0) })

/-- The parts of an item (R330). -/
def splitItem (f : Nat) (i : Item) : List Item :=
  let per := ceilDiv i.kc f * i.c
  (List.range f).map (fun j =>
    let kl := min per (i.kl - j * per)
    { i with part := j, parts := f, k0 := j * per, kl := kl, skip := decide (kl = 0), split := true })

/-- The enumeration of a layer (R326, R330): the list whose place t runs at core position t mod Q. -/
def Layer.work (l : Layer) (src : RowSource) (q : Shape) (lens : List Nat) (cores : Nat) : List Item :=
  let items := (foldOver (fun (a : List Item × Nat) p =>
    let is := if l.op = 2 then rowItems l lens a.1.length a.2 p else problemItems src q l lens a.1.length a.2 p
    (a.1 ++ is, a.2 + 1)) ([], 0) (l.grid lens)).1
  if l.op = 2 then items
  else
    let live := (items.filter (fun i => !i.skip)).length
    if l.split ≠ 0 ∧ live < cores ∧ 0 < live then
      items.flatMap (fun i => if i.skip then [i] else splitItem (max 1 (min (min (cores / live) i.kc) 8)) i)
    else items

/-! Cores (R326, R435). -/

/-- The clusters of a set in ascending order. -/
def clustersOf (mapped : Word) : List Nat := (List.range 32).filter (fun c => bitAt mapped.toNat c)

/-- The core positions of a mapped set: core i of each cluster in turn, then core i + 1, the fenced ones left out. -/
def State.positions (s : State) (mapped : Word) : List Nat :=
  (List.range 8).flatMap (fun i => ((clustersOf mapped).map (fun c => 8 * c + i)).filter (fun n => !(coreFenced s n)))

/-- The Halls of a mapped set (R318). -/
def hallsOf (mapped : Word) : List Nat := [0, 1, 2, 3].filter (fun h => (clustersOf mapped).any (fun c => c / 8 == h))

/-! Loop orders (R328, R329). -/

/-- The loops M, N, K of an order code from outer to inner, as 0, 1, 2. -/
def orderLoops (code : Nat) : List Nat :=
  match code with
  | 1 => [0, 1, 2]
  | 2 => [0, 2, 1]
  | 3 => [1, 0, 2]
  | 4 => [1, 2, 0]
  | 5 => [2, 0, 1]
  | _ => [2, 1, 0]

/-- The product of the M and N extents that have a K loop of extent above 1 outside them, in a nest of (loop, extent). -/
def liveTiles : Bool → List (Nat × Nat) → Nat
  | _, [] => 1
  | k, (v, e) :: t => if v = 2 then liveTiles (k || decide (1 < e)) t else (if k then e else 1) * liveTiles k t

/-- The nest of three levels with their order codes and extents. -/
def nestOf (hg gs sv : Nat) (eh es ev : Nat × Nat × Nat) : List (Nat × Nat) :=
  let lv := fun (code : Nat) (e : Nat × Nat × Nat) =>
    (orderLoops code).map (fun v => (v, if v = 0 then e.1 else if v = 1 then e.2.1 else e.2.2))
  lv hg eh ++ lv gs es ++ lv sv ev

/-- The live tiles of R329 for one problem of `n` positions: grid, Q, the distinct M blocks of a core and ng. -/
def Layer.live (l : Layer) (g : Geo) (n nb cores mc ng cap : Nat) : Nat :=
  let nc := ceilDiv nb (max 1 cores)
  let p := ceilDiv (min g.ns n) 16
  let hg := if l.ordHG = 0 then (if nc * p ≤ cap then 2 else 1) else l.ordHG
  let gs := if l.ordGS = 0 then 1 else l.ordGS
  let sv := if l.ordSV = 0 then 2 else l.ordSV
  liveTiles false (nestOf hg gs sv (mc, nc, ng) (1, 1, ceilDiv g.nk (max 1 ng)) (1, p, g.ks / g.c))

/-! Paths (R164, R165). -/

/-- The path that PATH or the form fixes; none where the Curator measures. -/
def fixedPath (l : Layer) (w : Tensor) : Option Nat :=
  if l.path ≠ 0 then some l.path
  else if w.spf = 0 then some 1
  else if w.spf ≤ 2 then some 2
  else none

/-- Whether a layer of a job runs its weight operand in the compressed form. -/
def Job.sparsePath (j : Job) (li : Nat) (l : Layer) : Bool :=
  let w := (j.tensors[l.w]?).getD {}
  decide (w.spf ≠ 0 ∧ (fixedPath l w).getD (Assoc.get 0 j.paths li) = 2)

/-- The density of a weight operand as P and N (R165). -/
def Tensor.density (t : Tensor) (d : Td) (rd : Nat → Byte) : Nat × Nat :=
  if t.spf = 6 then (rdNat rd (d.base + 16) 8, (t.rows + 1) * (t.kext + 1))
  else
    (foldOver (fun n i => n + d.fbCount rd i) 0 (List.range t.supers),
     ceilDiv (t.rows + 1) d.fbSide * ceilDiv (t.kext + 1) d.fbSide)

/-- Dense (1) when P × 1,000 ≥ T × N, sparse (2) otherwise. -/
def pathOf (p n t : Nat) : Nat := if t * n ≤ p * 1000 then 1 else 2

/-- T of SPARSE.BREAKEVEN for a form (R173). -/
def State.breakeven (s : State) (spf : Nat) : Nat :=
  let v := s.rget (foy 0x80)
  match spf with
  | 5 => fget v 0 10
  | 4 => fget v 16 10
  | 3 => fget v 32 10
  | _ => fget v 48 10

end Sys2Proof.Machine
end

