-- ==== Sys2Proof/Machine/VisitorBook.lean ====
section
/-! DEFINITION. The Visitor Book (17_module R488 to R495): packets and their entries, the commit, the consumer operations,
the watermarks and VB_ATTN_N. -/

namespace Sys2Proof.Machine

/-- Whether IDE lets the device serve its host: a secure stream, where HOST.CTL.IDE_REQUIRED asks for one (R369). -/
def State.hostSecure (s : State) : Bool := decide (s.fld 0x1000 0 1 = 0) || decide (s.ide ≠ 0)

/-- The IDE stream that carries an access at an offset of a BAR: the selective stream whose ranges cover it, or the link stream
(R368). -/
def State.ideCarrier (s : State) (bar off : Nat) : Nat :=
  match s.cfg.ideBars.find? (fun e => decide (e.2.1 = bar ∧ e.2.2.1 ≤ off ∧ off < e.2.2.1 + e.2.2.2)) with
  | some e => e.1
  | none => 0

/-- The stream that carries a device request to a host address (R368). -/
def State.ideRequest (s : State) (a : Nat) : Nat :=
  match s.cfg.ideHost.find? (fun e => decide (e.2.1 ≤ a ∧ a < e.2.1 + e.2.2)) with
  | some e => e.1
  | none => 0

/-- Whether an access of a BAR counts: with IDE_REQUIRED, one that a secure stream carries (R369). -/
def State.carried (s : State) (bar off : Nat) : Bool :=
  decide (s.fld 0x1000 0 1 = 0) || s.ide.toNat.testBit (s.ideCarrier bar off)

/-- Whether the device takes a host access at a BAR0 offset: until READY only the identity and status block answers
(R346), and with IDE_REQUIRED only a secure stream's accesses count (R369). -/
def State.hostOpen (s : State) (off : Nat) : Bool :=
  (decide (s.fld 0x0008 0 1 = 1) || decide (off < 0x1000)) && s.carried 0 off

/-- The entries of a packet (R488). -/
def VPkt.words (p : VPkt) : List DWord :=
  BitVec.ofNat 64 (p.event.toNat + p.payload.length % 16 * 2 ^ 16 + p.kind.toNat * 2 ^ 20 + p.num.toNat * 2 ^ 24 + p.job.toNat * 2 ^ 36) ::
    p.time.setWidth 64 :: p.payload

/-- The last word of a packet carries the end-mark. -/
def entriesOf : List DWord → List VEntry
  | [] => []
  | [w] => [⟨w, true, false, true⟩]
  | w :: t => ⟨w, false, false, true⟩ :: entriesOf t

/-- PKTS: end-marks of packets none of whose entries has been lost (R491). -/
def packetCount (l : List VEntry) : Nat := (l.filter (fun e => e.fin && e.counted)).length

/-- VB.PTR follows the FIFO: RD and WR advance by `rd` and `wr` entries (R491). -/
def State.vbMove (s : State) (rd wr : Nat) : State :=
  let s := s.bumpFld (vbReg 0x10) 0 14 wr
  let s := s.bumpFld (vbReg 0x10) 16 14 rd
  (s.setFld (vbReg 0x10) 32 14 s.vb.length).setFld (vbReg 0x10) 48 14 (packetCount s.vb)

/-- VB_ATTN_N against the watermarks (R493). -/
def State.vbAttention (s : State) : State :=
  let n := s.vb.length
  if s.fld (vbReg 0x20) 0 14 ≤ n then
    if s.pins.vbAttnN then { s with pins := { s.pins with vbAttnN := false } }.event 3 else s
  else if n ≤ s.fld (vbReg 0x20) 16 14 then { s with pins := { s.pins with vbAttnN := true } }
  else s

/-- The entries of a cut packet no longer count, up to its end-mark. -/
def uncount : List VEntry → List VEntry
  | [] => []
  | e :: t => if e.fin then { e with counted := false } :: t else { e with counted := false } :: uncount t

/-- What stays when the oldest `n` entries are discarded (R492). -/
def discardOldest (n : Nat) (l : List VEntry) : List VEntry :=
  match n, (l.take n).getLast?, l.drop n with
  | 0, _, r => r
  | _, some e, x :: r => if e.fin then x :: r else uncount ({ x with trunc := true } :: r)
  | _, _, r => r

/-- A packet enters the FIFO (R490, R492). -/
def State.vbEnter (s : State) (p : VPkt) : State :=
  let es := entriesOf p.words
  let lost := s.vb.length + es.length - 8192
  let s := { s with vb := discardOldest lost s.vb ++ es }
  ((s.bumpFld (vbReg 0x28) 16 32 lost).vbMove lost es.length).vbAttention

/-- The order of a source: kind, then number. -/
def VPkt.source (p : VPkt) : Nat := p.kind.toNat * 4096 + p.num.toNat

/-- The source that commits next: the first with a waiting packet after the last (R490). -/
def State.vbNext (s : State) : Option Nat :=
  let src := s.vbWait.map VPkt.source
  let low := fun (l : List Nat) => match l with | [] => none | a :: t => some (foldOver (fun m x => min m x) a t)
  match low (src.filter (fun x => decide (s.vbSource < x))) with
  | some x => some x
  | none => low src

/-- Removes the first packet of a source. -/
def dropFirst (k : Nat) : List VPkt → List VPkt
  | [] => []
  | p :: t => if p.source = k then t else p :: dropFirst k t

/-- One commit (R490). -/
def State.vbCommitOne (s : State) : State :=
  match s.vbNext with
  | none => s
  | some k =>
    match s.vbWait.find? (fun p => p.source == k) with
    | none => s
    | some p => { s with vbWait := dropFirst k s.vbWait, vbSource := k }.vbEnter p

/-- Posts a packet of the Foyer's loader, which writes over many HCLK: what waits commits first (R334, R490). -/
def State.postPaced (s : State) (f : State → State) : State :=
  if 4 ≤ (s.vbWait.filter (fun p => p.source == 0)).length then
    f (foldOver (fun t _ => t.vbCommitOne) s (List.range s.vbWait.length))
  else f s

/-- VB_COMMIT: one waiting packet commits. -/
def execVbCommit (s : State) : Host.Outcome State Fault Refusal := .next s.vbCommitOne

/-- An 8-byte read of VB.DATA by either interface: the value and what it does (R492). -/
def State.vbRead (s : State) : State × DWord :=
  match s.vb with
  | [] =>
    let s := (s.setFld (vbReg 0x08) 2 1 1).setFld (vbReg 0x28) 0 1 1
    (s, s.vbLast)
  | e :: t =>
    let s := s.rput (vbReg 0x08) (BitVec.ofNat 64 ((if e.fin then 1 else 0) + (if e.trunc then 2 else 0)))
    ((({ s with vb := t, vbLast := e.val }).vbMove 1 0).vbAttention, e.val)

/-- VB_DATA_READ: the host reads VB.DATA, 8 bytes or 4. -/
def execVbDataRead (wide : Bool) (s : State) : Host.Outcome State Fault Refusal :=
  if wide = false then
    .next ((if s.hostOpen (vbReg 0) then s.setFld (vbReg 0x28) 1 1 1 else s).give (.data (leBytes 4 0)))
  else if s.hostOpen (vbReg 0) then
    let r := s.vbRead
    .next (r.1.give (.data (leBytes 8 r.2.toNat)))
  else .next (s.give (.data (leBytes 8 0)))

/-- The entries up to and with the first end-mark. -/
def throughEnd : List VEntry → Nat
  | [] => 0
  | e :: t => if e.fin then 1 else throughEnd t + 1

/-- DROP_PACKET: RD passes the next end-mark (R492). -/
def State.vbDrop (s : State) : State :=
  let n := throughEnd s.vb
  ({ s with vb := s.vb.drop n }.vbMove n 0).vbAttention

/-- DROP_PACKET: a consumer drops what is left of a packet. -/
def execDropPacket (s : State) : Host.Outcome State Fault Refusal :=
  .next (if s.hostOpen (vbReg 0x18) then s.vbDrop else s)

/-- A write of the bits `wm` of VB.WM; a locked watermark that it names keeps its value, and a write that leaves LWM at or above
HWM is discarded whole and recorded (R8, R495). -/
def State.vbWm (s : State) (value wm : DWord) : State :=
  let lock := Assoc.get 0 s.locks (vbReg 0x20)
  let open_ := wm &&& ~~~lock
  let v := (value &&& open_) ||| (s.rget (vbReg 0x20) &&& ~~~open_)
  let h := min 8192 (max 1 (fget v 0 14))
  let l := fget v 16 14
  let rec_ := fun (t : State) => t.post 0x1050 0 0 0 [BitVec.ofNat 64 (vbReg 0x20), value]
  if h ≤ l then rec_ s
  else
    let s := if lock &&& wm = 0 then s else rec_ s
    (s.rput (vbReg 0x20) (BitVec.ofNat 64 (h + l * 2 ^ 16))).vbAttention

/-- VB_WM_WRITE: the host writes the watermarks. -/
def execVbWmWrite (value : BitVec 64) (s : State) : Host.Outcome State Fault Refusal :=
  .next (if s.hostOpen (vbReg 0x20) then (s.vbWm value (BitVec.allOnes 64)).claim (vbReg 0x20) (BitVec.allOnes 64) .host else s)

end Sys2Proof.Machine
end

