-- ==== Sys2Proof/Machine/LoaderRead.lean ====
section
/-! DEFINITION. What the loader reads (11_curator_tiling R315, R316, R319, R331, R333; 05_tempo R114, R133; 07_docent_catalogue
R176, R194; 10_nupor_reference R311): the layouts, and the grants under which host memory is reached (12_host_interface
R354). -/

namespace Sys2Proof.Machine

/-! Grants. -/

/-- The VALID grants of a domain with a right: first page and number of pages. -/
def State.grants (s : State) (dom : Nat) (write : Bool) : List (Nat × Nat) :=
  (s.reg.filter (fun e => decide (0x300000 ≤ e.1 ∧ e.1 < 0x380000 ∧ e.1 % 32 = 8 ∧ fget e.2 32 16 = dom ∧ fget e.2 48 1 = 1 ∧
      fget e.2 (if write then 50 else 49) 1 = 1))).map
    (fun e => ((s.rget (e.1 - 8)).toNat / 4096, fget e.2 0 32))

/-- The first host address of a range that no grant covers; requests are cut at 4 KiB. -/
def State.grantGap (s : State) (dom : Nat) (write : Bool) (a len : Nat) : Option Nat :=
  if len = 0 then none
  else
    let gs := s.grants dom write
    ((List.range ((a + len - 1) / 4096 - a / 4096 + 1)).find? (fun i =>
      let p := a / 4096 + i
      decide (2 ^ 52 ≤ p) || !(gs.any (fun g => decide (g.1 ≤ p ∧ p < g.1 + g.2))))).map
      (fun i => max a ((a / 4096 + i) * 4096))

/-! Failures (R334). -/

/-- A failed check: its number, code, offset of the record, unit and table code; the host address of a
GRANT_VIOLATION (R489). -/
structure Fail where
  check : Nat
  code : Half
  off : Nat
  unit : Nat
  table : Nat
  host : Option Nat := none
  deriving DecidableEq, Repr

def Fail.aux (f : Fail) : Half := BitVec.ofNat 16 (f.check % 256 + f.table % 256 * 256)

def noUnit : Nat := 0xFFFF

/-- A GRANT_VIOLATION of the static phase is reported at check 1 with the table being read (R334). -/
def State.grantFails (s : State) (dom a len table unit base : Nat) : List Fail :=
  match s.grantGap dom false a len with
  | some g => [⟨1, codeGrant, base + (g - a), unit, table, some g⟩]
  | none => []

/-! Layouts. -/

def wordOf (v lo : Nat) : Word := BitVec.ofNat 32 (v / 2 ^ lo)

/-- R315. -/
def parseJob (v : Nat) : JobDesc :=
  { version := bitsOf v 0 16, layers := bitsOf v 16 12, freeze := bitAt v 28, reps := bitsOf v 32 32,
    tensors := bitsOf v 64 12, klen := bitsOf v 96 32, kimg := bitsOf v 128 64, mimg := bitsOf v 192 64,
    mlen := bitsOf v 256 64, ttab := bitsOf v 320 64, ltab := bitsOf v 384 64, wtab := bitsOf v 448 64,
    wcount := bitsOf v 512 16, lens := (List.range 8).map (fun j => bitsOf v (576 + 32 * j) 32) }

/-- R316. -/
def parseTensor (v : Nat) : Tensor :=
  { mem := bitsOf v 0 2, clsW := bitAt v 2, circ := bitAt v 3, slot := bitsOf v 4 4, hall := bitsOf v 8 2,
    fmt := bitsOf v 10 6, spf := bitsOf v 16 4, gsize := bitsOf v 20 2, grouped := bitAt v 22, zero := bitAt v 23,
    off := bitsOf v 64 64, bytes := bitsOf v 128 64, kext := bitsOf v 192 24, rows := bitsOf v 216 20,
    soff := bitsOf v 256 64, aoff := bitsOf v 320 64 }

/-- R331. -/
def parseProblem (v : Nat) : Problem :=
  { aRow := bitsOf v 0 32, wRow := bitsOf v 32 32, yRow := bitsOf v 64 32, yCol := bitsOf v 96 32, pm := bitsOf v 128 20,
    pn := bitsOf v 148 20, pk := bitsOf v 168 24 }

/-- R114, with the outlier list of R133 that it names. -/
def parseTempo (v : Nat) (track : Bool) (list : List Nat) : TempoRec :=
  { tensor := bitsOf v 0 12, signed := bitAt v 12, mode := bitsOf v 13 2, hist := bitsOf v 15 2, seedValid := bitAt v 17,
    grouped := bitAt v 18, gsize := bitsOf v 19 2, wmin := bitsOf v 21 3, wmax := bitsOf v 24 3, pinW := bitsOf v 27 3,
    delta := wordOf v 32, seed := wordOf v 64, pinS := wordOf v 96, headroom := wordOf v 128, satLimit := wordOf v 160,
    outliers := bitsOf v 192 64, track := track, list := list }

/-- R176. -/
def parseDocent (v : Nat) : DocRec :=
  { inTensor := bitsOf v 0 12, uncal := bitAt v 12, adapt := bitAt v 13, rank := bitsOf v 16 8, neurons := bitsOf v 32 16,
    tau := wordOf v 64, tauStep := wordOf v 96, tauMin := wordOf v 128, eps := wordOf v 160, topk := bitsOf v 192 17,
    uAddr := bitsOf v 256 64, vAddr := bitsOf v 320 64, sigmaU := wordOf v 384, sigmaV := wordOf v 416 }

/-- R194. -/
def parseCat (v : Nat) : CatRec :=
  { tensor := bitsOf v 0 12, isF32 := bitAt v 12, atensor := bitsOf v 32 12, aoffset := bitsOf v 48 40,
    extent := bitsOf v 96 36 }

/-- R319 without the records it names. -/
def parseLayer (v : Nat) : Layer :=
  { op := bitsOf v 0 8, mode := bitsOf v 8 2, wa := bitsOf v 10 3, ww := bitsOf v 13 3, passes := bitsOf v 16 2,
    g := bitsOf v 18 2, path := bitsOf v 20 2, split := bitsOf v 22 2, ordHG := bitsOf v 24 3, ordGS := bitsOf v 27 3,
    ordSV := bitsOf v 30 3, ctv := bitAt v 33, lenM := bitsOf v 36 4, lenN := bitsOf v 40 4, lenK := bitsOf v 44 4,
    w := bitsOf v 48 12, a := bitsOf v 60 12, y := bitsOf v 72 12, ct := bitsOf v 84 12, m := bitsOf v 96 20,
    n := bitsOf v 116 20, k := bitsOf v 136 24, kentry := bitsOf v 160 32, num := wordOf v 192, tcount := bitsOf v 224 16,
    plcount := bitsOf v 240 16, pladdr := bitsOf v 256 64, taddr := bitsOf v 320 64, daddr := bitsOf v 384 64,
    caddr := bitsOf v 448 64, ccount := bitsOf v 512 16, eentry := bitsOf v 544 32,
    args := (List.range 8).map (fun i => BitVec.ofNat 64 (v / 2 ^ (576 + 64 * i))), problems := [], tempos := [],
    docent := none, cats := [] }

/-- A static window record (R333): tensor, offset within it, and the record of R311. -/
def parseWindow (v : Nat) : (Nat × Nat) × Window :=
  ((bitsOf v 0 12, bitsOf v 12 36),
   { len := bitsOf v 48 40, rights := BitVec.ofNat 3 (v / 2 ^ 88), clsW := bitAt v 91, spf := bitsOf v 92 4, fmt := bitsOf v 96 6 })

/-! Reading. -/

def State.hostNat (s : State) (a n : Nat) : Nat := leNat (s.hostBytes a n)

/-- The records of a table: nothing when a read of it fails. -/
def State.hostTable (s : State) (a size count : Nat) : List Nat := (List.range count).map (fun i => s.hostNat (a + size * i) size)

/-- What the loader has read of a job, with the failures of the reads and the bytes of JDIGEST (R417). -/
structure Loaded where
  jd : JobDesc
  tensors : List Tensor := []
  layers : List Layer := []
  wins : List ((Nat × Nat) × Window) := []
  fails : List Fail := []
  bytes : List Byte := []
  /-- Whether the descriptor, the tensor table, and the layer table with every Tempo record were read. -/
  jdRead : Bool := false
  tensorsRead : Bool := false
  layersRead : Bool := false
  deriving DecidableEq, Repr

/-- A Tempo record and its outlier list; the failure of a read of the list names the record. -/
def State.readTempo (s : State) (dom unit i v : Nat) : TempoRec × List Fail :=
  let a := bitsOf v 192 64
  if a = 0 then (parseTempo v false [], [])
  else
    match s.grantFails dom a 8 4 unit (32 * i) with
    | f :: _ => (parseTempo v false [], [{ f with off := 32 * i }])
    | [] =>
      let h := s.hostNat a 8
      let n := bitsOf h 0 7
      match s.grantFails dom (a + 8) (4 * n) 4 unit (32 * i) with
      | f :: _ => (parseTempo v (bitAt h 7) [], [{ f with off := 32 * i }])
      | [] => (parseTempo v (bitAt h 7) ((s.hostTable (a + 8) 4 n).map (fun e => e % 65536)), [])

/-- A layer with its pointer list, Tempo records, Docent record and Catalogue records. -/
def State.readLayer (s : State) (dom unit : Nat) (l : Layer) : Layer × List Fail × List Byte :=
  let fp := s.grantFails dom l.pladdr (32 * l.plcount) 3 unit 0
  let ft := s.grantFails dom l.taddr (32 * l.tcount) 4 unit 0
  let fd := if l.daddr = 0 then [] else s.grantFails dom l.daddr 64 5 unit 0
  let fc := s.grantFails dom l.caddr (32 * l.ccount) 6 unit 0
  let ts := if ft.isEmpty then
      ((List.range l.tcount).zip (s.hostTable l.taddr 32 l.tcount)).map (fun x => s.readTempo dom unit x.1 x.2)
    else []
  ({ l with
     problems := if fp.isEmpty then (s.hostTable l.pladdr 32 l.plcount).map parseProblem else []
     tempos := ts.map (fun x => x.1)
     docent := if l.daddr = 0 ∨ fd.isEmpty = false then none else some (parseDocent (s.hostNat l.daddr 64))
     cats := if fc.isEmpty then (s.hostTable l.caddr 32 l.ccount).map parseCat else [] },
   fp ++ ft ++ ts.flatMap (fun x => x.2) ++ fd ++ fc,
   s.hostBytes l.pladdr (32 * l.plcount) ++ s.hostBytes l.taddr (32 * l.tcount) ++
     (if l.daddr = 0 then [] else s.hostBytes l.daddr 64) ++ s.hostBytes l.caddr (32 * l.ccount))

/-- Reads a job from its descriptor's address. -/
def State.readJob (s : State) (dom desc : Nat) : Loaded :=
  match s.grantFails dom desc 256 0 noUnit 0 with
  | f :: _ => { jd := parseJob 0, fails := [f] }
  | [] =>
    let jd := parseJob (s.hostNat desc 256)
    let nt := jd.tensors + 1
    let nl := jd.layers + 1
    let ft := s.grantFails dom jd.ttab (64 * nt) 1 noUnit 0
    let fl := s.grantFails dom jd.ltab (256 * nl) 2 noUnit 0
    let fw := s.grantFails dom jd.wtab (32 * jd.wcount) 7 noUnit 0
    let ls := if fl.isEmpty then
        ((List.range nl).zip ((s.hostTable jd.ltab 256 nl).map parseLayer)).map (fun x => s.readLayer dom x.1 x.2)
      else []
    { jd := jd
      tensors := if ft.isEmpty then (s.hostTable jd.ttab 64 nt).map parseTensor else []
      layers := ls.map (fun x => x.1)
      wins := if fw.isEmpty then (s.hostTable jd.wtab 32 jd.wcount).map parseWindow else []
      fails := ft ++ fl ++ ls.flatMap (fun x => x.2.1) ++ fw
      bytes := s.hostBytes desc 256 ++ s.hostBytes jd.ttab (64 * nt) ++ s.hostBytes jd.ltab (256 * nl) ++
        ls.flatMap (fun x => x.2.2) ++ s.hostBytes jd.wtab (32 * jd.wcount)
      jdRead := true
      tensorsRead := ft.isEmpty
      layersRead := fl.isEmpty && ls.all (fun x => x.2.1.all (fun f => f.table != 4)) }

end Sys2Proof.Machine
end

