-- ==== Sys2Proof/Machine/LoaderCheck.lean ====
section
/-! DEFINITION. The static checks 1 to 11 of the loader (11_curator_tiling R318, R329, R333, R334 with the rules that they
name), and the Gallery space that a job needs (R317, R335; 05_tempo R133). -/

namespace Sys2Proof.Machine

/-- What the checks see: what was read, the mapped set and its core positions (R326, R435). -/
structure Chk where
  ld : Loaded
  mapped : Word
  cores : List Nat
  deriving DecidableEq, Repr

def Chk.tensor (c : Chk) (t : Nat) : Tensor := (c.ld.tensors[t]?).getD {}
def Chk.gov (c : Chk) (t : Nat) : Option TempoRec := (c.ld.layers.flatMap (fun l => l.tempos)).find? (fun r => r.tensor == t)
def Chk.units (c : Chk) : List (Nat × Layer) := (List.range c.ld.layers.length).zip c.ld.layers
def Chk.entries (c : Chk) : List (Nat × Tensor) := (List.range c.ld.tensors.length).zip c.ld.tensors

/-- One failure of a record. -/
def failIf (b : Bool) (check : Nat) (code : Half) (off unit table : Nat) : List Fail :=
  if b then [⟨check, code, off, unit, table, none⟩] else []

/-- One failure of a record, with the code of the first condition that holds. -/
def failOf (c : Option Half) (check : Nat) (off unit table : Nat) : List Fail :=
  match c with
  | some code => [⟨check, code, off, unit, table, none⟩]
  | none => []

def indexed {α : Type} (l : List α) : List (Nat × α) := (List.range l.length).zip l

/-! Check 1. -/

/-- The records of a list of layers with their layer and index. -/
def Chk.cats (c : Chk) : List (Nat × Nat × CatRec) := c.units.flatMap (fun u => (indexed u.2.cats).map (fun r => (u.1, r.1, r.2)))
def Chk.tempos (c : Chk) : List (Nat × Nat × TempoRec) :=
  c.units.flatMap (fun u => (indexed u.2.tempos).map (fun r => (u.1, r.1, r.2)))
def Chk.docents (c : Chk) : List (Nat × DocRec) := c.units.filterMap (fun u => u.2.docent.map (fun d => (u.1, d)))

/-- The first record of each Catalogue tensor. -/
def firstCats : List Nat → List (Nat × Nat × CatRec) → List (Nat × Nat × CatRec)
  | _, [] => []
  | seen, x :: t => if seen.contains x.2.2.tensor then firstCats seen t else x :: firstCats (x.2.2.tensor :: seen) t

def Chk.check1 (c : Chk) : List Fail :=
  let d := c.ld.jd
  failIf (decide (d.version ≠ 1 ∨ d.reps = 0 ∨ 1024 < d.wcount ∨ d.klen < 16)) 1 codeBufferSize 0 noUnit 0 ++
    c.units.flatMap (fun u => failIf (decide (4096 < u.2.plcount)) 1 codeBufferSize (256 * u.1) u.1 2) ++
    (match c.docents[1024]? with | some x => [⟨1, codeBufferSize, 0, x.1, 5, none⟩] | none => []) ++
    (match (firstCats [] c.cats)[256]? with | some x => [⟨1, codeBufferSize, 32 * x.2.1, x.1, 6, none⟩] | none => [])

/-! Check 2. -/

/-- Reserved codes of a tensor entry, and what R42 and R147 do not allow. -/
def tensorBad (t : Tensor) : Bool :=
  match Fmt.ofCode t.fmt with
  | none => true
  | some f =>
    decide (6 < t.spf) || (t.grouped && (decide (t.gsize = 3) || !f.groupable)) ||
      (decide (t.mem = 2) && t.circ && decide (8 < t.slot)) ||
      (decide (t.spf = 2) && decide ((t.rows + 1) % 4 ≠ 0 ∨ (t.kext + 1) % 4 ≠ 0))

/-- Whether a tensor's codes are XU or XI: its table format, or Tempo's choice. -/
def Chk.intLike (c : Chk) (t : Nat) : Bool := (c.gov t).isSome || (c.tensor t).fm.isInt
def Chk.isXB1 (c : Chk) (t : Nat) : Bool := (c.gov t).isNone && decide ((c.tensor t).fm = .xb1)
/-- At least two bits wide, where the width is fixed. -/
def Chk.twoBits (c : Chk) (t : Nat) : Bool := (c.gov t).isSome || decide (2 ≤ (c.tensor t).fm.width)

/-- The combinations of R57, R142 and R143. They do not say that W and A of an integer or binary layer are ungrouped, so such a layer
passes, and R87 meets its instructions (DESIGN CHOICE, notes/assumptions/167.md). -/
def Chk.comboOk (c : Chk) (l : Layer) : Bool :=
  let w := c.tensor l.w
  let a := c.tensor l.a
  let s24 := decide (w.spf = 1 ∨ w.spf = 2)
  let block := decide (3 ≤ w.spf ∧ w.spf ≤ 5)
  let fits24 := !s24 || (decide (l.passes = 0) && c.twoBits l.w && c.twoBits l.a)
  let wide := decide (l.passes = 0) || (c.gov l.a).isSome || decide (a.fm.width = 8)
  decide (a.spf = 0) && wide &&
  match l.mode with
  | 0 => c.intLike l.w && c.intLike l.a && fits24 && (decide (w.spf ≠ 2 ∧ w.spf ≠ 6) || !w.grouped)
  | 1 => c.intLike l.w && c.intLike l.a && fits24 && w.grouped && a.grouped && decide (w.gsize = l.g ∧ a.gsize = l.g) &&
      decide (w.spf ≠ 2 ∧ w.spf ≠ 6) && (decide (w.spf ≠ 1) || decide (l.g = 1 ∨ l.g = 2))
  | 2 => c.isXB1 l.w && c.isXB1 l.a && decide (l.passes = 0) && (decide (w.spf = 0) || block)
  | _ => false

/-- The kernel entries of a job (R248). -/
def Chk.entryList (c : Chk) : List Nat := c.ld.layers.flatMap (fun l => [l.kentry, l.eentry])
def Chk.kernelLen (c : Chk) (e : Nat) : Nat :=
  foldOver (fun m x => if e < x ∧ x < m then x else m) c.ld.jd.klen c.entryList - e

def Chk.layerBad (c : Chk) (l : Layer) : Bool :=
  let top := c.ld.jd.tensors
  let sel := fun (x : Nat) => decide (8 ≤ x ∧ x ≤ 14)
  decide (l.op ≠ 1 ∧ l.op ≠ 2) || decide (l.mode = 3 ∨ l.passes = 3 ∨ l.g = 3 ∨ l.path = 3) ||
    decide (l.ordHG = 7 ∨ l.ordGS = 7 ∨ l.ordSV = 7) || sel l.lenM || sel l.lenN || sel l.lenK ||
    decide (top < l.a ∨ top < l.y) || (l.ctv && decide (top < l.ct)) ||
    decide (c.ld.jd.klen ≤ l.kentry ∨ c.ld.jd.klen ≤ l.eentry) ||
    decide (65536 < c.kernelLen l.kentry ∨ 65536 < c.kernelLen l.eentry) ||
    (decide (l.op = 1) &&
      (decide (top < l.w) || !(c.comboOk l) || (decide (l.split = 1) && decide (l.mode = 1)) ||
        ((c.gov l.w).isNone && decide (l.ww + 1 ≠ (c.tensor l.w).fm.width)) ||
        ((c.gov l.a).isNone && decide (l.wa + 1 ≠ (c.tensor l.a).fm.width))))

def Chk.check2 (c : Chk) : List Fail :=
  let top := c.ld.jd.tensors
  c.entries.flatMap (fun e => failIf (tensorBad e.2) 2 codeBufferSize (64 * e.1) noUnit 1) ++
    c.units.flatMap (fun u =>
      failIf (c.layerBad u.2) 2 codeBufferSize (256 * u.1) u.1 2 ++
        (indexed u.2.tempos).flatMap (fun r => failIf (decide (top < r.2.tensor)) 2 codeBufferSize (32 * r.1) u.1 4) ++
        (match u.2.docent with | some d => failIf (decide (top < d.inTensor)) 2 codeBufferSize 0 u.1 5 | none => []) ++
        (indexed u.2.cats).flatMap (fun r =>
          failIf (decide (top < r.2.tensor ∨ top < r.2.atensor)) 2 codeBufferSize (32 * r.1) u.1 6))

/-! Check 3. -/

def ascending : List Nat → Bool
  | a :: b :: t => decide (a < b) && ascending (b :: t)
  | _ => true

/-- R115 for record `i` of layer `u`. -/
def Chk.tempoBad (c : Chk) (u i : Nat) (r : TempoRec) : Option Half :=
  let same := c.tempos.filter (fun x => decide (x.2.2.tensor = r.tensor ∧ ¬(x.1 = u ∧ x.2.1 = i)))
  let uses := fun (p : Layer → Bool) => c.ld.layers.any (fun l => decide (l.op = 1) && p l)
  let chans := (c.tensor r.tensor).kext + 1
  if (r.signed && decide (r.wmin = 0)) || decide (r.wmax < r.wmin ∨ 2 ≤ r.mode ∨ r.hist = 3) || (r.grouped && decide (r.gsize = 3)) ||
      !(f32PosFinite r.delta) || (decide (r.mode = 1) && !(f32PosFinite r.pinS)) || (r.seedValid && !(f32PosFinite r.seed)) ||
      (decide (r.headroom ≠ 0) && !(f32Le 0x3E800000#32 r.headroom && f32Le r.headroom 0x41800000#32)) ||
      same.any (fun x => x.1 == u || decide (x.2.2 ≠ r)) ||
      (decide (r.outliers ≠ 0) && uses (fun l => decide (l.mode ≠ 1) && (l.a == r.tensor || l.w == r.tensor))) ||
      (decide (r.mode ≠ 1) && uses (fun l => decide (l.passes ≠ 0) && l.a == r.tensor)) then some codeBufferSize
  else if decide (64 < r.list.length) || !(ascending r.list) || r.list.any (fun k => decide (chans ≤ k)) then some codeCountMismatch
  else none

/-- R192 for the Docent record of a layer, but for the place of U and V, which check 12 examines. -/
def Chk.docentBad (c : Chk) (l : Layer) (d : DocRec) : Bool :=
  decide (d.neurons ≠ l.m ∨ d.neurons + 1 < d.topk) || !(f32Finite d.tau) || !(f32Finite d.tauMin) || !(f32Finite d.eps) ||
    f32Lt d.tau d.tauMin || f32Lt d.eps 0 || !(f32PosFinite d.tauStep) || !(f32PosFinite d.sigmaU) || !(f32PosFinite d.sigmaV) ||
    decide (1 < (c.tensor l.w).spf ∨ l.mode = 2 ∨ l.passes ≠ 0 ∨ d.inTensor ≠ l.a)

/-- R193 and R194 for record `i` of layer `u`. -/
def Chk.catBad (c : Chk) (u i : Nat) (r : CatRec) : Option Half :=
  let t := c.tensor r.atensor
  let same := c.cats.filter (fun x => decide (x.2.2.tensor = r.tensor ∧ ¬(x.1 = u ∧ x.2.1 = i)))
  if decide (t.bytes < r.aoffset + 4 * (r.extent + 1) ∨ (t.mem ≠ 1 ∧ t.mem ≠ 2)) ||
      same.any (fun x => x.1 == u || decide (x.2.2 ≠ r)) then some codeBufferSize
  else if r.aoffset % 64 ≠ 0 then some codeAlignment
  else none

def Chk.check3 (c : Chk) : List Fail :=
  c.units.flatMap (fun u =>
    (indexed u.2.tempos).flatMap (fun r => failOf (c.tempoBad u.1 r.1 r.2) 3 (32 * r.1) u.1 4) ++
      (match u.2.docent with | some d => failIf (c.docentBad u.2 d) 3 codeBufferSize 0 u.1 5 | none => []) ++
      (indexed u.2.cats).flatMap (fun r => failOf (c.catBad u.1 r.1 r.2) 3 (32 * r.1) u.1 6))

/-! Check 4. -/

def Chk.check4 (c : Chk) : List Fail :=
  let d := c.ld.jd
  failIf (decide (d.klen % 16 ≠ 0 ∨ d.ttab % 64 ≠ 0 ∨ d.ltab % 64 ≠ 0 ∨ (d.wcount ≠ 0 ∧ d.wtab % 64 ≠ 0))) 4 codeAlignment 0 noUnit 0 ++
    c.entries.flatMap (fun e =>
      failIf (decide (((e.2.mem = 0 ∨ e.2.mem = 3) ∧ e.2.off % 64 ≠ 0) ∨ e.2.soff % 64 ≠ 0 ∨ e.2.aoff % 64 ≠ 0)) 4 codeAlignment
        (64 * e.1) noUnit 1) ++
    c.units.flatMap (fun u =>
      let l := u.2
      failIf (decide (l.kentry % 16 ≠ 0 ∨ l.eentry % 16 ≠ 0 ∨ (l.plcount ≠ 0 ∧ l.pladdr % 64 ≠ 0) ∨
        (l.tcount ≠ 0 ∧ l.taddr % 64 ≠ 0) ∨ l.daddr % 64 ≠ 0 ∨ (l.ccount ≠ 0 ∧ l.caddr % 64 ≠ 0))) 4 codeAlignment (256 * u.1) u.1 2)

/-! Check 5. -/

/-- A stream ends beyond BYTES, or two streams overlap (R317). -/
def streamsBad (t : Tensor) (rd : Option (Nat → Byte)) : Bool :=
  let ss := indexed (t.streams rd)
  ss.any (fun a => decide (t.bytes < a.2.1 + a.2.2) ||
    ss.any (fun b => decide (a.1 < b.1 ∧ a.2.1 < b.2.1 + b.2.2 ∧ b.2.1 < a.2.1 + a.2.2)))

def lengthBad (lens : List Nat) (sel ext : Nat) : Bool :=
  decide (sel < 8) && (match lens[sel]? with | some v => decide (v = 0 ∨ ext < v) | none => false)

def Chk.extentBad (c : Chk) (l : Layer) : Bool :=
  let w := c.tensor l.w
  let a := c.tensor l.a
  let y := c.tensor l.y
  let ct := c.tensor l.ct
  let lens := c.ld.jd.lens
  lengthBad lens l.lenM (l.m + 1) || lengthBad lens l.lenN (l.n + 1) || lengthBad lens l.lenK (l.k + 1) ||
    (l.ctv && decide ((ct.rows + 1) * (ct.kext + 1) < l.m + 1)) ||
    (if l.op = 2 then decide (a.rows < l.n ∨ a.kext < l.k ∨ y.rows < l.n ∨ y.kext < l.k)
     else decide (w.rows < l.m ∨ w.kext < l.k ∨ a.rows < l.n ∨ a.kext < l.k ∨ y.rows < l.n ∨ y.kext < l.m))

def Chk.problemBad (c : Chk) (l : Layer) (p : Problem) : Bool :=
  let y := c.tensor l.y
  decide (l.m < p.pm ∨ l.n < p.pn ∨ l.k < p.pk ∨ (c.tensor l.a).rows < p.aRow + p.pn ∨
    (l.op = 1 ∧ (c.tensor l.w).rows < p.wRow + p.pm) ∨ y.rows < p.yRow + p.pn ∨ y.kext < p.yCol + p.pm)

/-- What a tensor holds before the job runs, by offset: where it lies in host memory and the grants cover it. -/
def Chk.content (s : State) (dom : Nat) (c : Chk) (t : Tensor) : Option (Nat → Byte) :=
  let at_ := if t.mem = 0 then some (c.ld.jd.mimg + t.off) else if t.mem = 3 then some t.off else none
  match at_ with
  | some a => if (s.grantGap dom false a t.bytes).isSome then none else some (fun o => s.hostByte (a + o))
  | none => none

def Chk.check5 (s : State) (dom : Nat) (c : Chk) : List Fail :=
  c.entries.flatMap (fun e =>
      failIf (streamsBad e.2 (c.content s dom e.2) || (decide (e.2.mem = 0) && decide (c.ld.jd.mlen < e.2.off + e.2.bytes))) 5 codeBufferSize (64 * e.1) noUnit 1) ++
    c.units.flatMap (fun u =>
      failIf (c.extentBad u.2) 5 codeBufferSize (256 * u.1) u.1 2 ++
        (indexed u.2.problems).flatMap (fun r => failIf (c.problemBad u.2 r.2) 5 codeBufferSize (32 * r.1) u.1 3))

/-! Check 6. -/

/-- The COUNT fields and offset table of a block-sparse tensor, or the row table of an FE tensor (R152, R154). -/
def folnilCounts (t : Tensor) (id base : Nat) (rd : Nat → Byte) : Bool :=
  let d := t.td id base
  let len := t.bytes
  match t.spf with
  | 6 =>
    let n := t.rows + 1
    let rows := (List.range n).map (fun r => d.feRow rd r)
    decide (d.feRows rd = n) &&
      (foldOver (fun (a : Bool × Nat) (r : Nat × Nat) => (a.1 && decide (r.1 = a.2), a.2 + r.2)) (true, 0) rows).1 &&
      decide (foldOver (fun n r => n + r.2) 0 rows = rdNat rd (base + 16) 8) &&
      decide (64 + lineUp (8 * n) + 4 * rdNat rd (base + 16) 8 ≤ len)
  | _ =>
    let n := t.supers
    (List.range n).all (fun i => d.fbCountOk rd i) &&
      (match n with
       | 0 => true
       | k + 1 => decide (d.fbRec rd k + 64 * d.fbLines (d.fbCount rd k) ≤ base + len))

def Chk.check6 (s : State) (dom : Nat) (c : Chk) : List Fail :=
  c.entries.flatMap (fun e =>
    let t := e.2
    if (t.soff ≠ 0 ∧ t.bytes ≤ t.soff) ∨ (t.aoff ≠ 0 ∧ t.bytes ≤ t.aoff) then [⟨6, codeCountMismatch, 64 * e.1, noUnit, 1, none⟩]
    else if t.mem = 3 ∧ 3 ≤ t.spf ∧ t.spf ≤ 6 then
      match s.grantFails dom t.off t.bytes 1 noUnit 0 with
      | f :: _ => [{ f with off := 64 * e.1 }]
      | [] => failIf (!(folnilCounts t e.1 t.off s.hostByte)) 6 codeCountMismatch (64 * e.1) noUnit 1
    else [])

/-! Check 7. -/

/-- The largest magnitude of an operand of width `w` (R91). -/
def magMax (signed : Bool) (w : Nat) : Nat := if signed then 2 ^ (w - 1) else 2 ^ w - 1

def Chk.opMax (c : Chk) (t passes : Nat) : Nat :=
  let f := (c.tensor t).fm
  let signed := match c.gov t with | some r => r.signed | none => f.signed
  if passes ≠ 0 then magMax signed (8 * (passes + 1))
  else
    match c.gov t with
    | some r => magMax r.signed (r.wmax + 1)
    | none => if f = .xb1 then 1 else magMax f.signed f.width

/-- P of R91 and R157. -/
def Chk.products (s : State) (dom : Nat) (c : Chk) (l : Layer) : Nat :=
  let w := c.tensor l.w
  let k := l.k + 1
  let at_ := if w.mem = 0 then some (c.ld.jd.mimg + w.off) else if w.mem = 3 then some w.off else none
  if w.spf = 1 ∨ w.spf = 2 then 2 * ceilDiv k 4
  else if w.spf = 6 then
    match at_ with
    | some a =>
      if (s.grantGap dom false (a + 64) (8 * (w.rows + 1))).isSome then 0
      else foldOver (fun m r => max m ((w.td l.w a).feRow s.hostByte r).2) 0 (List.range (w.rows + 1))
    | none => k
  else k

def Chk.check7 (s : State) (dom : Nat) (c : Chk) : List Fail :=
  c.units.flatMap (fun u =>
    let l := u.2
    failIf (decide (l.op = 1 ∧ (l.mode = 0 ∨ l.mode = 2)) &&
      decide (2 ^ 31 ≤ c.products s dom l * c.opMax l.a l.passes * c.opMax l.w 0)) 7 codeIntRange (256 * u.1) u.1 2)

/-! Gallery space (R317, R330, R335, R133). -/

def pageUp4K (n : Nat) : Nat := 4096 * ceilDiv n 4096

/-- What a piece of Gallery space is for. -/
inductive Use where
  | kernel
  | tensor (t : Nat)
  | split (layer : Nat)
  | outlier (key : Nat)
  deriving DecidableEq, Repr

/-- A piece of Gallery space: its Hall, the bytes that count (R334), those that it takes, its use, and the record that check 9
names. -/
structure Need where
  hall : Nat
  size : Nat
  room : Nat
  use : Use
  off : Nat
  unit : Nat
  table : Nat
  deriving DecidableEq, Repr

/-- Bytes of `n` XF16 elements of one position of a side tensor, in whole words (R133, R250). -/
def sideBytes (n : Nat) : Nat := 8 * ceilDiv n 4

/-- Bytes from one position of a side tensor to the next: a list that may grow has room for 64 elements (R137; DESIGN CHOICE,
notes/assumptions/171.md). -/
def sidePitch (r : TempoRec) : Nat := sideBytes (if r.track then 64 else r.list.length)

/-- The pieces that a Tempo record with an outlier list needs: use, bytes that count (R133), bytes taken. -/
def outlierNeeds (t : Tensor) (r : TempoRec) : List (Use × Nat × Nat) :=
  let n := r.list.length
  [(.outlier (4 * r.tensor), 8 + 4 * n, if r.track then 264 else 8 + 4 * n),
   (.outlier (4 * r.tensor + 1), sideBytes n * (t.rows + 1), sidePitch r * (t.rows + 1))] ++
    (if r.track then [(.outlier (4 * r.tensor + 2), 4 * (t.kext + 1), 4 * (t.kext + 1))] else [])

/-- The first layer in which each outlier record stands. -/
def firstTempos : List Nat → List (Nat × Nat × TempoRec) → List (Nat × Nat × TempoRec)
  | _, [] => []
  | seen, x :: t =>
    if seen.contains x.2.2.tensor || decide (x.2.2.outliers = 0) then firstTempos seen t
    else x :: firstTempos (x.2.2.tensor :: seen) t

/-- The Gallery space of a job in the order of check 9. -/
def Chk.needs (c : Chk) : List Need :=
  let halls := hallsOf c.mapped
  let low := halls.headD 0
  let need := fun (h size : Nat) (u : Use) (off unit table : Nat) => (⟨h, pageUp4K size, pageUp4K size, u, off, unit, table⟩ : Need)
  halls.map (fun h => need h c.ld.jd.klen .kernel 0 noUnit 0) ++
    c.entries.filterMap (fun e =>
      if e.2.mem = 2 ∧ halls.contains e.2.hall = true then some (need e.2.hall e.2.bytes (.tensor e.1) (64 * e.1) noUnit 1) else none) ++
    c.units.flatMap (fun u =>
      (if u.2.op = 1 ∧ u.2.split ≠ 0 then
        [need low (u.2.splitBytes (c.tensor u.2.w) c.ld.jd.lens) (.split u.1) (256 * u.1) u.1 2] else []) ++
        ((firstTempos [] c.tempos).filter (fun x => x.1 == u.1)).flatMap (fun x =>
          (outlierNeeds (c.tensor x.2.2.tensor) x.2.2).map (fun n =>
            ⟨low, pageUp4K n.2.1, pageUp4K n.2.2, n.1, 256 * u.1, u.1, 2⟩)))

/-- The Gallery space of a Hall's open mailboxes (R360). -/
def State.mbxUse (s : State) (h : Nat) : Nat :=
  foldOver (fun n i =>
    if s.fld (mbxReg i 0) 0 2 = 1 ∧ s.fld (mbxReg i 0) 2 2 = h then n + 4096 * s.fld (mbxReg i 0) 32 32 else n) 0 (List.range 64)

def galLimit : Nat := 188 * 2 ^ 20

/-- The first need of a Hall that passes 188 MiB. -/
def overLimit (used : Nat) : List Need → Option Need
  | [] => none
  | n :: t => if galLimit < used + n.size then some n else overLimit (used + n.size) t

def Chk.check9 (s : State) (c : Chk) : List Fail :=
  let halls := hallsOf c.mapped
  c.entries.flatMap (fun e => failIf (decide (e.2.mem = 2) && !(halls.contains e.2.hall)) 9 codeBufferSize (64 * e.1) noUnit 1) ++
    halls.filterMap (fun h =>
      (overLimit (s.mbxUse h) (c.needs.filter (fun n => n.hall == h))).map (fun n => ⟨9, codeBufferSize, n.off, n.unit, n.table, none⟩))

/-! Check 8. -/

/-- The shape of a layer at its declared widths: a governed operand at its WMAX. -/
def Chk.shape (c : Chk) (l : Layer) : Shape :=
  let width := fun (t : Nat) => match c.gov t with | some r => r.wmax + 1 | none => (c.tensor t).fm.width
  let w := c.tensor l.w
  { w := w, a := c.tensor l.a, ww := width l.w, wa := if l.passes = 0 then width l.a else 8,
    sparse := decide (w.spf ≠ 0 ∧ (fixedPath l w).getD 2 = 2), passes := l.passes + 1,
    outl := ((c.gov l.a).map (fun r => r.list.length)).getD 0 }

/-- S of R327 in a Hall. -/
def Chk.stage (c : Chk) (h : Nat) : Nat :=
  let used := foldOver (fun n (x : Need) =>
    match x.use with
    | .kernel => n + x.size
    | .tensor _ => n + x.size
    | _ => n) 0 (c.needs.filter (fun x => x.hall == h))
  (galLimit - used) / 4 / 4096 * 4096

/-- ng of R327: the smallest count for which the Hall's weight tiles fit in S. -/
def Chk.gallerySteps (c : Chk) (q : Shape) (g : Geo) (mb h : Nat) : Nat :=
  let tiles := (c.cores.filter (fun n => n / 64 == h)).length
  (((List.range g.nk).map (fun i => i + 1)).find? (fun ng =>
    decide (min mb tiles * weightTile q.w q.sparse q.ww g.rs (g.ks * ceilDiv g.nk ng) ≤ c.stage h))).getD (max 1 g.nk)

def Chk.liveOk (c : Chk) (l : Layer) : Bool :=
  let q := c.shape l
  let cap := if l.mode = 1 then 4 else 32
  (l.grid c.ld.jd.lens).all (fun p =>
    let g := q.geo (p.pm + 1) (p.pk + 1)
    let mb := ceilDiv (p.pm + 1) 2048
    let nb := ceilDiv (p.pn + 1) g.ns
    let mc := if c.cores.length ≤ nb then mb else ceilDiv (mb * nb) (max 1 c.cores.length)
    (hallsOf c.mapped).all (fun h => decide (l.live g (p.pn + 1) nb c.cores.length mc (c.gallerySteps q g mb h) cap ≤ cap)))

def Chk.check8 (c : Chk) : List Fail :=
  c.units.flatMap (fun u =>
    let l := u.2
    failIf (decide (l.op = 1 ∧ (l.ordHG ≠ 0 ∨ l.ordGS ≠ 0 ∨ l.ordSV ≠ 0)) && !(c.liveOk l)) 8 codeAcmCapacity (256 * u.1) u.1 2)

/-! Checks 10 and 11. -/

def pagesFor (n : Nat) : Nat := ceilDiv n (2 ^ 21)

/-- The footprint in 2 MiB pages (R317). -/
def Chk.footprint (c : Chk) : Nat :=
  pagesFor c.ld.jd.mlen + foldOver (fun n (t : Tensor) => if t.mem = 1 then n + pagesFor t.bytes else n) 0 c.ld.tensors

/-- Whether a Hall is fenced until the next power cycle (R440). -/
def State.hallPermanent (s : State) (h : Nat) : Bool := bitAt (s.rget (foy 0x0500)).toNat (24 + h)

/-- Retired pages; those of a Hall that is fenced for good count as retired (R440). -/
def State.retiredPages (s : State) : Nat :=
  (s.pages.filter (fun e => e.2.retired && !(s.hallPermanent (e.1 / 98304)))).length +
    97280 * ([0, 1, 2, 3].filter (fun h => s.hallPermanent h)).length

def Chk.check10 (s : State) (c : Chk) : List Fail :=
  failIf (decide (389120 - s.retiredPages < c.footprint)) 10 codeTooLarge 0 noUnit 0

/-- A static window lies wholly inside one tensor region (R333). -/
def Chk.windowOk (c : Chk) (x : (Nat × Nat) × Window) : Bool :=
  let t := c.tensor x.1.1
  decide (x.1.1 ≤ c.ld.jd.tensors ∧ t.mem ≠ 3 ∧ x.1.2 + x.2.len ≤ t.bytes ∧ x.1.2 % 64 = 0 ∧ x.2.len % 64 = 0)

/-- The Hall that holds the window on a tensor: its home, or for one in HBM, whose pages are not yet taken, the Hall that R209 fills
first (notes/assumptions/81.md). -/
def Chk.windowHall (c : Chk) (t : Nat) : Nat := if (c.tensor t).mem = 2 then (c.tensor t).hall else (hallsOf c.mapped).headD 0

/-- The windows that are open in a Hall. -/
def State.openWindows (s : State) (h : Nat) : Nat := ((s.hall h).windows.filter (fun e => e.2.isOpen)).length

/-- Whether static window `i` is the one with which its Hall would pass 1,024 windows or is beyond it (R333). -/
def Chk.windowOver (s : State) (c : Chk) (i : Nat) : Bool :=
  let hall := fun (w : (Nat × Nat) × Window) => c.windowHall w.1.1
  match c.ld.wins[i]? with
  | some w => decide (1024 < s.openWindows (hall w) + ((c.ld.wins.take (i + 1)).filter (fun v => hall v == hall w)).length)
  | none => false

def Chk.check11 (s : State) (c : Chk) : List Fail :=
  (indexed c.ld.wins).flatMap (fun r =>
    failIf ((c.ld.tensorsRead && !(c.windowOk r.2)) || c.windowOver s r.1) 11 codeWindowBounds (32 * r.1) noUnit 7)

/-- The failures of one check in the order of the table codes (R334). -/
def byTable (l : List Fail) : List Fail := (List.range 10).flatMap (fun t => l.filter (fun f => f.table == t))

/-- The static checks in their order (R333, R334). A read that failed is a failure of check 1; the checks that need what it did not
give are left out, and the others are made. -/
def Chk.run (s : State) (dom : Nat) (c : Chk) : List Fail :=
  if !c.ld.jdRead then c.ld.fails
  else
    let t := c.ld.tensorsRead
    let tl := t && c.ld.layersRead
    let one := fun (b : Bool) (l : List Fail) => if b then l else []
    let c6 := one t (c.check6 s dom)
    byTable (c.check1 ++ c.ld.fails ++ c6.filter (fun f => f.check == 1)) ++ one tl (byTable c.check2) ++ one tl (byTable c.check3) ++
      byTable c.check4 ++ one t (byTable (c.check5 s dom)) ++ byTable (c6.filter (fun f => f.check != 1)) ++ one tl (c.check7 s dom) ++
      one tl c.check8 ++ one tl (c.check9 s) ++ one t (c.check10 s) ++ c.check11 s

end Sys2Proof.Machine
end

