-- ==== Sys2Proof/Machine/Movement.lean ====
section
/-! DEFINITION. The movement instructions (10_nupor_reference R282 to R288): tiles between the memories and the Salon,
byte copies and fills, and the Vitrine loads. -/

namespace Sys2Proof.Machine

/-- The source descriptor cut to the elements that the destination asks for (R283). -/
def Td.cutTo (src dst : Td) : Td := { src with rows := min src.rows dst.rows, kext := min src.kext dst.kext }

/-- The tensor scale of XLOAD, XSTORE and CCONV, and its flag (R282). -/
def loadScale (x : Ctx) (c : BitVec 5) (scl : Bool) : (Nat × Int) × BitVec 11 :=
  if scl then
    let b := lowWord (x.sreg c)
    (scaleOf b, if f32PosFinite b then 0 else flagInexact)
  else ((1, 0), 0)

/-- The copy case of R283. -/
def copyCase (dst src : Td) (scl : Bool) : Bool :=
  decide (dst.fmt = src.fmt ∧ dst.gsize = src.gsize) && (dst.grouped == src.grouped) && !scl

/-- The tile that a copy writes: codes, scales and headers unchanged; what lies beyond the source holds code 0. -/
def copyTile (dst src : Td) (rd : Nat → Byte) : TileOut :=
  let code := fun r k => if src.rows < r ∨ src.kext < k then 0 else src.code rd r k
  if dst.grouped then
    dst.putBlocks
      (fun j =>
        match (List.range 16).findSome? (fun i => (dst.groupAt (16 * j + i)).bind (fun p =>
            if src.rows < p.1 ∨ src.kext < p.2 then none else some p)) with
        | some p =>
          let b := src.group p.1 p.2 / 16
          (rdNat rd (src.base + b * src.d) 8, rdNat rd (src.scale + 32 * b + 16) 8)
        | none => (headerWord (dst.seq0 + j) 1 dst.fmt dst.gsize dst.tensor,
                   headerWord (dst.seq0 + j) 2 dst.fmt dst.gsize dst.tensor))
      (fun r k =>
        (if src.rows < r ∨ src.kext < k then 0 else src.scaleCode rd r k,
         (List.range dst.g).map (fun i => if dst.kext < k + i then 0 else code r (k + i)), 0, false))
  else
    foldOver (fun o r =>
      foldOver (fun (o : TileOut) k =>
        let l := dst.loc r k
        { o with img := putBits rd o.img l.1 l.2 dst.width (code r k) }) o (List.range (dst.kext + 1)))
      {} (List.range (dst.rows + 1))

/-- The value that XLOAD forms for element (r, k) (R283). -/
def loadValue (src : Td) (rd : Nat → Byte) (sm : Nat) (se : Int) (r k : Nat) : Val :=
  if src.rows < r ∨ src.kext < k then .fin false 0 0 else src.value rd sm se r k

/-- A tile lies in the Salon of core `n`; otherwise the first address that does not. -/
def outOfSalon (n : Nat) (ranges : List (Nat × Nat)) : Option Nat :=
  (ranges.find? (fun r => !(inSalonOf n r.1 r.2))).map (fun r => r.1)
where
  inSalonOf (n a len : Nat) : Bool := decide (salonBase n ≤ a ∧ a + len ≤ salonBase n + 2 ^ 22)

/-- R45 on a source tile. -/
def seqCheck (src : Td) (rd : Nat → Byte) : Option (Half × Half) :=
  if src.grouped then seqFault (src.badBlock rd) else none

/-- The source bytes that a line of a destination tile needs: those of the rows that have an element in it. Where the source is
grouped, no line lands before its headers have been checked (R45). -/
def lineNeeds (dst src : Td) : Option (Nat → List (Nat × Nat)) :=
  if src.grouped then none
  else some (fun a => (List.range dst.mdim).flatMap (fun r =>
    if r ≤ src.rows ∧ (dst.winRanges r 1 0 dst.kext).any (fun w => overlaps w (a, 64)) = true then src.winRanges r 1 0 src.kext
    else []))

/-- Loads tile `src` into tile `dst` (R283); `copy` in the copy case. -/
def State.loadTile (s : State) (x : Ctx) (dst src : Td) (copy : Bool) (sc : (Nat × Int) × BitVec 11)
    (setFull setEmpty : Bool) : Res :=
  let cut := src.cutTo dst
  let satNan := (s.core x.n).satNan
  let tile := fun rd =>
    if copy then copyTile dst src rd
    else dst.put rd satNan sc.1.1 sc.1.2 (loadValue src rd sc.1.1 sc.1.2) (fun _ _ => false)
  s.transfer x
    { reads := cut.ranges, writes := dst.ranges, setFull := setFull, setEmpty := setEmpty, check := seqCheck cut,
      needs := lineNeeds dst cut }
    (fun rd => (tile rd).img)
    (fun rd t => let o := tile rd; t.converted x dst.tensor (o.flags ||| sc.2) o.nan)

def spfIllegal (b : Bool) : Option Half := if b then some 0x0006 else none

def workXload (a b c : BitVec 5) (setFull setEmpty scl : Bool) : Work :=
  { opcode := 0x10, queue := .movement, sR := if scl then [c.toNat] else [], tds := [a.toNat, b.toNat],
    illegal := fun x _ => spfIllegal (decide ((Td.of (x.tdreg a.toNat)).spf ≠ 0 ∨ (Td.of (x.tdreg b.toNat)).spf ≠ 0)),
    reads := fun x => ((Td.of (x.tdreg b.toNat)).cutTo (Td.of (x.tdreg a.toNat))).bounds,
    writes := fun x => (Td.of (x.tdreg a.toNat)).bounds,
    run := fun x s =>
      let dst := Td.of (x.tdreg a.toNat)
      let src := Td.of (x.tdreg b.toNat)
      match outOfSalon x.n dst.ranges with
      | some p => .fail s codeRegionBounds (kindCode p)
      | none => s.loadTile x dst src (copyCase dst src scl) (loadScale x c scl) setFull setEmpty }

/-- XLOAD moves a tile into the issuing core's Salon with conversion (R283). -/
def execXload (h : NHdr) (a b c : BitVec 5) (setFull setEmpty scl : Bool) (s : State) :
    Host.Outcome State Fault Refusal :=
  (workXload a b c setFull setEmpty scl).meets h (.xload h a b c setFull setEmpty scl) s

/-- Stores tile `src` of the core's Salon into tile `dst` (R284). -/
def State.storeTile (s : State) (x : Ctx) (dst src : Td) (scl : Bool) (sc : (Nat × Int) × BitVec 11)
    (setFull setEmpty : Bool) : Res :=
  if copyCase dst src scl && !(dst.gov && (s.governs x.n dst.tensor).isSome) && decide (dst.spf = 0) &&
      decide ((s.core x.n).docY ≠ some dst.tensor) then
    s.loadTile x dst src true sc setFull setEmpty
  else
    let cut := src.cutTo dst
    s.storePath x dst sc.1.1 sc.1.2
      { reads := cut.ranges, setFull := setFull, setEmpty := setEmpty, check := seqCheck cut,
        vals := fun rd => loadValue src rd sc.1.1 sc.1.2, pre := fun _ _ => (sc.2, none) }

def workXstore (a b c : BitVec 5) (setFull setEmpty scl : Bool) : Work :=
  { opcode := 0x11, queue := .movement, sR := if scl then [c.toNat] else [], tds := [a.toNat, b.toNat],
    illegal := fun x _ =>
      let d := (Td.of (x.tdreg a.toNat)).spf
      spfIllegal (decide ((d ≠ 0 ∧ d ≠ 2) ∨ (Td.of (x.tdreg b.toNat)).spf ≠ 0)),
    reads := fun x =>
      ((Td.of (x.tdreg b.toNat)).cutTo (Td.of (x.tdreg a.toNat))).bounds ++ bounding (Td.of (x.tdreg a.toNat)).patRanges,
    writes := fun x =>
      let d := Td.of (x.tdreg a.toNat)
      if d.spf = 2 then d.storeRanges else d.bounds,
    run := fun x s =>
      let dst := Td.of (x.tdreg a.toNat)
      let src := Td.of (x.tdreg b.toNat)
      match outOfSalon x.n (src.cutTo dst).ranges with
      | some p => .fail s codeRegionBounds (kindCode p)
      | none => s.storeTile x dst src scl (loadScale x c scl) setFull setEmpty }

/-- XSTORE moves a tile out of the issuing core's Salon through the store path (R284). -/
def execXstore (h : NHdr) (a b c : BitVec 5) (setFull setEmpty scl : Bool) (s : State) :
    Host.Outcome State Fault Refusal :=
  (workXstore a b c setFull setEmpty scl).meets h (.xstore h a b c setFull setEmpty scl) s

/-- R285: a length that is not a multiple of 8 faults ALIGNMENT; the auxiliary field is R210's. -/
def lengthFault (a len : Nat) : Option (Half × Half) :=
  if len % 8 ≠ 0 then some (codeAlignment, kindCode a) else none

def workXcopy (a b c : BitVec 5) (setFull setEmpty : Bool) (off : BitVec 48) : Work :=
  { opcode := 0x12, queue := .movement, sR := [a.toNat, b.toNat, c.toNat],
    reads := fun x => [(x.addr a off, (x.sreg c).toNat)],
    writes := fun x => [((x.sreg b).toNat, (x.sreg c).toNat)],
    run := fun x s =>
      let src := x.addr a off
      let dst := (x.sreg b).toNat
      let len := (x.sreg c).toNat
      match lengthFault src len with
      | some f => .fail s f.1 f.2
      | none =>
        s.transfer x
          { reads := [(src, len)], writes := [(dst, len)], setFull := setFull, setEmpty := setEmpty,
            needs := some (fun a => [(src + (a - dst), min (a + 64) (dst + len) - max a dst)]) }
          (fun rd => cellsAt dst (rdBytes rd src len)) (fun _ t => .done t) }

/-- XCOPY copies bytes without conversion (R285). -/
def execXcopy (h : NHdr) (a b c : BitVec 5) (setFull setEmpty : Bool) (off : BitVec 48) (s : State) :
    Host.Outcome State Fault Refusal :=
  (workXcopy a b c setFull setEmpty off).meets h (.xcopy h a b c setFull setEmpty off) s

def workXfill (a b c : BitVec 5) (setFull : Bool) (off : BitVec 48) : Work :=
  { opcode := 0x13, queue := .movement, sR := [a.toNat, b.toNat, c.toNat],
    writes := fun x => [(x.addr a off, (x.sreg b).toNat)],
    run := fun x s =>
      let dst := x.addr a off
      let len := (x.sreg b).toNat
      match lengthFault dst len with
      | some f => .fail s f.1 f.2
      | none =>
        s.transfer x { reads := [], writes := [(dst, len)], setFull := setFull }
          (fun _ => (List.range (len / 8)).flatMap (fun i => cellsAt (dst + 8 * i) (leBytes 8 (x.sreg c).toNat)))
          (fun _ t => .done t) }

/-- XFILL writes a 64-bit pattern into a range (R285). -/
def execXfill (h : NHdr) (a b c : BitVec 5) (setFull : Bool) (off : BitVec 48) (s : State) :
    Host.Outcome State Fault Refusal :=
  (workXfill a b c setFull off).meets h (.xfill h a b c setFull off) s

/-! VLOAD (R219, R286 to R288). -/

/-- The key of row `r` of engine `e` in weight slot `slot`, and of a scale code beside it. -/
def wKey (slot e r : Nat) : Nat := (slot * 16 + e) * 128 + r
def wSideKey (slot e r g : Nat) : Nat := (slot * 16 + e) * 1024 + r * 8 + g
def aKey (slot unit : Nat) : Nat := slot * 128 + unit
def aSideKey (slot n g : Nat) : Nat := slot * 1024 + n * 16 + g

/-- The number that bits, lowest first, spell. -/
def packBits : List Bool → Nat
  | [] => 0
  | b :: t => (if b then 1 else 0) + 2 * packBits t

/-- Plane `i` of a list of codes. -/
def planeOf (i : Nat) (codes : List Nat) : Nat := packBits (codes.map (fun c => bitAt c i))

/-- The chunk that a VLOAD names (R286). -/
def chunkIndex (x : Ctx) (c : BitVec 5) (off : BitVec 32) : Nat := (lowWord (x.sreg c) + off).toNat

def passCount (passes : BitVec 2) : Nat := passes.toNat + 1

/-- Planes of an activation chunk and the slots it occupies (R219, R287). -/
def actPlanes (w : Nat) (passes : BitVec 2) : Nat := if passes = 0 then w else 8 * passCount passes
def actSlots (planes : Nat) (d512 : Bool) : Nat := ceilDiv (16 * planes * (if d512 then 64 else 32)) 4096

def Td.is24 (t : Td) : Bool := decide (t.spf = 1 ∨ t.spf = 2)

/-- Slots of a weight chunk (R286). -/
def Td.weightSlots (t : Td) : Nat := if t.is24 then t.width + 2 else t.width

/-- Slots from `a`, `n` of them, as a mask. -/
def slotMask (a n : Nat) : BitVec 16 := BitVec.ofNat 16 ((2 ^ n - 1) * 2 ^ a)

/-- The limbs of an activation operand (R69, R287). -/
def limbs (x : Ctx) (a : BitVec 5) (passes : BitVec 2) : List Td :=
  (List.range (passCount passes)).map (fun p => Td.of (x.tdreg (a.toNat + p)))

/-- The formats that R69 allows the limbs of a wide operand. -/
def limbsOk (l : List Td) : Bool :=
  (l.dropLast.all (fun t => t.fmt == 8)) && (match l.getLast? with | some t => t.fmt == 8 || t.fmt == 0x18 | none => false)

def vloadIllegal (x : Ctx) (a : BitVec 5) (kind : Bool) (slot : BitVec 4) (passes : BitVec 2) (d512 : Bool) : Option Half :=
  let t := Td.of (x.tdreg a.toNat)
  if kind then
    if t.spf ≠ 0 then some 0x0006
    else if passes ≠ 0 ∧ limbsOk (limbs x a passes) = false then some 0x0003
    else if 16 < slot.toNat + actSlots (actPlanes t.width passes) d512 then some 0x0009
    else none
  else if 16 < slot.toNat + t.weightSlots ∨ (t.is24 = true ∧ slot.toNat % 2 = 1) then some 0x0009
  else none

/-- The Quadrille already holds chunk `j` of this operand; of an FE operand, whose chunks GATHERA forms, its rows. -/
def Quad.holds (q : Quad) (t : Td) (j : Nat) : Bool :=
  decide (q.tensor = t.tensor ∧ q.spf = t.spf ∧ q.base = t.base ∧ (t.spf = 6 ∨ (q.first ≤ j ∧ j < q.first + q.count)))

/-- The codes of a weight row of engine `e` in chunk `j`, lane by lane. -/
def weightCodes (q : Quad) (t : Td) (rd : Nat → Byte) (e r j : Nat) : List Nat :=
  let row := 128 * e + r
  if t.spf = 0 then
    (List.range (min 256 (t.kdim - 256 * j))).map (fun l => t.code rd row (256 * j + l))
  else if t.is24 then (List.range 256).map (fun l => (t.lane rd row j l).code)
  else if t.spf = 6 then
    match q.rows[row]? with
    | some f => ((q.union.drop (256 * j)).take 256).map (fun u =>
        ((f.entries.find? (fun en => en.1 == u)).map (fun en => en.2)).getD 0)
    | none => []
  else (List.range (min 256 (t.kdim - 256 * j))).map (fun l => (t.fbCode rd e j r l).1)

/-- The rows of the operand, or of the FE rows that the Quadrille staged. -/
def weightRows (q : Quad) (t : Td) : Nat := if t.spf = 6 then q.rows.length else t.mdim

/-- Clears the slots of a Vitrine table. -/
def dropKeys {α : Type} (span a n : Nat) (t : Assoc α) : Assoc α :=
  Assoc.keep (fun k => decide (k < a * span ∨ (a + n) * span ≤ k)) t

/-- Fills the weight Vitrines of a core (R286). -/
def CoreSt.fillWeights (c : CoreSt) (t : Td) (rd : Nat → Byte) (slot j : Nat) (absent : Bool) : CoreSt :=
  let n := t.weightSlots
  let plane0 := if t.is24 then slot + 2 else slot
  let c := { c with
    wRow := dropKeys 2048 slot n c.wRow, wMask := dropKeys 2048 slot 1 c.wMask, wSide := dropKeys 16384 slot 1 c.wSide,
    wAbsent := if absent then c.wAbsent ||| slotMask slot 1 else c.wAbsent &&& ~~~(slotMask slot 1),
    wFull := c.wFull ||| slotMask slot n }
  foldOver (fun c row =>
    let e := row / 128
    let r := row % 128
    if 16 ≤ e then c
    else
      let codes := weightCodes c.quad t rd e r j
      let c := foldOver (fun (c : CoreSt) i =>
        { c with wRow := Assoc.put 0 c.wRow (wKey (plane0 + i) e r) (BitVec.ofNat 256 (planeOf i codes)) })
        c (List.range t.width)
      let c := if t.is24 then
          let pos := (List.range 256).map (fun l => (t.lane rd row j l).pos)
          let v := foldOver (fun (a : Nat × Nat) p => (a.1 + p % 4 * 2 ^ a.2, a.2 + 2)) (0, 0) pos
          let lo := Assoc.put 0 c.wRow (wKey slot e r) (BitVec.ofNat 256 (v.1 % 2 ^ 256))
          { c with wRow := Assoc.put 0 lo (wKey (slot + 1) e r) (BitVec.ofNat 256 (v.1 / 2 ^ 256)) }
        else if 3 ≤ t.spf ∧ t.spf ≤ 5 then
          let m := packBits ((List.range 256).map (fun l => !((t.fbCode rd e j r l).2)))
          { c with wMask := Assoc.put 0 c.wMask (wKey slot e r) (BitVec.ofNat 256 m) }
        else if t.spf = 0 ∧ t.fm = .xb1 ∧ t.tensor = c.maskOf then
          let m := packBits ((List.range (min 256 (t.kdim - 256 * j))).map (fun l =>
            decide (t.code (fun a => Assoc.get 0 c.masked a) row (256 * j + l) = 1)))
          { c with wMask := Assoc.put 0 c.wMask (wKey slot e r) (BitVec.ofNat 256 m) }
        else c
      if t.grouped then
        let span := if t.is24 then 512 else 256
        foldOver (fun (c : CoreSt) g =>
          if t.kext < span * j + g * t.g then c
          else
            let sc := BitVec.ofNat 8 (t.scaleCode rd row (span * j + g * t.g))
            { c with wSide := Assoc.put 0 c.wSide (wSideKey slot e r g) sc }) c (List.range (span / t.g))
      else c) c (List.range (weightRows c.quad t))

/-- Fills the activation Vitrines of a core (R287). -/
def CoreSt.fillActs (c : CoreSt) (ts : List Td) (rd : Nat → Byte) (slot j : Nat) (passes : BitVec 2) (d512 : Bool) : CoreSt :=
  match ts with
  | [] => c
  | t :: _ =>
    let planes := actPlanes t.width passes
    let n := actSlots planes d512
    let span := if d512 then 512 else 256
    let c := { c with aUnit := dropKeys 128 slot n c.aUnit, aSide := dropKeys 1024 slot 1 c.aSide, aFull := c.aFull ||| slotMask slot n }
    foldOver (fun c p =>
      let c := foldOver (fun (c : CoreSt) (x : Nat × Td) =>
        let codes := if x.2.rows < p then [] else
          (List.range (min span (x.2.kdim - span * j))).map (fun l => x.2.code rd p (span * j + l))
        foldOver (fun (c : CoreSt) i =>
          let v := planeOf i codes
          let unit := p * planes + 8 * x.1 + i
          if d512 then
            let lo := Assoc.put 0 c.aUnit (aKey slot (2 * unit)) (BitVec.ofNat 256 (v % 2 ^ 256))
            { c with aUnit := Assoc.put 0 lo (aKey slot (2 * unit + 1)) (BitVec.ofNat 256 (v / 2 ^ 256)) }
          else { c with aUnit := Assoc.put 0 c.aUnit (aKey slot unit) (BitVec.ofNat 256 v) })
          c (List.range (if passes = 0 then t.width else 8))) c ((List.range ts.length).zip ts)
      if t.grouped ∧ p ≤ t.rows then
        foldOver (fun (c : CoreSt) g =>
          if t.kext < span * j + g * t.g then c
          else
            let sc := BitVec.ofNat 8 (t.scaleCode rd p (span * j + g * t.g))
            { c with aSide := Assoc.put 0 c.aSide (aSideKey slot p g) sc })
          c (List.range (span / t.g))
      else c) c (List.range 16)

/-- Lines `j` of each engine's bytes form one issue group of a weight load (R216, R218). -/
def weightGroups (ranges : Nat → List (Nat × Nat)) : List (List Nat) :=
  let ls := (List.range 16).map (fun e => dedupNat ((ranges e).flatMap (fun r => linesOf r.1 r.2)))
  let most := foldOver (fun m l => max m l.length) 0 ls
  (List.range most).map (fun i => ls.filterMap (fun l => l[i]?))

/-- The bytes that engine `e` receives of a dense operand's chunk `j`. -/
def Td.engineRanges (t : Td) (j e : Nat) : List (Nat × Nat) :=
  if t.kext < 256 * j ∨ t.rows < 128 * e then []
  else t.winRanges (128 * e) (min 128 (t.mdim - 128 * e)) (256 * j) (min (256 * j + 255) t.kext)

/-- Whether an issued, unretired array product names one of the slots (R219). -/
def CoreSt.slotsBusy (c : CoreSt) (w a : BitVec 16) : Bool :=
  c.queue.any (fun q => q.issued && (decide (q.wSlots &&& w ≠ 0) || decide (q.aSlots &&& a ≠ 0)))

/-- The data bytes that engine `e` receives of a compressed operand's chunk `j`, scales included; a transposed F24T operand
has none of its own, because its codes reach the Quadrille row by stored row (R149). -/
def Td.sparseEngine (t : Td) (peek : Nat → Byte) (j e : Nat) : List (Nat × Nat) :=
  if t.rows < 128 * e then []
  else if t.is24 then
    if t.strips ≤ j ∨ t.trans = true then []
    else if t.grouped then t.winRanges (128 * e) (min 128 (t.mdim - 128 * e)) (512 * j) (min (512 * j + 511) t.kext)
    else (List.range (min 128 (t.mdim - 128 * e))).map (fun r =>
      (t.base + ((128 * e + r) * t.strips + j) * (32 * t.width), 32 * t.width))
  else
    match t.fbIndex e j with
    | none => []
    | some i =>
      (t.fbRec peek i + 64 * t.fbHead, 64 * (t.fbLines (t.fbCount peek i) - t.fbHead)) ::
        (if t.grouped then
          (t.winBlocks (128 * e) (min 128 (t.mdim - 128 * e)) (256 * j) (min (256 * j + 255) t.kext)).map (fun b => (t.scale + 32 * b, 32))
         else [])

/-- The issue groups of a weight load: line i of every engine's bytes together; what goes to the Quadrille alone, metadata and
transposed rows, passes through the ports (R216). -/
def Td.loadGroups (t : Td) (peek : Nat → Byte) (j : Nat) (other : List (Nat × Nat)) : List (List Nat) :=
  if t.spf = 0 then weightGroups (t.engineRanges j)
  else
    weightGroups (t.sparseEngine peek j) ++
      portGroups (dedupNat ((other ++ (if t.is24 && t.trans then t.dataRanges peek j else [])).flatMap (fun r => linesOf r.1 r.2)))

/-- VLOAD of FE weights: what QPREP staged, or the rows of the operand, which are staged first (R286, R296). -/
def vloadEntries (x : Ctx) (t : Td) (slot j : Nat) (s : State) : Res :=
  if (s.core x.n).quad.holds t j then .done (s.setCore x.n ((s.core x.n).fillWeights t s.readByte slot j false))
  else
    s.transfer x
      { reads := t.feRanges s.readByte (t.feAll s.readByte), writes := [], check := fun rd => t.feCheck rd (t.feAll rd) }
      (fun _ => [])
      (fun rd u =>
        let st := (t.feAll rd).map (fun e => t.feStage rd e)
        let c := u.core x.n
        let c := { c with quad :=
          { c.quad with tensor := t.tensor, spf := t.spf, base := t.base, first := 0, count := st.length,
                        rows := st.map (fun (y : FeRow × Nat) => y.1), staged := [] } }
        .done ((u.setCore x.n (c.fillWeights t rd slot j false)).quadDrops x.n (foldOver (fun (k : Nat) (y : FeRow × Nat) => k + y.2) 0 st)))

def vloadWeights (x : Ctx) (t : Td) (slot j : Nat) (s0 : State) : Res :=
  let c := s0.core x.n
  let s := s0.setCore x.n { c with wFull := c.wFull &&& ~~~(slotMask slot t.weightSlots) }
  if t.spf = 6 then vloadEntries x t slot j s
  else
    let sparse := decide (t.spf ≠ 0)
    let held := sparse && c.quad.holds t j
    let peek := overlay c.quad.staged s.readByte
    let metas := if sparse && !held then t.metaRanges peek j else []
    let reads :=
      if t.spf = 0 then (List.range 16).flatMap (fun e => t.engineRanges j e) else t.dataRanges peek j ++ metas
    let laid := fun rd => if held then overlay c.quad.staged rd else rd
    s.transfer x
      { reads := reads, writes := [], groups := some (t.loadGroups peek j metas),
        check := fun rd =>
          match (if sparse && !held then t.metaCheck rd j else none) with
          | some f => some f
          | none => t.chunkSeq (laid rd) ((if t.is24 then 512 else 256) * j) (if t.is24 then 512 else 256) t.mdim }
      (fun _ => [])
      (fun rd u =>
        let u := if sparse && !held then u.quadDrops x.n (t.metaDrops rd j) else u
        .done (u.setCore x.n ((u.core x.n).fillWeights t (laid rd) slot j (sparse && t.wholly (laid rd) j))))

def vloadActs (x : Ctx) (ts : List Td) (slot j : Nat) (passes : BitVec 2) (d512 : Bool) (s0 : State) : Res :=
  let c := s0.core x.n
  let w := match ts with | [] => 0 | t :: _ => t.width
  let s := s0.setCore x.n { c with aFull := c.aFull &&& ~~~(slotMask slot (actSlots (actPlanes w passes) d512)) }
  let span := if d512 then 512 else 256
  let reads := ts.flatMap (fun t =>
    if t.kext < span * j then [] else t.winRanges 0 (min 16 t.mdim) (span * j) (min (span * j + span - 1) t.kext))
  s.transfer x
    { reads := reads, writes := [], groups := some [],
      check := fun rd => ts.findSome? (fun t => t.chunkSeq rd (span * j) span (min 16 t.mdim)) }
    (fun _ => [])
    (fun rd u => .done (u.setCore x.n ((u.core x.n).fillActs ts rd slot j passes d512)))

def workVload (a c : BitVec 5) (kind : Bool) (slot : BitVec 4) (passes : BitVec 2) (d512 : Bool) (off : BitVec 32) : Work :=
  { opcode := 0x14, queue := .movement, sR := [c.toNat],
    tds := if kind then (List.range (passCount passes)).map (fun p => (a.toNat + p) % 32) else [a.toNat],
    reserved := decide (passes = 3),
    illegal := fun x _ => vloadIllegal x a kind slot passes d512,
    reads := fun x =>
      if kind then (limbs x a passes).flatMap Td.bounds
      else let t := Td.of (x.tdreg a.toNat); if t.spf = 0 then t.bounds else [],
    reqR := fun x s =>
      let t := Td.of (x.tdreg a.toNat)
      if kind ∨ t.spf = 0 then []
      else if t.spf = 6 then
        if (s.core x.n).quad.holds t 0 then [] else bounding (t.feRanges s.readByte (t.feAll s.readByte))
      else
        let j := chunkIndex x c off
        bounding (t.dataRanges s.readByte j) ++ (if (s.core x.n).quad.holds t j then [] else bounding (t.metaRanges s.readByte j)),
    issue := fun x s =>
      let t := Td.of (x.tdreg a.toNat)
      let m := if kind then slotMask slot.toNat (actSlots (actPlanes t.width passes) d512)
               else slotMask slot.toNat t.weightSlots
      if (s.core x.n).slotsBusy (if kind then 0 else m) (if kind then m else 0) then
        .wait s { iaddr := x.iaddr, opcode := x.opcode, since := s.hclk, aux := 0, timed := false }
      else .done s,
    run := fun x s =>
      let j := chunkIndex x c off
      let t := Td.of (x.tdreg a.toNat)
      if kind then vloadActs x (limbs x a passes) slot.toNat j passes d512 s
      else vloadWeights x t slot.toNat j s }

/-- VLOAD fills Vitrine slots of all 16 engines; it starts once no issued product names them (R219, R286 to R288). -/
def execVload (h : NHdr) (a c : BitVec 5) (kind : Bool) (slot : BitVec 4) (passes : BitVec 2) (d512 : Bool)
    (off : BitVec 32) (s : State) : Host.Outcome State Fault Refusal :=
  (workVload a c kind slot passes d512 off).meets h (.vload h a c kind slot passes d512 off) s

end Sys2Proof.Machine
end

