-- ==== Sys2Proof/Machine/Array.lean ====
section
/-! DEFINITION. The array instructions and what happens inside them (03_bit_serial_engine R51 to R84; 04_dot_product R86
to R108; 09_nupor_model R256 to R258; 10_nupor_reference R289 to R291). A product stays in the array queue while its
chunks enter the ACM. -/

namespace Sys2Proof.Machine

/-! Operands. -/

def isFloat (f : ArrayFields) : Bool := f.mode == 1
def isBinary (f : ArrayFields) : Bool := f.mode == 2
def is24 (f : ArrayFields) : Bool := f.sparse == 1

/-- Units that a tile names (R99). -/
def tileUnits (float : Bool) (tile : Nat) : List Nat :=
  if float then (List.range 8).map (fun i => 8 * (tile % 4) + i) else [tile % 32]
def unitMask (l : List Nat) : BitVec 32 := foldOver (fun m u => m ||| BitVec.ofNat 32 (2 ^ u)) 0 l

def arrW (f : ArrayFields) (x : Ctx) : Td := Td.of (x.tdreg f.tdw.toNat)
def arrA (f : ArrayFields) (x : Ctx) : Td := Td.of (x.tdreg f.tda.toNat)
def arrG (f : ArrayFields) : Nat := groupLen f.g.toNat

/-- Planes of the activation operand, wa' of R51. -/
def arrPlanes (f : ArrayFields) (x : Ctx) : Nat := actPlanes (arrA f x).width f.passes

/-- Elements of K that a chunk covers, and the chunks of the instruction (R257). -/
def arrSpan (f : ArrayFields) : Nat := if is24 f then 512 else 256
def arrNch (f : ArrayFields) (x : Ctx) : Nat := ceilDiv (arrW f x).kdim (arrSpan f)

/-- Slots from one chunk's first weight slot to the next's, and those that a chunk occupies (R257). -/
def arrStep (f : ArrayFields) (ww : Nat) : Nat := if is24 f then (ww + 3) / 2 * 2 else ww
def arrUse (f : ArrayFields) (ww : Nat) : Nat := if is24 f then ww + 2 else ww
def arrActUse (f : ArrayFields) (x : Ctx) : Nat := actSlots (arrPlanes f x) (is24 f)

/-- First weight slot and first activation slot of chunk `j`. -/
def arrSlotW (f : ArrayFields) (x : Ctx) (j : Nat) : Nat := f.vw.toNat + j * arrStep f (arrW f x).width
def arrSlotA (f : ArrayFields) (x : Ctx) (j : Nat) : Nat := f.va.toNat + j * arrActUse f x

def arrSlots (f : ArrayFields) (x : Ctx) : BitVec 16 × BitVec 16 :=
  let n := min (arrNch f x) 17
  (foldOver (fun m j => m ||| slotMask (arrSlotW f x j) (arrUse f (arrW f x).width)) 0 (List.range n),
   foldOver (fun m j => m ||| slotMask (arrSlotA f x j) (arrActUse f x)) 0 (List.range n))

def intFmt (t : Td) : Bool := t.fm.isInt

/-- R57 and the opcode rule of R258. -/
def arrCombo (op : Nat) (f : ArrayFields) (x : Ctx) : Bool :=
  let w := arrW f x
  let a := arrA f x
  let fields := (w.gov || decide (f.ww.toNat + 1 = w.width)) && (a.gov || decide (f.wa.toNat + 1 = a.width))
  let passes := decide (f.passes = 0) || (decide (a.width = 8) && limbsOk (limbs x f.tda f.passes))
  let forms := if isBinary f then decide (w.fm = .xb1 ∧ a.fm = .xb1 ∧ f.passes = 0) && !(is24 f)
    else intFmt w && intFmt a && decide (w.width ≤ 8 ∧ a.width ≤ 8)
  let two := !(is24 f) || (decide (2 ≤ w.width ∧ 2 ≤ a.width ∧ f.passes = 0) && (!(isFloat f) || decide (f.g ≠ 0)))
  let shape := (!(isFloat f) || decide (w.spf ≠ 2 ∧ w.spf ≠ 6)) && (!(isBinary f) || decide (w.spf ≠ 6))
  let code := match op with
    | 0x33 => isBinary f
    | 0x32 => true
    | _ => !(isBinary f)
  fields && passes && forms && two && shape && code

/-- R87 and the float-group part of R258. -/
def arrScales (f : ArrayFields) (x : Ctx) : Bool :=
  let ls := limbs x f.tda f.passes
  if isFloat f then
    (arrW f x).grouped && decide ((arrW f x).gsize = f.g.toNat) &&
      ls.all (fun t => t.grouped && decide (t.gsize = f.g.toNat))
  else !((arrW f x).grouped) && ls.all (fun t => !(t.grouped))

/-- SPARSE against the SPF codes (R143, R258). -/
def arrSpf (f : ArrayFields) (x : Ctx) : Bool :=
  let w := (arrW f x).spf
  (match f.sparse.toNat with
   | 0 => decide (w = 0 ∨ w = 6)
   | 1 => decide (w = 1 ∨ w = 2)
   | _ => decide (3 ≤ w ∧ w ≤ 5)) && (limbs x f.tda f.passes).all (fun t => t.spf == 0)

/-- Slots within 0 to 15 (R257). -/
def arrSlotsOk (f : ArrayFields) (x : Ctx) : Bool :=
  let n := arrNch f x
  decide (arrSlotW f x (n - 1) + arrUse f (arrW f x).width ≤ 16 ∧ arrSlotA f x (n - 1) + arrActUse f x ≤ 16) &&
    (!(is24 f) || decide (f.vw.toNat % 2 = 0))

/-- The causes of R258 that the operands show, in the order of R269. -/
def arrIllegal (op : Nat) (f : ArrayFields) (x : Ctx) : Option Half :=
  if !(arrCombo op f x) then some 0x0003
  else if isFloat f && decide (4 ≤ f.tile.toNat) then some 0x0004
  else if !(arrScales f x) then some 0x0005
  else if !(arrSpf f x) then some 0x0006
  else if !(arrSlotsOk f x) then some 0x0009
  else none

/-! Tile kinds (R100). -/

def kindClear : Nat := 0
def kindInt : Nat := 1
def kindFloat : Nat := 2

def State.unitKind (s : State) (n u : Nat) : Nat := s.fld (coreReg n 0xD8) (2 * u) 2
def State.setKinds (s : State) (n : Nat) (us : List Nat) (k : Nat) : State :=
  foldOver (fun t u => t.setFld (coreReg n 0xD8) (2 * u) 2 k) s us
def fstate (n f : Nat) : Nat := coreReg n (0xE0 + 8 * f)

/-- Zeroes the elements of units, 2048 words of each engine. -/
def State.clearUnits (s : State) (n : Nat) (us : List Nat) : State :=
  let c := s.core n
  s.setCore n { c with acm := Assoc.keep (fun k => !(us.contains (k % 65536 / 2048))) c.acm }

/-- Clears the state of the float tiles that hold some units: LEVELS, SPINE and CHUNKS. -/
def State.clearLevels (s : State) (n : Nat) (us : List Nat) : State :=
  foldOver (fun t f => t.rput (fstate n f) 0) s ((List.range 4).filter (fun f => us.any (fun u => u / 8 == f)))

/-- Prepares a tile for a product (R100); none when the kinds do not allow it. -/
def State.openTile (s : State) (n : Nat) (float add : Bool) (tile : Nat) : Option State :=
  let us := tileUnits float tile
  let want := if float then kindFloat else kindInt
  if !add || us.all (fun u => s.unitKind n u == kindClear) then
    let s := (s.clearUnits n us).setKinds n us want
    some (if float then s.clearLevels n us else s)
  else if us.all (fun u => s.unitKind n u == want) then some s
  else none

/-- Whether a unit of the mask is busy: an array instruction that has issued holds it until it retires (R102, R103). -/
def CoreSt.unitsBusy (c : CoreSt) (us : BitVec 32) : Bool :=
  c.queue.any (fun q => q.queue == .array && q.issued && decide (q.units &&& us ≠ 0))

/-- An array instruction that waits at its issue. -/
def waitIssue (x : Ctx) (s : State) : Res :=
  .wait s { iaddr := x.iaddr, opcode := x.opcode, since := s.hclk, aux := 0, timed := false }

/-- The ACLK that the first fill of a product costs at its issue (R59, R82): none where every weight plane is zero (R62); all of
them with the array free; where the product ahead of it is in its last chunk, as many as its last weight plane does not hide,
which the model does not time (notes/assumptions/39.md). -/
def firstFill (f : ArrayFields) (x : Ctx) (s : State) : Nat :=
  let c := s.core x.n
  let lo := if is24 f then 2 else 0
  let full := if is24 f then 24 else 8
  let planes := (List.range (arrNch f x)).flatMap (fun j => (List.range (arrW f x).width).map (fun i => arrSlotW f x j + lo + i))
  if !(c.wRow.any (fun e => planes.contains (e.1 / 2048))) then 0
  else if c.queue.any (fun q => q.queue == .array && q.issued && decide (q.chunk < q.chunks)) then
    (Config.openWord s.fresh).toNat % (full + 1)
  else full

/-- A product issues: its tile is free, its slots are FULL, its kinds agree (R103, R219, R289); its first fill counts (R59). -/
def arrIssue (f : ArrayFields) (x : Ctx) (s : State) : Res :=
  let c := s.core x.n
  let sl := arrSlots f x
  if c.unitsBusy (unitMask (tileUnits (isFloat f) f.tile.toNat)) || decide (sl.1 &&& ~~~c.wFull ≠ 0) ||
      decide (sl.2 &&& ~~~c.aFull ≠ 0) then waitIssue x s
  else
    match s.openTile x.n (isFloat f) f.acc f.tile.toNat with
    | some t => .done (t.bump (coreReg x.n 0x018) (firstFill f x s))
    | none => .fail s codeBufferSize 0x0004

/-! A chunk (R51 to R56, R61 to R70). -/

/-- One bits of a number, at most `fuel` bits, stopping at 0. -/
def countOnes : Nat → Nat → Nat
  | 0, _ => 0
  | k + 1, v => if v = 0 then 0 else v % 2 + countOnes k (v / 2)

/-- What a chunk computes with: the fields, the operands, its number and its first slots. -/
structure ChunkCtx where
  f : ArrayFields
  w : Td
  a : Td
  planes : Nat
  j : Nat
  sw : Nat
  sa : Nat
  signA : Bool

def ChunkCtx.of (f : ArrayFields) (x : Ctx) (j : Nat) : ChunkCtx :=
  { f := f, w := arrW f x, a := arrA f x, planes := arrPlanes f x, j := j, sw := arrSlotW f x j, sa := arrSlotA f x j,
    signA := match (limbs x f.tda f.passes).getLast? with | some t => t.fm.signed | none => false }

/-- The weight plane `i` of row `r` of engine `e`. -/
def ChunkCtx.wPlane (k : ChunkCtx) (c : CoreSt) (e r i : Nat) : Nat :=
  (Assoc.get 0 c.wRow (wKey (k.sw + (if is24 k.f then 2 else 0) + i) e r)).toNat

/-- The activation plane `j` of position `n`: 256 bits, or 512 under 2:4. -/
def ChunkCtx.aPlane (k : ChunkCtx) (c : CoreSt) (n j : Nat) : Nat :=
  let u := n * k.planes + j
  if is24 k.f then
    (Assoc.get 0 c.aUnit (aKey k.sa (2 * u))).toNat + (Assoc.get 0 c.aUnit (aKey k.sa (2 * u + 1))).toNat * 2 ^ 256
  else (Assoc.get 0 c.aUnit (aKey k.sa u)).toNat

/-- The position code of lane `l` of a row (R67). -/
def ChunkCtx.posCode (k : ChunkCtx) (c : CoreSt) (e r l : Nat) : Nat :=
  let key := wKey (k.sw + l / 128) e r
  bitsOf (Assoc.get 0 c.wRow key).toNat (2 * (l % 128)) 2

/-- The activation bits that the partner-select multiplexers pass to a row's lanes (R67), in the lanes where the
row's plane `p` is 1. -/
def ChunkCtx.andPlane (k : ChunkCtx) (c : CoreSt) (e r p a : Nat) : Nat :=
  if p = 0 ∨ a = 0 then 0
  else if is24 k.f then
    packBits ((List.range 256).map (fun l => bitAt p l && bitAt a (4 * (l / 2) + k.posCode c e r l)))
  else p &&& a

/-- Lanes of a slot (R55): first lane and count. -/
def ChunkCtx.slotLanes (k : ChunkCtx) (g : Nat) : Nat × Nat :=
  if isFloat k.f then
    let n := if is24 k.f then arrG k.f / 2 else arrG k.f
    (g * n, n)
  else (0, 256)

def ChunkCtx.slots (k : ChunkCtx) : Nat := if isFloat k.f then arrSpan k.f / arrG k.f else 1

/-- Valid lanes of a binary row (R66, R153). -/
def ChunkCtx.valid (k : ChunkCtx) (c : CoreSt) (e r n : Nat) : Nat :=
  if k.w.rows < 128 * e + r ∨ k.a.rows < n then 0
  else
    let lanes := min 256 (k.w.kdim - 256 * k.j)
    (2 ^ lanes - 1) &&& ((2 ^ 256 - 1) ^^^ (Assoc.get 0 c.wMask (wKey k.sw e r)).toNat)

/-- The exact slot value (R53, R54, R66). -/
def ChunkCtx.slotValue (k : ChunkCtx) (c : CoreSt) (e r n g : Nat) : Int :=
  if isBinary k.f then
    let v := k.valid c e r n
    if v = 0 then 0
    else
      let same := ((k.wPlane c e r 0) ^^^ (k.aPlane c n 0) ^^^ (2 ^ 256 - 1)) &&& v
      2 * (countOnes 256 same : Int) - (countOnes 256 v : Int)
  else
    let ln := k.slotLanes g
    foldOver (fun acc i =>
      let p := bitsOf (k.wPlane c e r i) ln.1 ln.2 * 2 ^ ln.1
      if p = 0 then acc
      else
        foldOver (fun acc j =>
          let neg := (k.w.fm.signed && decide (i + 1 = k.w.width)) != (k.signA && decide (j + 1 = k.planes))
          let t : Int := (countOnes 512 (k.andPlane c e r p (k.aPlane c n j)) : Int) * 2 ^ (i + j)
          if neg then acc - t else acc + t) acc (List.range k.planes)) 0 (List.range k.w.width)

/-- Rows (128 e + r) whose elements a chunk can change. -/
def ChunkCtx.rowsOf (k : ChunkCtx) (c : CoreSt) : List Nat :=
  let inSlots := fun (key : Nat) => decide (k.sw * 2048 ≤ key ∧ key < (k.sw + arrUse k.f k.w.width) * 2048)
  let listed := (c.wRow.filter (fun e => inSlots e.1)).map (fun e => e.1 % 2048)
  if isBinary k.f then List.range (min 2048 k.w.mdim)
  else if isFloat k.f then
    if c.aSide.any (fun e => decide (e.1 / 1024 = k.sa) && decide (e.2 = 0xFF)) then List.range 2048
    else
      let side := (c.wSide.filter (fun e => decide (e.1 / 16384 = k.sw))).map (fun e => e.1 % 16384 / 8)
      let held := (c.acm.filter (fun e => decide (e.1 % 65536 / 16384 = k.f.tile.toNat % 4))).map (fun e =>
        e.1 / 65536 * 128 + e.1 % 16384 / 128)
      foldOver (fun l x => insertNat x l) [] (listed ++ side ++ held)
  else foldOver (fun l x => insertNat x l) [] listed

/-! Time and skipping (R58 to R64). -/

/-- Whether a weight plane is zero in all 16 engines. -/
def ChunkCtx.planeZero (k : ChunkCtx) (c : CoreSt) (i : Nat) : Bool :=
  let slot := k.sw + (if is24 k.f then 2 else 0) + i
  !(c.wRow.any (fun e => decide (e.1 / 2048 = slot)))

/-- Skipped (n, j) pairs, executed weight planes. -/
def ChunkCtx.skips (k : ChunkCtx) (c : CoreSt) : Nat × Nat :=
  if isBinary k.f then (0, 1)
  else
    (foldOver (fun z n => z + ((List.range k.planes).filter (fun j => k.aPlane c n j == 0)).length) 0 (List.range 16),
     ((List.range k.w.width).filter (fun i => !(k.planeZero c i))).length)

/-- Counts a chunk's cycles: ARRAY_CYCLES, SKIP_A for every weight plane (R61), SKIP_W and the fill waits of R60 in
REFILL_STALL. -/
def State.chunkCycles (s : State) (n : Nat) (k : ChunkCtx) : State :=
  let c := s.core n
  let z := k.skips c
  let per := 16 * k.planes - z.1
  let run := z.2 * per
  let t0 := z.2 * max per 8
  let t := if is24 k.f then max t0 (16 + 8 * z.2) else t0
  let s := s.bump (coreReg n 0x000) run
  let s := s.bump (coreReg n 0x008) (if isBinary k.f then 0 else k.w.width * z.1)
  let s := s.bump (coreReg n 0x010) (if isBinary k.f then 0 else k.w.width - z.2)
  s.bump (coreReg n 0x018) (t - run)

/-! Provenance sampling (R77, R80, R84). -/

/-- A request reaches the check engine (R80): none when it is dropped. -/
def CoreSt.request (c : CoreSt) (q : CheckReq) : Option CoreSt :=
  if c.checkNow.isNone && c.checkQ.isEmpty then some { c with checkNow := some q }
  else if c.checkQ.length < 2 then some { c with checkQ := c.checkQ ++ [q] }
  else none

/-- The slot values of rows 32q to 32q + 31 of engine `e`, row by row, position by position (R77). -/
def ChunkCtx.sliceValues (k : ChunkCtx) (c : CoreSt) (e q : Nat) : List Int :=
  (List.range 32).flatMap (fun r =>
    (List.range 16).flatMap (fun n => (List.range k.slots).map (fun g => k.slotValue c e (32 * q + r) n g)))

/-- What the check engine copies of a chunk: the rows of the slice in each weight plane with their code set and masks, the
activation planes, and the slot values that the engine hands on (R78). -/
def ChunkCtx.slice (k : ChunkCtx) (c : CoreSt) (x : Ctx) (e q : Nat) : Slice :=
  let rows := fun (key : Nat) =>
    decide (k.sw * 2048 ≤ key ∧ key < (k.sw + arrUse k.f k.w.width) * 2048 ∧ key % 2048 / 128 = e ∧ key % 128 / 32 = q)
  { iaddr := x.iaddr, engine := e, quarter := q, fields := k.f, s := x.s, td := x.td, chunk := k.j,
    wRow := Assoc.keep rows c.wRow, wMask := Assoc.keep rows c.wMask,
    aUnit := Assoc.keep (fun key => decide (aKey k.sa 0 ≤ key ∧ key < aKey (k.sa + arrActUse k.f x) 0)) c.aUnit,
    slots := k.sliceValues c e q }

/-- The check engine recomputes a slice from what it has copied (R78). -/
def Slice.recompute (x : Slice) (n : Nat) : List Int :=
  (ChunkCtx.of x.fields ⟨n, x.iaddr, 0, x.s, x.td⟩ x.chunk).sliceValues { wRow := x.wRow, wMask := x.wMask, aUnit := x.aUnit }
    x.engine x.quarter

/-- Counts a chunk against the sampling period and samples it when it was drawn. -/
def State.provenance (s : State) (x : Ctx) (k : ChunkCtx) : State :=
  let n := x.n
  let c := s.core n
  let s := match c.provDraw with
    | some (ch, e, q) =>
      if ch = c.provCount then
        match c.request (.slice (k.slice c x e q)) with
        | some d => s.setCore n d
        | none => s.bumpFld (coreReg n 0xC8) 32 16 1
      else s
    | none => s
  let c := s.core n
  if c.provCount + 1 = 2 ^ c.provS then
    s.setCore n { c with provCount := 0, provDraw := none, provS := s.fld (foy 0x48) 0 5 }
  else s.setCore n { c with provCount := c.provCount + 1 }

/-! Entering (R89, R90, R92 to R96). -/

/-- The word of an integer element, and of register `i` of a float element (R99). -/
def intKey (tile row n : Nat) : Nat := row / 128 * 65536 + tile % 32 * 2048 + row % 128 * 16 + n
def floatKey (tile row n i : Nat) : Nat := row / 128 * 65536 + tile % 4 * 16384 + (row % 128 * 16 + n) * 8 + i

/-- The auxiliary field of R90. -/
def elemAux (row n : Nat) : Half := BitVec.ofNat 16 (row / 128 % 16 + row % 128 * 2 ^ 4 + n % 16 * 2 ^ 11)

/-- Adds the row sums of an integer or binary chunk; the first element that saturates (R89, R90). -/
def enterInt (k : ChunkCtx) (c : CoreSt) : Assoc Word × Option (Nat × Nat) :=
  foldOver (fun acc row =>
    foldOver (fun (acc : Assoc Word × Option (Nat × Nat)) n =>
      let key := intKey k.f.tile.toNat row n
      let r := intEnter (Assoc.get 0 acc.1 key) (k.slotValue c (row / 128) (row % 128) n 0)
      (Assoc.put 0 acc.1 key r.1,
       match acc.2 with | some x => some x | none => if r.2 then some (row, n) else none)) acc (List.range 16))
    (c.acm, none) (k.rowsOf c)

/-- A float-group chunk's running result: the ACM, flags, and the first poisoned slot (row, position, slot, weight). -/
structure FloatAcc where
  acm : Assoc Word
  flags : BitVec 11 := 0
  nan : Option (Nat × Nat × Nat × Bool) := none
  deriving DecidableEq, Repr

/-- The scale step (R93): value, flushed, and which operand was poisoned. -/
def ChunkCtx.scaleStep (k : ChunkCtx) (c : CoreSt) (row n g : Nat) : Word × Bool × Option Bool :=
  let ca := (Assoc.get 0 c.aSide (aSideKey k.sa n g)).toNat
  let cw := (Assoc.get 0 c.wSide (wSideKey k.sw (row / 128) (row % 128) g)).toNat
  if cw = 0xFF then (f32NaN, false, some true)
  else if ca = 0xFF then (f32NaN, false, some false)
  else
    let v := k.slotValue c (row / 128) (row % 128) n g
    if ca = 0 ∨ cw = 0 ∨ v = 0 then (0, false, none)
    else
      let a := xs8Mag ca
      let w := xs8Mag cw
      let f := f32Flush c.ftz (valF32 (.fin (decide (v < 0)) (v.natAbs * a.1 * w.1) (a.2 + w.2)))
      (f.1, f.2, none)

/-- One level of the chunk tree (R94). -/
def treeLevel (ftz : Bool) : List Word → List Word × Bool
  | a :: b :: t =>
    let r := f32AddF ftz a b
    let u := treeLevel ftz t
    (r.1 :: u.1, r.2.1 || u.2)
  | l => (l, false)

/-- The balanced tree over a power of two of values (R94), with at most `fuel` levels; flushed. -/
def treeSum (ftz : Bool) : Nat → List Word → Word × Bool
  | _, [] => (0, false)
  | _, [a] => (a, false)
  | 0, a :: _ => (a, false)
  | fuel + 1, l => let r := treeLevel ftz l; let u := treeSum ftz fuel r.1; (u.1, r.2 || u.2)

/-- The pairing cascade of R95 on one element from register `i` on. -/
def cascade (ftz : Bool) (levels : Nat) (spine : Bool) (key : Nat → Nat) : Nat → Nat → Word → Assoc Word → Assoc Word × Bool
  | 0, _, _, m => (m, false)
  | fuel + 1, i, x, m =>
    if i ≤ 6 then
      if bitAt levels i then
        let r := f32AddF ftz (Assoc.get 0 m (key i)) x
        let u := cascade ftz levels spine key fuel (i + 1) r.1 (Assoc.put 0 m (key i) 0)
        (u.1, r.2.1 || u.2)
      else (Assoc.put 0 m (key i) x, false)
    else if spine then
      let r := f32AddF ftz (Assoc.get 0 m (key 7)) x
      (Assoc.put 0 m (key 7) r.1, r.2.1)
    else (Assoc.put 0 m (key 7) x, false)

/-- LEVELS and SPINE after a chunk (R95). -/
def nextLevels (levels : Nat) (spine : Bool) : Nat × Bool :=
  if levels % 128 = 127 then (0, true) else (levels % 128 + 1, spine)

/-- Enters a float-group chunk (R92 to R96). -/
def enterFloat (k : ChunkCtx) (c : CoreSt) (levels : Nat) (spine : Bool) : FloatAcc :=
  foldOver (fun acc row =>
    foldOver (fun (acc : FloatAcc) n =>
      let vs := (List.range k.slots).map (fun g => k.scaleStep c row n g)
      let bad := (List.range k.slots).findSome? (fun g =>
        match vs[g]? with | some (_, _, some w) => some (row, n, g, w) | _ => none)
      let t := treeSum c.ftz 4 (vs.map (fun v => v.1))
      let u := cascade c.ftz levels spine (floatKey k.f.tile.toNat row n) 8 0 t.1 acc.acm
      let fl := vs.any (fun v => v.2.1) || t.2 || u.2
      { acm := u.1, flags := if fl then acc.flags ||| flagFlushed else acc.flags,
        nan := match acc.nan with | some x => some x | none => bad }) acc (List.range 16))
    { acm := c.acm } (k.rowsOf c)

/-- Runs chunk `j` of a product in core `x.n` and enters it into the ACM (R289). -/
def runChunk (f : ArrayFields) (x : Ctx) (j : Nat) (s : State) : Res :=
  let k := ChunkCtx.of f x j
  let c := s.core x.n
  if f.sparse = 2 ∧ c.wAbsent &&& slotMask k.sw 1 ≠ 0 then .done (s.bump (coreReg x.n 0x128) 1)
  else
    let s := (s.chunkCycles x.n k).provenance x k
    let c := s.core x.n
    if isFloat f then
      let t := f.tile.toNat % 4
      let reg := s.rget (fstate x.n t)
      let levels := fget reg 0 7
      let spine := decide (fget reg 7 1 = 1)
      let chunks := fget reg 8 32
      let r := enterFloat k c levels spine
      let nx := nextLevels levels spine
      let s := s.setCore x.n { c with acm := r.acm }
      let s := s.rput (fstate x.n t)
        (BitVec.ofNat 64 (nx.1 + (if nx.2 then 128 else 0) + min (chunks + 1) (2 ^ 32 - 1) * 256))
      let s := s.coreFlags x.n (r.flags ||| (if spine then flagLongSum else 0))
      match r.nan with
      | none => .done s
      | some (row, n, g, w) =>
        let e := k.j * arrSpan f + g * arrG f
        let s := s.nanRecord x.n x.iaddr x.opcode
          { tensor := if w then k.w.tensor else k.a.tensor, source := 1, k := chunks,
            index := if w then k.w.group row e else k.a.group n e,
            eng := row / 128, row := row % 128, pos := n, slot := g }
        if (s.core x.n).nanTrap then .fail s codeNanTrap (elemAux row n) else .done s
    else
      let r := enterInt k c
      let s := s.setCore x.n { c with acm := r.1 }
      match r.2 with
      | none => .done s
      | some (row, n) =>
        if c.intTrap then .fail s codeIntOverflow (elemAux row n) else .done (s.coreFlags x.n flagIntSat)

/-! The products. -/

def workProduct (op : Nat) (f : ArrayFields) : Work :=
  { opcode := op, queue := .array,
    tds := f.tdw.toNat :: (List.range (passCount f.passes)).map (fun p => (f.tda.toNat + p) % 32),
    reserved := decide (f.passes = 3 ∨ f.g = 3 ∨ f.mode = 3 ∨ f.sparse = 3),
    illegal := fun x _ => arrIllegal op f x,
    units := unitMask (tileUnits (isFloat f) f.tile.toNat), slots := arrSlots f, product := true, chunks := arrNch f,
    issue := arrIssue f }

/-- BSMM: dense and FE-gathered weights (R289). -/
def execBsmm (h : NHdr) (f : ArrayFields) (s : State) : Host.Outcome State Fault Refusal :=
  (workProduct 0x30 f).meets h (.bsmm h f) s

/-- BSMM2: F24 and F24T weights (R289). -/
def execBsmm2 (h : NHdr) (f : ArrayFields) (s : State) : Host.Outcome State Fault Refusal :=
  (workProduct 0x31 f).meets h (.bsmm2 h f) s

/-- BSMMB: block-sparse weights (R289). -/
def execBsmmb (h : NHdr) (f : ArrayFields) (s : State) : Host.Outcome State Fault Refusal :=
  (workProduct 0x32 f).meets h (.bsmmb h f) s

/-- BXNOR: the binary mode (R289). -/
def execBxnor (h : NHdr) (f : ArrayFields) (s : State) : Host.Outcome State Fault Refusal :=
  (workProduct 0x33 f).meets h (.bxnor h f) s

def unitList (m : BitVec 32) : List Nat := (List.range 32).filter (fun u => bitAt m.toNat u)

def workAzero (units : BitVec 32) : Work :=
  { opcode := 0x34, queue := .array, units := units,
    issue := fun x s => if (s.core x.n).unitsBusy units then waitIssue x s else .done s,
    run := fun x s =>
      let us := unitList units
      .done (((s.clearUnits x.n us).setKinds x.n us kindClear).clearLevels x.n us) }

/-- AZERO clears ACM units (R290). -/
def execAzero (h : NHdr) (units : BitVec 32) (s : State) : Host.Outcome State Fault Refusal :=
  (workAzero units).meets h (.azero h units) s

/-- The drain of R97 without O. -/
def drainElem (ftz : Bool) (levels : Nat) (spine : Bool) (get : Nat → Word) : Word :=
  let t := foldOver (fun (t : Option Word) i =>
    if bitAt levels i then
      match t with
      | none => some (get i)
      | some v => some (f32AddF ftz v (get i)).1
    else t) none (List.range 7)
  match t, spine with
  | none, false => 0
  | none, true => get 7
  | some v, false => v
  | some v, true => (f32AddF ftz (get 7) v).1

/-- The elements that ADRAIN writes: row j of the core tile, channel, position (R291). -/
def drainElems (dst : Td) (map : Nat → Nat) : List (Nat × Nat × Nat) :=
  (List.range 2048).flatMap (fun j =>
    let ch := if dst.map then map j else j
    if dst.kext < ch then [] else (List.range (min 16 dst.mdim)).map (fun n => (j, ch, n)))

/-- The word that ADRAIN writes for one element, with what O does to it. A clear tile gives +0, to which a float drain adds O as
to any other sum (R97, R100; DESIGN CHOICE, notes/assumptions/160.md). -/
def drainWord (s : State) (n : Nat) (mode : BitVec 2) (tile row pos : Nat) (o : Option Word) : Word × Bool × Bool :=
  let c := s.core n
  if mode = 1 then
    if s.unitKind n (8 * (tile % 4)) = kindClear then
      match o with
      | none => (0, false, false)
      | some v => f32AddF c.ftz 0 v
    else
      let reg := s.rget (fstate n (tile % 4))
      let r := drainElem c.ftz (fget reg 0 7) (decide (fget reg 7 1 = 1)) (fun i => Assoc.get 0 c.acm (floatKey tile row pos i))
      match o with
      | none => (r, false, false)
      | some v => f32AddF c.ftz r v
  else (Assoc.get 0 c.acm (intKey tile row pos), false, false)

/-- Whether the kinds of a tile allow an ADRAIN of this mode (R100). -/
def State.drainable (s : State) (n : Nat) (mode : BitVec 2) (tile : Nat) : Bool :=
  let us := tileUnits (mode == 1) tile
  us.all (fun u => s.unitKind n u == kindClear) ||
    us.all (fun u => s.unitKind n u == (if mode = 1 then kindFloat else kindInt))

/-- ADRAIN issues once its tile is free and of its kind (R100, R103). -/
def issueAdrain (tile : BitVec 5) (mode : BitVec 2) (x : Ctx) (s : State) : Res :=
  if (s.core x.n).unitsBusy (unitMask (tileUnits (mode == 1) tile.toNat)) then waitIssue x s
  else if s.drainable x.n mode tile.toNat then .done s
  else .fail s codeBufferSize 0x0004

/-- What an issued ADRAIN does. O is 0 beyond the extent of its tile (DESIGN CHOICE, notes/assumptions/160.md). -/
def runAdrain (a b tile : BitVec 5) (oatt : Bool) (mode : BitVec 2) (x : Ctx) (s : State) : Res :=
  let dst := Td.of (x.tdreg a.toNat)
  let ot := Td.of (x.tdreg b.toNat)
  let elems := fun (rd : Nat → Byte) => drainElems dst (mapEntry rd dst.aux)
  let place := elems s.readByte
  let writes := (dedupNat (place.map (fun e => (dst.loc e.2.2 e.2.1).1 + (dst.loc e.2.2 e.2.1).2 / 64 * 8))).map (fun p => (p, 8))
  match outOfSalon x.n (writes ++ (if dst.map then [(dst.aux, 4096)] else []) ++ (if oatt then ot.ranges else [])) with
  | some p => .fail s codeRegionBounds (kindCode p)
  | none =>
    let word := fun (rd : Nat → Byte) (e : Nat × Nat × Nat) =>
      drainWord s x.n mode tile.toNat e.1 e.2.2
        (if oatt then some (if ot.rows < e.2.2 ∨ ot.kext < e.2.1 then 0 else BitVec.ofNat 32 (ot.code rd e.2.2 e.2.1)) else none)
    s.transfer x
      { reads := (if dst.map then [(dst.aux, 4096)] else []) ++ (if oatt then ot.ranges else []), writes := writes }
      (fun rd => (elems rd).flatMap (fun e =>
        let l := dst.loc e.2.2 e.2.1
        cellsAt (l.1 + l.2 / 8) (leBytes 4 (word rd e).1.toNat)))
      (fun rd t =>
        let ws := (elems rd).map (fun e => (e, word rd e))
        let t := t.coreFlags x.n (if ws.any (fun w => w.2.2.1) then flagFlushed else 0)
        match ws.find? (fun w => w.2.2.2) with
        | none => .done t
        | some w =>
          let t := t.nanRecord x.n x.iaddr x.opcode
            { tensor := dst.tensor, source := 2, k := fget (t.rget (fstate x.n (tile.toNat % 4))) 8 32,
              eng := w.1.1 / 128, row := w.1.1 % 128, pos := w.1.2.2 }
          if (t.core x.n).nanTrap then .fail t codeNanTrap (elemAux w.1.1 w.1.2.2) else .done t)

def workAdrain (a b tile : BitVec 5) (oatt : Bool) (mode : BitVec 2) : Work :=
  { opcode := 0x35, queue := .array, tds := if oatt then [a.toNat, b.toNat] else [a.toNat],
    reserved := decide (mode = 3),
    illegal := fun x _ =>
      let dst := Td.of (x.tdreg a.toNat)
      let ot := Td.of (x.tdreg b.toNat)
      if (oatt && decide (mode ≠ 1)) || decide (dst.fmt ≠ 0x24) || (oatt && decide (ot.fmt ≠ 0x24)) then some 0x0003
      else if mode = 1 ∧ 4 ≤ tile.toNat then some 0x0004
      else none,
    units := unitMask (tileUnits (mode == 1) tile.toNat),
    reads := fun x =>
      let dst := Td.of (x.tdreg a.toNat)
      (if dst.map then [(dst.aux, 4096)] else []) ++ (if oatt then (Td.of (x.tdreg b.toNat)).bounds else []),
    writes := fun x => (Td.of (x.tdreg a.toNat)).bounds,
    issue := issueAdrain tile mode, run := runAdrain a b tile oatt mode }

/-- ADRAIN writes a tile's raw sums into the Salon (R97, R291). -/
def execAdrain (h : NHdr) (a b tile : BitVec 5) (oatt : Bool) (mode : BitVec 2) (s : State) :
    Host.Outcome State Fault Refusal :=
  (workAdrain a b tile oatt mode).meets h (.adrain h a b tile oatt mode) s

/-! Events inside the array. -/

/-- The fields of a product in the array queue. -/
def productOf : Instr → Option (Nat × ArrayFields)
  | .bsmm _ f => some (0x30, f)
  | .bsmm2 _ f => some (0x31, f)
  | .bsmmb _ f => some (0x32, f)
  | .bxnor _ f => some (0x33, f)
  | _ => none

def QEntry.ctx (q : QEntry) (n op : Nat) : Ctx := ⟨n, q.iaddr, op, q.s, q.td⟩

/-- Replaces the first queue entry that satisfies `p`. -/
def replaceFirst (p : QEntry → Bool) (g : QEntry → List QEntry) : List QEntry → List QEntry
  | [] => []
  | q :: t => if p q then g q ++ t else q :: replaceFirst p g t

/-- The issue of an array instruction of a queue entry. -/
def arrayIssue (n : Nat) (q : QEntry) (s : State) : Res :=
  match q.instr with
  | .azero _ units => (workAzero units).issue (q.ctx n 0x34) s
  | .adrain _ a b tile oatt mode => (workAdrain a b tile oatt mode).issue (q.ctx n 0x35) s
  | i =>
    match productOf i with
    | some (op, f) => arrIssue f (q.ctx n op) s
    | none => .done s

/-- Issues the waiting entries of the array queue in program order, until one has to wait (R103): a product not before the last
chunk of the product ahead of it. `seen` holds the entries passed. -/
def State.issueFrom (n : Nat) : List QEntry → List QEntry → State → State
  | seen, [], s => let c := s.core n; s.setCore n { c with queue := seen }
  | seen, q :: rest, s =>
    let keep := fun (t : State) => let c := t.core n; t.setCore n { c with queue := seen ++ q :: rest }
    if q.queue != .array || q.issued then State.issueFrom n (seen ++ [q]) rest s
    else if (productOf q.instr).isSome && seen.any (fun e => decide (e.chunk + 1 < e.chunks)) then keep s
    else
      match arrayIssue n q (keep s) with
      | .done t => State.issueFrom n (seen ++ [{ q with issued := true }]) rest t.draw
      | .wait t _ => t
      | .fail t code aux => t.coreFault n q.iaddr code aux

def State.issueAll (s : State) (n : Nat) : State :=
  if (s.core n).queue.any (fun q => q.queue == .array && !q.issued) then State.issueFrom n [] (s.core n).queue s else s

/-- An issued product with chunks left. -/
def QEntry.computing (q : QEntry) : Bool := q.issued && decide (q.chunk < q.chunks)

/-- Issues what can issue, and runs the next chunk of the first issued product that has one left (R88, R103). -/
def State.chunkStep (s : State) (n : Nat) : State :=
  let s := s.issueAll n
  let c := s.core n
  if c.stopped then s
  else
    match c.queue.find? QEntry.computing with
    | none => s
    | some q =>
      match productOf q.instr with
      | none => s
      | some (op, f) =>
        match runChunk f (q.ctx n op) q.chunk s with
        | .done u =>
          let c := u.core n
          (u.setCore n { c with
            queue := replaceFirst QEntry.computing (fun r => [{ r with chunk := r.chunk + 1 }]) c.queue }).issueAll n
        | .wait u _ => u
        | .fail u code aux => u.coreFault n q.iaddr code aux

/-- CHUNK_ENTER: the next chunk of the core's array product enters its ACM tile (R88, R92 to R96, R289). -/
def execChunkEnter (core : Fin 256) (s : State) : Host.Outcome State Fault Refusal :=
  .next (if (s.core core.val).stopped then s else s.chunkStep core.val)

/-- ARRAY_RETIRE: a product whose last chunk has entered retires and frees its tile (R102). -/
def execArrayRetire (core : Fin 256) (s : State) : Host.Outcome State Fault Refusal :=
  let n := core.val
  let c := s.core n
  let fin := fun (q : QEntry) => q.issued && (productOf q.instr).isSome && decide (q.chunks ≤ q.chunk)
  if c.stopped || !(c.queue.any fin) then .next s
  else .next (((s.setCore n { c with queue := replaceFirst fin (fun _ => []) c.queue }).issueAll n).tryHalt n)

/-- How often each engine failed, from the list of those that did. -/
def timesOf (engines : List (Fin 16)) (fails : List Nat) : List Nat :=
  (List.range 16).map (fun e => (((engines.zip fails).find? (fun x => x.1.val == e)).map (fun x => x.2)).getD 0)

/-- TIMING_ERROR_REPLAY: the named engines fail the plane pair that executes as often running as `fails` says of each. Each failure but a fourth is
replayed; the core holds for 2 ACLK while any engine replays. A fourth raises TIMING_REPLAY_LIMIT and fences the core (R73, R74);
of several engines the lowest is named (DESIGN CHOICE, notes/assumptions/161.md). -/
def execTimingErrorReplay (core : Fin 256) (engines : List (Fin 16)) (fails : List Nat) (s : State) : Host.Outcome State Fault Refusal :=
  let n := core.val
  let s := s.issueAll n
  let c := s.core n
  let es := (List.range 16).zip (timesOf engines fails)
  match c.queue.find? QEntry.computing with
  | none => .next s
  | some q =>
    if c.stopped || es.all (fun e => e.2 == 0) then .next s
    else
      let rounds := min 3 (foldOver (fun m (e : Nat × Nat) => max m e.2) 0 es)
      let s := foldOver (fun t (e : Nat × Nat) => t.bump (coreReg n (0x40 + 8 * e.1)) (min 3 e.2)) s es
      let s := (s.bump (coreReg n 0x020) (2 * rounds)).bump (coreReg n 0x000) (2 * rounds)
      let s := s.coreFlags n flagReplay
      match es.find? (fun e => decide (4 ≤ e.2)) with
      | some e =>
        let aux := BitVec.ofNat 16 e.1
        .next ((s.coreFault n q.iaddr codeReplayLimit aux).beginRecovery (.core core) codeReplayLimit aux)
      | none => .next s

/-- PROVENANCE_SAMPLE_DRAW: at the start of a period the core draws a chunk, an engine and a quarter (R77). -/
def execProvenanceSampleDraw (core : Fin 256) (chunk : Nat) (engine : Fin 16) (quarter : Fin 4) (s : State) :
    Host.Outcome State Fault Refusal :=
  let c := s.core core.val
  if c.provCount = 0 ∧ c.provDraw = none ∧ chunk < 2 ^ c.provS then
    .next (s.setCore core.val { c with provDraw := some (chunk, engine.val, quarter.val) })
  else .next s

/-- The check engine takes its next request (R80). -/
def CoreSt.nextCheck (c : CoreSt) : CoreSt :=
  match c.checkQ with
  | [] => { c with checkNow := none }
  | q :: t => { c with checkNow := some q, checkQ := t }

/-- Position of a slot among the values of a slice of `g` slots per element. -/
def sliceIndex (g : Nat) (d : Fin 32 × Fin 16 × Fin 8) : Nat := (d.1.val * 16 + d.2.1.val) * g + d.2.2.val

/-- The slots of a slice as the engine handed them on, with the bits that an error of the hardware has changed. -/
def Slice.handed (x : Slice) (errors : List (Fin 32 × Fin 16 × Fin 8)) : List Int :=
  let g := x.slots.length / 512
  let bad := (errors.filter (fun d => decide (d.2.2.val < g))).map (sliceIndex g)
  ((List.range x.slots.length).zip x.slots).map (fun v => if bad.contains v.1 then v.2 + 1 else v.2)

/-- CHECK_SLICE_COMPARE: the check engine has recomputed the slice in service and compares it slot by slot with what the engine
handed on (R78, R79). `errors` are the slots that an error of the hardware changed on the way: the model's engines make none. -/
def execCheckSliceCompare (core : Fin 256) (errors : List (Fin 32 × Fin 16 × Fin 8)) (s : State) :
    Host.Outcome State Fault Refusal :=
  let n := core.val
  let c := s.core n
  match c.checkNow with
  | some (.slice x) =>
    let s := (s.setCore n c.nextCheck).bumpFld (coreReg n 0xC8) 0 32 1
    let pairs := (x.handed errors).zip (x.recompute n)
    match (List.range pairs.length).find? (fun i => match pairs[i]? with | some p => p.1 != p.2 | none => false) with
    | none => .next (s.tryHalt n)
    | some i =>
      let g := x.slots.length / 512
      let aux := BitVec.ofNat 16 (x.engine % 32 + x.quarter % 4 * 32)
      let s := s.postFault codeProvenance 3 n c.job x.iaddr (BitVec.ofNat 16 n) aux 1
        [BitVec.ofNat 64 (32 * x.quarter + i / (16 * g)), BitVec.ofNat 64 (i / g % 16), BitVec.ofNat 64 (i % g)]
      .next ((s.coreFault n x.iaddr codeProvenance aux).beginRecovery (.core core) codeProvenance aux)
  | _ => .next s

/-- The fused floor of a divider code: a slower divider never has a smaller one than a faster one (R82, R85). -/
def fusedFloor (adiv : Nat) : Nat :=
  let fuses := [Config.floorDiv4, Config.floorDiv5, Config.floorDiv6, Config.floorDiv8].take (adiv + 1)
  foldOver (fun m f => max m f.toNat) 0 fuses

/-- VOLTAGE_LOOP_WINDOW: the 1 ms window of a core's voltage loop ends (R75, R459). All 16 engines execute together, so c is the
change of CORE.ARRAY_CYCLES, replays included, for each of them (DESIGN CHOICE, notes/assumptions/162.md). -/
def execVoltageLoopWindow (core : Fin 256) (s : State) : Host.Outcome State Fault Refusal :=
  let n := core.val
  let c := s.core n
  let cyc := s.fld (coreReg n 0x000) 0 48
  let cw := (cyc + 2 ^ 48 - Assoc.get 0 c.winC 0) % 2 ^ 48
  let reps := (List.range 16).map (fun e => (s.fld (coreReg n (0x40 + 8 * e)) 0 48 + 2 ^ 48 - Assoc.get 0 c.winN e) % 2 ^ 48)
  let marks := foldOver (fun m e => Assoc.put 0 m e (s.fld (coreReg n (0x40 + 8 * e)) 0 48)) [] (List.range 16)
  let step := s.fld (coreReg n 0xC0) 0 6
  let s := s.setCore n { c with winC := Assoc.put 0 [] 0 cyc, winN := marks, winDiv := false }
  let moved := fun (t : State) => t.post 0x1001 3 n 0 [BitVec.ofNat 64 (t.fld (coreReg n 0xC0) 0 6)]
  if c.winDiv then .next s
  else if reps.any (fun r => decide (cw < r * 1000)) then
    if step = 0 then .next s
    else .next (moved ((s.setFld (coreReg n 0xC0) 0 6 (step - 1)).bumpFld (coreReg n 0xC0) 16 16 1))
  else if 100000 ≤ cw ∧ reps.all (fun r => decide (r * 100000 < cw)) = true then
    if fusedFloor (s.fld (foy 0x600) 0 2) ≤ step then .next s
    else .next (moved ((s.setFld (coreReg n 0xC0) 0 6 (step + 1)).bumpFld (coreReg n 0xC0) 32 16 1))
  else .next s

end Sys2Proof.Machine
end

