-- ==== Sys2Proof/Machine/Catalogue.lean ====
section
/-! DEFINITION. The Catalogue's operations and the atomic add (04_dot_product R111; 07_docent_catalogue R193 to R201). -/

namespace Sys2Proof.Machine

/-- What an addition gave beside its result: int32 saturation, or a NaN produced from operands that are not NaN. -/
structure AddFlags where
  sat : Bool := false
  nan : Bool := false
  deriving DecidableEq, Repr

/-- m + x (R89, R111). -/
def typedAdd (isF32 ftz : Bool) (m x : Word) : Word × AddFlags :=
  if isF32 then let r := f32AddF ftz m x; (r.1, { nan := r.2.2 })
  else let r := intEnter m x.toInt; (r.1, { sat := r.2 })

/-- An atomic add at a Gallery or HBM address (R111). -/
def State.atomicAdd (s : State) (a : Nat) (isF32 ftz : Bool) (x : Word) : State × AddFlags :=
  let old := BitVec.ofNat 32 (leNat (s.readBytes a 4))
  let r := typedAdd isF32 ftz old x
  (s.writeCells (cellsAt a (leBytes 4 r.1.toNat)), r.2)

/-- The registration of a tensor in Hall `h` for a job (R193). -/
def State.catReg (s : State) (h t : Nat) (job : Half) : Option CatReg :=
  (s.hall h).regs.find? (fun r => r.tensor == t && r.job == job)

/-- The set of a key (R195). -/
def catSet (t i : Nat) : Nat :=
  Nat.xor (Nat.xor (i % 4096) (i / 2 ^ 12 % 4096)) (Nat.xor (i / 2 ^ 24 % 4096) (t * 0x9E5 % 4096))

def State.setCat (s : State) (h set : Nat) (l : List CatEntry) : State :=
  let x := s.hall h
  s.setHall h { x with cat := Assoc.put [] x.cat set l }

/-- Adds an entry's value into its own Annex (R196, R197). -/
def State.spill (s : State) (h : Nat) (ftz : Bool) (e : CatEntry) : State × AddFlags :=
  match (s.hall h).regs.find? (fun r => r.tensor == e.tensor) with
  | some r => s.atomicAdd (r.base + 4 * e.idx) e.isF32 ftz e.val
  | none => (s, {})

def AddFlags.or (a b : AddFlags) : AddFlags := { sat := a.sat || b.sat, nan := a.nan || b.nan }

/-- A valid entry that satisfies `p`. -/
def catLive (p : CatEntry → Bool) (e : CatEntry) : Bool := e.quar == 0 && p e

/-- catadd of R196 on a registered key, the entries of a set kept with the most recently used way first. A set whose eight ways are
all in quarantine takes no entry: the value goes into its Annex (DESIGN CHOICE, notes/assumptions/166.md). -/
def State.catAdd (s : State) (h : Nat) (isF32 ftz : Bool) (t i : Nat) (x : Word) : State × AddFlags :=
  let set := catSet t i
  let l := Assoc.get [] (s.hall h).cat set
  let mine := catLive (fun e => e.tensor == t && e.idx == i)
  match l.find? mine with
  | some e =>
    let r := typedAdd e.isF32 ftz e.val x
    ((s.setCat h set ({ e with val := r.1 } :: l.filter (fun e => !(mine e)))).bump (hallCat h 0x08) 1, r.2)
  | none =>
    let live := l.filter (catLive (fun _ => true))
    let fresh : CatEntry := { tensor := t, idx := i, val := x, isF32 := isF32 }
    let victim := if l.length < 8 then none else if live.isEmpty then some fresh else live.getLast?
    let r := match victim with
      | some e => let q := s.spill h ftz e; (q.1.bump (hallCat h 0x18) 1, q.2)
      | none => (s, {})
    let keep := match victim with
      | some e => if live.isEmpty then l else fresh :: l.erase e
      | none => fresh :: l
    let s := (r.1.setCat h set keep).bump (hallCat h 0x10) 1
    (if victim.isSome then s else s.bumpFld (hallCat h 0x00) 0 16 1, r.2)

/-- What becomes of invalidated entries: their ways are free, or in quarantine under the handle `q` of an ending job (R201). -/
def catLeft (p : CatEntry → Bool) (q : Nat) (l : List CatEntry) : List CatEntry :=
  l.filter (fun e => !(catLive p e)) ++ (if q = 0 then [] else (l.filter (catLive p)).map (fun e => { e with quar := q }))

/-- Spills the entries of one set that satisfy `p`, as CATFLUSH and a completing job do (R199, R201). -/
def State.flushSet (s : State) (h set : Nat) (ftz : Bool) (p : CatEntry → Bool) (q : Nat) : State × AddFlags :=
  let l := Assoc.get [] (s.hall h).cat set
  let out := l.filter (catLive p)
  let r := foldOver (fun (a : State × AddFlags) e => let q := a.1.spill h ftz e; (q.1, a.2.or q.2)) (s, {}) out
  if out.isEmpty then (s, {})
  else
    let s := r.1.setCat h set (catLeft p q l)
    let s := s.bump (hallCat h 0x20) out.length
    (s.setFld (hallCat h 0x00) 0 16 (s.fld (hallCat h 0x00) 0 16 - out.length), r.2)

/-- The sweep of all sets in ascending order. -/
def State.flush (s : State) (h : Nat) (ftz : Bool) (p : CatEntry → Bool) (q : Nat) : State × AddFlags :=
  foldOver (fun (a : State × AddFlags) (e : Nat × List CatEntry) =>
    let r := a.1.flushSet h e.1 ftz p q; (r.1, a.2.or r.2)) (s, {}) (s.hall h).cat

/-- Invalidates entries without a spill (R201). -/
def State.discard (s : State) (h : Nat) (p : CatEntry → Bool) (q : Nat) : State :=
  let x := s.hall h
  let n := foldOver (fun n (e : Nat × List CatEntry) => n + (e.2.filter (catLive p)).length) 0 x.cat
  let cat := (x.cat.map (fun e => (e.1, catLeft p q e.2))).filter (fun e => !e.2.isEmpty)
  let s := (s.setHall h { x with cat := cat }).bump (hallCat h 0x28) n
  s.setFld (hallCat h 0x00) 0 16 (s.fld (hallCat h 0x00) 0 16 - n)

/-- The scrub of an ended job frees its ways (R201). -/
def State.scrubCat (s : State) (h q : Nat) : State :=
  let x := s.hall h
  s.setHall h { x with cat := (x.cat.map (fun e => (e.1, e.2.filter (fun y => y.quar != q)))).filter (fun e => !e.2.isEmpty) }

/-- What an addition that a core issued does to its job: INT_SAT or INT_OVERFLOW (R89), NAN_SEEN and its trap record
or NAN_TRAP (R106). -/
def State.addOutcome (s : State) (x : Ctx) (tensor : Nat) (f : AddFlags) : Res :=
  let c := s.core x.n
  if f.sat && c.intTrap then .fail s codeIntOverflow 0
  else
    let s := if f.sat then s.coreFlags x.n flagIntSat else s
    if f.nan then
      let s := s.nanRecord x.n x.iaddr x.opcode { tensor := tensor, source := 2 }
      if c.nanTrap then .fail s codeNanTrap 0 else .done s
    else .done s

end Sys2Proof.Machine
end

