-- ==== Sys2Proof/Machine/Courier.lean ====
section
/-! DEFINITION. The Courier and the loan windows (13_tabey_links R379 to R396): routing and sending packets, the owner's
checks and landing, ordered contexts, completions, resends and failures. -/

namespace Sys2Proof.Machine

/-! Routes and peer sets (R379, R380, R397). -/

def State.node (s : State) : Nat := s.fld (foy 0x0100) 0 12
def State.assigned (s : State) : Bool := decide (s.fld (foy 0x0100) 12 1 = 1)
def State.linkState (s : State) (l : Nat) : Nat := s.fld (linkReg l 0) 0 3
def State.linkUp (s : State) (l : Nat) : Bool := s.linkState l == 5

/-- A device number that means this device. -/
def State.isSelf (s : State) (d : Nat) : Bool := s.assigned && s.node == d

/-- The first usable choice of the entry for `d` among choices `from_` to 3: its number and its link (R380). -/
def State.route (s : State) (d from_ : Nat) : Option (Nat × Nat) :=
  let e := (s.rget (routeEntry d 0)).toNat
  if bitAt e 31 then
    ((List.range 4).filter (fun k => decide (from_ ≤ k) && bitAt e (8 * k + 5) && s.linkUp (bitsOf e (8 * k) 5))).head?.map
      (fun k => (k, bitsOf e (8 * k) 5))
  else none

/-- The VALID peer-set entry of an ID. -/
def State.peerSet (s : State) (id : Word) : Option Nat :=
  (List.range 64).find? (fun n => decide (s.fld (peerEntry n 0) 32 1 = 1 ∧ s.fld (peerEntry n 0) 0 32 = id.toNat))
def State.peerMember (s : State) (n d : Nat) : Bool := bitAt (s.rget (peerEntry n (512 + d / 64 * 8))).toNat (d % 64)
def State.lastEpoch (s : State) (n : Nat) : Nat := s.fld (peerEntry n 8) 0 32

/-! The links' virtual channels (R374 to R376, R426). -/

/-- The virtual channel of a packet: 0 requests, 1 responses, 2 control (R376). -/
def vcOf (p : PktHdr) : Nat :=
  match p.type.toNat with
  | 0 => 0
  | 1 => 0
  | 3 => 0
  | 4 => 0
  | 2 => 1
  | 5 => 1
  | _ => 2

/-- The class code of a packet that has crossed HOPS links: 8 classes of VC0, 8 of VC1, one of VC2 (DESIGN CHOICE of the code,
notes/assumptions/163.md). -/
def classOf (p : PktHdr) : Nat := if vcOf p = 2 then 16 else 8 * vcOf p + p.hops.toNat % 8

/-- Flits of receive buffer of a class (R376). -/
def classFlits (cls : Nat) : Nat := if cls = 16 then 128 else 96

/-- Flits of a packet of `n` data bytes behind its header (R374). -/
def flitsOf (n : Nat) : Nat := ceilDiv (32 + n) 232

/-- VC2 flits that a link may send in every 100 µs: 1 % of 156,250 (R374, R426). -/
def controlLimit : Nat := 1562

/-- The VC2 flits that a link has sent in the last 100 µs. -/
def LinkSt.recent (x : LinkSt) (now : Nat) : Nat :=
  foldOver (fun n (e : Nat × Nat) => if now < e.1 + 60000 then n + e.2 else n) 0 x.control

/-- Whether a link may transmit a packet now: credits for all of its flits in its class, room in the replay buffer, and for VC2
its share of the link (R375, R376, R426). -/
def LinkSt.ready (x : LinkSt) (now : Nat) (p : PktHdr) (len : Nat) : Bool :=
  decide (Assoc.get 0 x.spent (classOf p) + flitsOf len ≤ classFlits (classOf p) ∧ x.replay.length + flitsOf len ≤ 1024) &&
    (decide (vcOf p ≠ 2) || decide (x.recent now + flitsOf len ≤ controlLimit))

/-- Flits leave a link's receive buffer: their credits return in the next flit's header (R374, R376). -/
def State.giveCredit (s : State) (held : Option (Nat × Nat)) (len : Nat) : State :=
  match held with
  | some (l, cls) => s.give (.credit l cls (flitsOf len))
  | none => s

/-- Transmits a packet: its bytes follow those of the packet before it in the same payload when both are sent at one moment, its
flits take the next FSEQ and enter the replay buffer, and it uses credits (R374 to R376; notes/assumptions/104.md). -/
def State.transmit (s : State) (l : Nat) (w : WaitPkt) : State :=
  let x := s.link l
  let used := if x.fillAt = s.hclk then x.fill else 0
  let total := used + 32 + w.data.length
  let n := ceilDiv total 232 - ceilDiv used 232
  let s := s.setLink l { x with
    txNext := x.txNext + BitVec.ofNat 16 n
    replay := x.replay ++ (List.range n).map (fun i => x.txNext + BitVec.ofNat 16 i)
    fillAt := s.hclk
    fill := total % 232
    spent := Assoc.modify 0 x.spent (classOf w.hdr) (fun k => k + flitsOf w.data.length)
    control := if vcOf w.hdr = 2 then
        x.control.filter (fun e => decide (s.hclk < e.1 + 60000)) ++ [(s.hclk, flitsOf w.data.length)]
      else x.control }
  ((s.bump (linkReg l 0x30) n).give (.packet l w.hdr w.data)).giveCredit w.held w.data.length

/-- Sends a packet over a link; it waits behind the packets of its class, and for credits (R376, R426). -/
def State.linkQueue (s : State) (l : Nat) (w : WaitPkt) : State :=
  let x := s.link l
  if x.waiting.any (fun v => classOf v.hdr == classOf w.hdr) || !(x.ready s.hclk w.hdr w.data.length) then
    s.setLink l { x with waiting := x.waiting ++ [w] }
  else s.transmit l w

/-- Sends a packet of this device over a link. -/
def State.linkSend (s : State) (l : Nat) (p : PktHdr) (data : List Byte) : State := s.linkQueue l ⟨p, data, none⟩

/-- Transmits the waiting packets that can go now, each class in order. -/
def State.linkPump (s : State) (l : Nat) : State :=
  let ws := (s.link l).waiting
  foldOver (fun t w => t.linkQueue l w) (s.setLink l { s.link l with waiting := [] }) ws

/-! Windows (R393). -/

def handleOf (w : Window) : Half := BitVec.ofNat 16 (w.number % 1024 + w.gen % 16 * 1024)

/-- The first window, over the Halls in order, that satisfies `p`: Hall, entry, window. -/
def State.findWindow (s : State) (p : Window → Bool) : Option (Nat × Nat × Window) :=
  [0, 1, 2, 3].findSome? (fun h => ((s.hall h).windows.find? (fun e => p e.2)).map (fun e => (h, e.1, e.2)))

def State.setWindow (s : State) (h n : Nat) (w : Window) : State :=
  let x := s.hall h
  s.setHall h { x with windows := Assoc.put {} x.windows n w }

/-- Closes a window (R395): no later packet is admitted, and its incomplete contexts are discarded and counted. -/
def State.closeWindow (s : State) (h n : Nat) : State :=
  let x := s.hall h
  let w := Assoc.get {} x.windows n
  let gone := x.ordered.filter (fun o => o.window == n)
  let s := s.setHall h { x with
    windows := Assoc.put {} x.windows n { w with isOpen := false }, ordered := x.ordered.filter (fun o => o.window != n) }
  s.bump (hallCour h 0x20) gone.length

/-- The window that admitted a packet that waits for a tag: it has landed or timed out before the entry is used again (R395). -/
def State.arrivalWin (s : State) (a : Arrival) : Window := Assoc.get {} (s.hall a.win.1).windows a.win.2

/-- Closes every window of a job; what they admitted and has not landed is discarded (R396). -/
def State.closeWindows (s : State) (job : Half) : State :=
  let gone := s.arrivals.filter (fun a => decide ((s.arrivalWin a).job = job))
  let s := { s with arrivals := s.arrivals.filter (fun a => decide ((s.arrivalWin a).job ≠ job)) }
  let s := foldOver (fun (t : State) a => t.giveCredit (a.link.map (fun l => (l, classOf a.hdr))) a.data.length) s gone
  foldOver (fun s h =>
    foldOver (fun (s : State) (e : Nat × Window) => if e.2.isOpen ∧ e.2.job = job then s.closeWindow h e.1 else s) s (s.hall h).windows)
    s [0, 1, 2, 3]

/-! The owner's checks (R394). -/

/-- The running jobs, by handle. -/
def State.running (s : State) : List (Nat × Job) := s.jobs.filter (fun j => decide (j.2.phase = .running))

/-- The job that a packet addresses, or the refusal of the first two checks. -/
def State.packetJob (s : State) (p : PktHdr) : Except Half (Nat × Job) :=
  let found := if p.peerset = 0 then
      (s.running.find? (fun j => decide (j.1 = p.job.toNat ∧ j.2.peerset = 0))).bind
        (fun j => if p.src.toNat = s.node then some j else none)
    else s.running.find? (fun j => decide (j.2.peerset = p.peerset))
  match found with
  | none =>
    match s.peerSet p.peerset with
    | some n => .error (if p.peerset ≠ 0 ∧ p.epoch.toNat < s.lastEpoch n then codeEpochStale else codeWindowClosed)
    | none => .error codeWindowClosed
  | some j =>
    if p.epoch.toNat < j.2.epoch.toNat then .error codeEpochStale
    else if j.2.epoch.toNat < p.epoch.toNat then .error codeWindowClosed
    else .ok j

/-- The right that a packet type needs: 0 write, 1 read, 2 atomic add. -/
def packetRight (type : Nat) : Nat := match type with | 0 => 0 | 1 => 1 | _ => 2

/-- R387. -/
def formAccepted (w : Window) (p : PktHdr) : Bool :=
  decide (w.spf = p.spf.toNat) && (decide (w.fmt = 0) || decide (w.fmt = p.fmt.toNat) || decide (p.fmt = 0 ∧ p.spf = 0)) &&
    (decide (p.type.toNat ≠ 3 ∧ p.type.toNat ≠ 4) || decide (w.spf = 0))

def pktBytes (p : PktHdr) : Nat := p.bytes.toNat + 1
def ordParts (p : PktHdr) : Nat := p.count.toNat + 1

/-- Where a packet's bytes lie in the window; an ORDERED ADD lands in its contributor's staging range (R390). -/
def landOffset (p : PktHdr) : Nat :=
  if p.type = 4 then p.offset.toNat + p.ordLen.toNat * (1 + p.index.toNat) else p.offset.toNat

/-- The context rules of R390. -/
def ordAccepted (x : HallSt) (n : Nat) (p : PktHdr) : Bool :=
  match x.ordered.find? (fun o => decide (o.window = n ∧ o.off = p.ordOff.toNat)) with
  | some o => decide (o.len = p.ordLen.toNat ∧ o.parts = ordParts p ∧ Assoc.get 0 o.arrived p.index.toNat < o.len)
  | none => decide (x.ordered.length < 256)

/-- The checks of R394 but the tags: the window's Hall, entry and record, or the refusal and the window it counts in. -/
def State.accept (s : State) (p : PktHdr) : Except (Half × Option (Nat × Nat)) (Nat × Nat × Window) :=
  match s.packetJob p with
  | .error c => .error (c, none)
  | .ok j =>
    let mine := fun (w : Window) => decide (w.job.toNat = j.1 ∧ handleOf w = p.window)
    match s.findWindow (fun w => w.isOpen && mine w) with
    | none => .error (codeWindowClosed, (s.findWindow mine).map (fun x => (x.1, x.2.1)))
    | some (h, n, w) =>
      let t := p.type.toNat
      let ord := decide (t = 4)
      if !(w.rights.getLsbD (packetRight t)) || !(formAccepted w p) ||
          decide (w.len < landOffset p + pktBytes p ∨ w.len < p.offset.toNat + pktBytes p) ||
          (ord && (decide (w.len < p.ordOff.toNat + p.ordLen.toNat * (1 + ordParts p) ∨ p.count.toNat < p.index.toNat) ||
            !(ordAccepted (s.hall h) n p))) then .error (codeWindowBounds, some (h, n))
      else .ok (h, n, w)

/-! Landing (R388 to R390). -/

/-- Enters a partial by R95 without a spine (R390). -/
def ordEnter (ftz : Bool) (x : Word) : List (Option Word) → List (Option Word)
  | [] => [some x]
  | none :: t => some x :: t
  | some v :: t => none :: ordEnter ftz (f32AddF ftz v x).1 t

/-- Folds the occupied levels in ascending order by R97 (R390). -/
def ordFold (ftz : Bool) : Option Word → List (Option Word) → Word
  | none, [] => 0
  | some v, [] => v
  | acc, none :: t => ordFold ftz acc t
  | none, some x :: t => ordFold ftz (some x) t
  | some v, some x :: t => ordFold ftz (some (f32AddF ftz v x).1) t

/-- combine of R390 on one element: the staged partials in contributor order. -/
def ordSum (ftz : Bool) (parts : List Word) : Word := ordFold ftz none (foldOver (fun l x => ordEnter ftz x l) [] parts)

/-- The combiner: the last contribution of a context has landed. -/
def State.combine (s : State) (h : Nat) (w : Window) (o : OrdCtx) : State :=
  let a := w.base + o.off
  let word := fun (p : Nat) => BitVec.ofNat 32 (leNat (s.readBytes p 4))
  let cells := (List.range (o.len / 4)).flatMap (fun i =>
    let r := ordSum o.ftz0 ((List.range o.parts).map (fun k => word (a + o.len * (1 + k) + 4 * i)))
    cellsAt (a + 4 * i) (leBytes 4 (f32AddF o.ftz0 (word (a + 4 * i)) r).1.toNat))
  let t := (s.writeCells cells).bump (hallCour h 0x18) 1
  let slots := ((linesOf a o.len).filterMap t.slotOf).eraseDups
  foldOver (fun u x => u.setTag x true) t slots

/-- An ORDERED contribution's packet has landed in its staging range. -/
def State.landOrdered (s : State) (h n : Nat) (w : Window) (p : PktHdr) (data : List Byte) : State :=
  let x := s.hall h
  let key := fun (o : OrdCtx) => decide (o.window = n ∧ o.off = p.ordOff.toNat)
  let o := (x.ordered.find? key).getD
    { window := n, off := p.ordOff.toNat, len := p.ordLen.toNat, parts := ordParts p, ftz0 := p.ftz, arrived := [] }
  let o := { o with arrived := Assoc.modify 0 o.arrived p.index.toNat (fun b => b + data.length),
                    ftz0 := if p.index = 0 then p.ftz else o.ftz0 }
  let rest := x.ordered.filter (fun o => !(key o))
  if (List.range o.parts).all (fun i => decide (o.len ≤ Assoc.get 0 o.arrived i)) then
    (s.setHall h { x with ordered := rest }).combine h w o
  else s.setHall h { x with ordered := rest ++ [o] }

/-- Adds the elements of an ADD packet (R111, R389). -/
def State.landAdd (s : State) (a : Nat) (p : PktHdr) (data : List Byte) : State × AddFlags :=
  foldOver (fun (acc : State × AddFlags) i =>
    let r := acc.1.atomicAdd (a + 4 * i) p.atype p.ftz (BitVec.ofNat 32 (leNat ((data.drop (4 * i)).take 4)))
    (r.1, acc.2.or r.2)) (s, {}) (List.range (data.length / 4))

/-- What the owner's Hall does with a packet: an answer, or a wait for a tag. -/
inductive Verdict where
  | answer (status : Half) (flags : AddFlags) (data : List Byte)
  | wait
  deriving DecidableEq, Repr

/-- The HCLK that a packet may wait for a tag: the limit of its sender (R228, R229). -/
def State.tagLimit (s : State) (p : PktHdr) : Nat :=
  600 * max 1 (if p.src.toNat = s.node then s.fld (foy 0x00B0) 0 32 else (Config.peerTagLimit p.src.toNat).toNat)

/-- The tags of R229: lines whose slot permits the access land, the others wait; past the sender's limit they are lost. `link` is
the link that the packet came in by, `win` the Hall and entry of its window. -/
def State.landTagged (s : State) (link : Option Nat) (win : Nat × Nat) (w : Window) (p : PktHdr) (data : List Byte) : State × Verdict :=
  let a := w.base + landOffset p
  let get := decide (p.type = 1)
  let same := fun (r : Arrival) => decide (r.hdr.src = p.src ∧ r.hdr.seq = p.seq)
  let old := s.arrivals.find? same
  let rest := s.arrivals.filter (fun r => !(same r))
  let since := (old.map (fun r => r.since)).getD s.hclk
  let done := (old.map (fun r => r.done)).getD []
  let slots := ((linesOf a (pktBytes p)).filterMap s.slotOf).eraseDups
  let blocked := slots.filter (fun x => (s.slotFull x != get) && !(done.contains (slotId x)))
  if get then
    if blocked.isEmpty then ({ s with arrivals := rest }, .answer 0 {} (s.readBytes a (pktBytes p)))
    else if since + s.tagLimit p < s.hclk then ({ s with arrivals := rest }, .answer codeTagTimeout {} [])
    else ({ s with arrivals := rest ++ [⟨p, data, win, link, since, done⟩] }, .wait)
  else
    let lands := fun (c : Nat) => match s.slotOf c with
      | some x => !(blocked.contains x) && !(done.contains (slotId x))
      | none => old.isNone
    let r := if p.type = 0 ∨ p.type = 4 then
        (s.writeCells ((cellsAt a data).filter (fun c => lands c.1)), ({} : AddFlags))
      else
        foldOver (fun (acc : State × AddFlags) i =>
          if lands (a + 4 * i) then
            let q := acc.1.landAdd (a + 4 * i) p ((data.drop (4 * i)).take 4)
            (q.1, acc.2.or q.2)
          else acc) (s, {}) (List.range (data.length / 4))
    if blocked.isEmpty then ({ r.1 with arrivals := rest }, .answer 0 r.2 [])
    else if since + s.tagLimit p < s.hclk then ({ r.1 with arrivals := rest }, .answer codeTagTimeout r.2 [])
    else
      let now := (slots.filter (fun x => !(blocked.contains x))).map slotId
      ({ r.1 with arrivals := rest ++ [⟨p, data, win, link, since, done ++ now⟩] }, .wait)

/-- A packet that a window has admitted lands, or waits for a tag; a context ends with its window (R390, R395). -/
def State.landPkt (s : State) (h n : Nat) (w : Window) (link : Option Nat) (p : PktHdr) (data : List Byte) : State × Verdict :=
  let r := s.landTagged link (h, n) w p data
  match r.2 with
  | .answer c _ _ =>
    if c ≠ 0 then
      let w := Assoc.get {} (r.1.hall h).windows n
      ((r.1.bump (hallCour h 0x10) 1).setWindow h n { w with refused := w.refused + 1 }, r.2)
    else if p.type = 4 ∧ w.isOpen = true then (r.1.landOrdered h n w p data, r.2)
    else r
  | .wait => r

/-- The packet of a source that waits for a tag under a SEQ. -/
def State.waitingPkt (s : State) (p : PktHdr) : Option Arrival :=
  s.arrivals.find? (fun r => decide (r.hdr.src = p.src ∧ r.hdr.seq = p.seq))

/-- The owner checks a request packet that entered at Hall `hall` and lands it (R394); one that waits for a tag has been admitted
(R395). -/
def State.ownerTakes (s : State) (hall : Nat) (link : Option Nat) (p : PktHdr) (data : List Byte) : State × Verdict :=
  match s.waitingPkt p with
  | some a => s.landPkt a.win.1 a.win.2 (s.arrivalWin a) link p data
  | none =>
  match s.accept p with
  | .error (c, win) =>
    let h := match win with | some x => x.1 | none => hall
    let s := (s.bump (hallCour h 0x08) 1).bump (hallCour h 0x10) 1
    let s := match win with
      | some (h, n) =>
        let w := Assoc.get {} (s.hall h).windows n
        s.setWindow h n { w with refused := w.refused + 1 }
      | none => s
    (if c = codeEpochStale then s.bump (foy 0x0118) 1 else s, .answer c {} [])
  | .ok (h, n, w) => (s.bump (hallCour h 0x08) 1).landPkt h n w link p data

/-! Acknowledgement at the sender (R383, R386 to R389). -/

/-- Ends a transfer's packets. -/
def State.dropXfer (s : State) (id : Nat) : State :=
  { s with sent := s.sent.filter (fun p => p.xfer != id), xfers := s.xfers.filter (fun x => x.1 != id) }

/-- A transfer fails: its job faults LINK_DOWN with the destination (R385). -/
def State.failXfer (s : State) (id : Nat) : State :=
  match s.xfers.find? (fun x => x.1 == id) with
  | none => s
  | some (_, x) => (s.dropXfer id).coreFault x.core x.iaddr codeLinkDown (BitVec.ofNat 16 x.dest)

def lowerRefusal (old : Option (Nat × Half)) (off : Nat) (c : Half) : Option (Nat × Half) :=
  match old with
  | some (o, d) => if o ≤ off then some (o, d) else some (off, c)
  | none => some (off, c)

/-- One packet of a transfer is answered. -/
def State.acked (s : State) (q : SentPkt) (status : Half) : State :=
  { s with
    sent := s.sent.filter (fun r => !(decide (r.hdr.dest = q.hdr.dest ∧ r.hdr.seq = q.hdr.seq)))
    xfers := s.xfers.map (fun x =>
      if x.1 = q.xfer then
        (x.1, { x.2 with left := x.2.left - 1,
                         refusal := if status = 0 then x.2.refusal else lowerRefusal x.2.refusal q.hdr.offset.toNat status })
      else x) }

/-- The indications of a CADD's completion, applied to the sending job (R389). A NaN's record names no operand: TENSOR is 0 (DEDUCED,
notes/assumptions/37.md). -/
def State.addIndications (s : State) (id : Nat) (f : AddFlags) : State :=
  match s.xfers.find? (fun x => x.1 == id) with
  | none => s
  | some (_, x) =>
    match s.addOutcome ⟨x.core, x.iaddr, x.opcode, [], []⟩ 0 f with
    | .done t => t
    | .wait t _ => t
    | .fail t code aux => t.coreFault x.core x.iaddr code aux

/-- Whether `a` comes before `b` in 32-bit sequence order. -/
def seqBefore (a b : Word) : Bool := decide ((b - a).toNat < 2 ^ 31) && decide (a ≠ b)

/-- An answer to packet (dest, seq) returns: it acknowledges that packet and every earlier one of the pair (R383). An
earlier CGET request stays open until its data returns. -/
def State.answered (s : State) (dest : BitVec 12) (seq : Word) (status : Half) (f : AddFlags) : State :=
  let earlier := s.sent.filter (fun q => decide (q.hdr.dest = dest ∧ q.hdr.type ≠ 1) && seqBefore q.hdr.seq seq)
  let s := foldOver (fun t q => t.acked q 0) s earlier
  match s.sent.find? (fun q => decide (q.hdr.dest = dest ∧ q.hdr.seq = seq)) with
  | none => s
  | some q => if q.hdr.type = 1 ∧ status = 0 then s else (s.acked q status).addIndications q.xfer f

/-- GET data arrives: it is written into LOCAL, unless a slot there is full (R388). -/
def State.gotData (s : State) (dest : BitVec 12) (seq : Word) (data : List Byte) : State :=
  match s.sent.find? (fun q => decide (q.hdr.dest = dest ∧ q.hdr.seq = seq ∧ q.hdr.type = 1)) with
  | none => s
  | some q =>
    if ((linesOf q.loc data.length).filterMap s.slotOf).any (fun x => s.slotFull x) then s
    else (s.writeCells (cellsAt q.loc data)).acked q 0

/-! Sequence and answers (R383, R386). -/

/-- The status kept for a packet of a source. -/
def State.keptStatus (s : State) (src seq : Nat) : Option Half :=
  (s.statusRx.find? (fun x => x.1 == src && x.2.1 == seq)).map (fun x => x.2.2)

def State.keepStatus (s : State) (src : Nat) (seq : Word) (c : Half) : State :=
  { s with
    seqRx := Assoc.put 0 s.seqRx src (seq + 1)
    statusRx := (s.statusRx.filter (fun x => !(x.1 == src && decide (1024 ≤ (seq - BitVec.ofNat 32 x.2.1).toNat)))) ++
      [(src, seq.toNat, c)] }

/-- What the owner decides on a request, in SEQ order: none where the packet is discarded or waits. -/
def State.judge (s : State) (hall : Nat) (link : Option Nat) (p : PktHdr) (data : List Byte) :
    State × Option (Half × AddFlags × List Byte) :=
  let src := p.src.toNat
  let next := Assoc.get 0 s.seqRx src
  if p.seq = next then
    let r := s.ownerTakes hall link p data
    match r.2 with
    | .wait => (r.1, none)
    | .answer c f d => (r.1.keepStatus src p.seq c, some (c, f, d))
  else if seqBefore p.seq next then
    match s.keptStatus src p.seq.toNat with
    | some c =>
      let d := if p.type = 1 ∧ c = 0 then
          match s.accept p with | .ok (_, _, w) => s.readBytes (w.base + p.offset.toNat) (pktBytes p) | .error _ => []
        else []
      (s, some (c, {}, d))
    | none => (s, none)
  else (s, none)

/-- The completion, or the GET data, that answers a packet. -/
def answerHdr (p : PktHdr) (c : Half) (f : AddFlags) (data : List Byte) : PktHdr :=
  { p with dest := p.src, src := p.dest, hops := 0, type := if p.type = 1 ∧ c = 0 ∧ data ≠ [] then 2 else 5,
           bytes := BitVec.ofNat 9 (data.length - 1), index := 0, count := 0, status := c, intSat := f.sat, nanSeen := f.nan }

/-- Sends an answer to another device over the route for it. -/
def State.answerTo (s : State) (p : PktHdr) (data : List Byte) : State :=
  match (if s.assigned then s.route p.dest.toNat 0 else none) with
  | some (_, l) => s.linkSend l p data
  | none => s

/-! Sending (R379, R384 to R387). -/

/-- The data that a packet carries, read from LOCAL. -/
def State.pktData (s : State) (q : SentPkt) : List Byte := if q.hdr.type = 1 then [] else s.readBytes q.loc (pktBytes q.hdr)

/-- A packet to the device itself is delivered without a link (R381). -/
def State.deliverSelf (s : State) (hall : Nat) (q : SentPkt) : State :=
  let r := s.judge hall none q.hdr (s.pktData q)
  match r.2 with
  | none => r.1
  | some (c, f, d) => if q.hdr.type = 1 ∧ c = 0 then r.1.gotData q.hdr.dest q.hdr.seq d else r.1.answered q.hdr.dest q.hdr.seq c f

/-- The first choice that the NO_ROUTE notices of a transfer have left it (R385). -/
def State.firstChoice (s : State) (id : Nat) : Nat := ((s.xfers.find? (fun x => x.1 == id)).map (fun x => x.2.used)).getD 0

/-- A NO_ROUTE notice: the choices up to one are used for the transfer (R385). -/
def State.useChoice (s : State) (id k : Nat) : State :=
  { s with xfers := s.xfers.map (fun x => if x.1 = id then (x.1, { x.2 with used := max x.2.used (k + 1) }) else x) }

/-- Sends a packet over the first usable choice that is left to its transfer; the transfer fails when there is none (R385). Nothing goes to
another device while ASSIGNED is 0 (R379). -/
def State.sendPkt (s : State) (hall : Nat) (q : SentPkt) : State :=
  if !s.assigned then s
  else match s.route q.hdr.dest.toNat (s.firstChoice q.xfer) with
  | none => s.failXfer q.xfer
  | some (k, l) =>
    let q' := { q with sends := q.sends + 1, since := s.hclk, choice := k }
    let s := (s.linkSend l q.hdr (s.pktData q)).bump (hallCour hall 0x00) 1
    { s with sent := (s.sent.filter (fun r => !(decide (r.hdr.dest = q.hdr.dest ∧ r.hdr.seq = q.hdr.seq)))) ++ [q'] }

/-- Resends a packet; four sendings without an answer fail the transfer (R384, R385). -/
def State.resendPkt (s : State) (hall : Nat) (q : SentPkt) : State :=
  if s.assigned && s.xfers.any (fun x => x.1 == q.xfer) then
    if 4 ≤ q.sends then s.failXfer q.xfer
    else
      let t := s.sendPkt hall q
      if t.xfers.any (fun x => x.1 == q.xfer) then t.bump (foy 0x0128) 1 else t
  else s

/-- A request of R312. -/
structure XferReq where
  dest : BitVec 12
  window : Half
  offset : Nat
  loc : Nat
  length : Nat
  isF32 : Bool
  ordered : Bool
  index : BitVec 12
  count : BitVec 12
  deriving DecidableEq, Repr

def xferReq (v : Nat) : XferReq :=
  { dest := BitVec.ofNat 12 v, window := BitVec.ofNat 16 (v / 2 ^ 16), offset := bitsOf v 32 40, loc := bitsOf v 72 48,
    length := bitsOf v 128 32, isF32 := bitAt v 160, ordered := bitAt v 161, index := BitVec.ofNat 12 (v / 2 ^ 162),
    count := BitVec.ofNat 12 (v / 2 ^ 174) }

/-- The pieces of a transfer: at every 512-byte boundary of window offsets (R386): offset and length, at most `fuel`. -/
def xferPieces : Nat → Nat → Nat → List (Nat × Nat)
  | 0, _, _ => []
  | fuel + 1, off, len =>
    if len = 0 then []
    else
      let k := min len (512 - off % 512)
      (off, k) :: xferPieces fuel (off + k) (len - k)

/-- The offset of an HBM address in the job's pages, in the order in which the loader took them (R209). -/
def Job.pageOffset (j : Job) (a : Nat) : Option Nat :=
  if memSel a = 0 then (j.pages.findIdx? (fun p => p == pageOf a)).map (fun i => i * 2 ^ 21 + a % 2 ^ 21) else none

/-- Whether a device address lies in a tensor of a job. -/
def Tensor.holds (t : Tensor) (j : Job) (a : Nat) : Bool :=
  match t.mem with
  | 0 | 1 =>
    match j.pageOffset t.addr, j.pageOffset a with
    | some o, some b => decide (o ≤ b ∧ b < o + t.bytes)
    | _, _ => false
  | 2 => decide (t.addr ≤ a ∧ a < t.addr + t.bytes)
  | _ => false

/-- The form of a transfer (R387): SPF and FMT of the tensor of the job that LOCAL lies in, or untyped. -/
def State.xferForm (s : State) (n loc : Nat) : Nat × Nat :=
  match (s.job (s.core n).job.toNat).bind (fun j => j.tensors.find? (fun t => t.holds j loc)) with
  | some t => (t.spf, t.fmt)
  | none => (0, 0)

/-- Packet type of an opcode and request (R382, R389). -/
def xferType (op : Nat) (r : XferReq) : BitVec 4 :=
  match op with
  | 0x77 => 0
  | 0x78 => 1
  | _ => if r.ordered && r.isF32 then 4 else 3

/-- Starts a transfer: numbers, registers and sends its packets; packets to the device itself are delivered. -/
def State.startXfer (s : State) (x : Ctx) (r : XferReq) (job : Job) : State × Nat :=
  let hall := x.n / 64
  let form := s.xferForm x.n r.loc
  let pieces := xferPieces (r.length / 512 + 2) r.offset r.length
  let self := decide (job.peerset = 0) || s.isSelf r.dest.toNat
  let dest := if self then BitVec.ofNat 12 s.node else r.dest
  let id := s.nextXfer
  let s := { s with nextXfer := id + 1,
                    xfers := s.xfers ++ [(id, { core := x.n, iaddr := x.iaddr, opcode := x.opcode, dest := r.dest.toNat,
                                                job := (s.core x.n).job, left := pieces.length, refusal := none })] }
  let ftz := (s.core x.n).ftz
  let s := foldOver (fun (s : State) (p : Nat × Nat) =>
    if !(s.xfers.any (fun y => y.1 == id)) then s
    else
      let seq := Assoc.get 0 s.seqTx dest.toNat
      let hdr : PktHdr :=
        { dest := dest, type := xferType x.opcode r, src := BitVec.ofNat 12 s.node, hops := 0, seq := seq,
          peerset := job.peerset, epoch := job.epoch, window := r.window, job := (s.core x.n).job,
          offset := BitVec.ofNat 40 p.1, bytes := BitVec.ofNat 9 (p.2 - 1), atype := r.isF32, ftz := ftz,
          spf := BitVec.ofNat 4 form.1, fmt := BitVec.ofNat 6 form.2, index := if xferType x.opcode r = 4 then r.index else 0,
          count := if xferType x.opcode r = 4 then r.count else 0, status := 0, intSat := false, nanSeen := false,
          ordOff := BitVec.ofNat 40 r.offset, ordLen := BitVec.ofNat 32 r.length }
      let q : SentPkt := { hdr := hdr, loc := r.loc + (p.1 - r.offset), sends := 0, since := s.hclk, xfer := id, choice := 0 }
      let s := { s with seqTx := Assoc.put 0 s.seqTx dest.toNat (seq + 1) }
      if self then
        ({ s with sent := s.sent ++ [q] }.bump (hallCour hall 0x00) 1).deliverSelf hall q
      else s.sendPkt hall q) s pieces
  (s, id)

/-- The multiples that OFFSET, LENGTH and LOCAL keep (R210, R312, R386, R390). -/
def xferAligned (op : Nat) (r : XferReq) : Bool :=
  let k := if op = 0x79 then (if r.ordered && r.isF32 then 64 else 4) else 8
  decide (r.offset % k = 0 ∧ r.length % k = 0)

/-- A CPUT, CGET or CADD: at its start it reads and checks the request and sends; then it waits for its completions and
writes its status (R312, R386). In a measure pass a CPUT or CADD sends nothing (R130); it ends with status 0 (DESIGN CHOICE,
notes/assumptions/164.md). -/
def runXfer (op : Nat) (a b : BitVec 5) (off : BitVec 48) (x : Ctx) (s : State) : Res :=
  let pend : State → Res := fun t => .wait t { iaddr := x.iaddr, opcode := x.opcode, since := t.hclk, aux := 0, timed := false }
  match s.xfers.find? (fun y => decide (y.2.core = x.n ∧ y.2.iaddr = x.iaddr ∧ y.2.opcode = op)) with
  | some (id, _) =>
    let mine := s.sent.filter (fun q => q.xfer == id && decide (q.hdr.dest.toNat = s.node))
    let s := foldOver (fun t q => t.deliverSelf (x.n / 64) q) s mine
    match s.xfers.find? (fun y => y.1 == id) with
    | some (_, y) =>
      if y.left = 0 then .done ((s.dropXfer id).setS x.n b ((y.refusal.map (fun r => r.2.setWidth 64)).getD 0)) else pend s
    | none => pend s
  | none =>
    let p := x.addr a off
    let r := xferReq (leNat (s.readBytes p 32))
    let loc := [(r.loc, r.length)]
    match s.job (s.core x.n).job.toNat, s.accessFault x.n false [(p, 32)] with
    | none, _ => .fail s codeRegionBounds (kindCode p)
    | some _, some f => .fail s f.1 f.2
    | some job, none =>
      let other := !(s.isSelf r.dest.toNat) && !(decide (r.dest.toNat = s.node ∧ job.peerset = 0))
      match s.accessFault x.n (op == 0x78) loc with
      | some f => .fail s f.1 f.2
      | none =>
        if op = 0x79 ∧ r.ordered ∧ r.isF32 ∧ r.count.toNat < r.index.toNat then .fail s codeBufferSize 0x0002
        else if !(xferAligned op r) then .fail s codeAlignment (kindCode r.loc)
        else
          s.transfer x { reads := (p, 32) :: (if op = 0x78 then [] else loc), writes := [], groups := some [] } (fun _ => [])
            (fun _ t =>
              if op ≠ 0x78 ∧ (t.core x.n).measuring = true then .done (t.setS x.n b 0)
              else if other && decide (job.peerset = 0) then .done (t.setS x.n b (codeWindowBounds.setWidth 64))
              else if other && !t.assigned then .fail t codeLinkDown (BitVec.ofNat 16 r.dest.toNat)
              else
                let u := t.startXfer x r job
                match u.1.xfers.find? (fun y => y.1 == u.2) with
                | some (_, y) =>
                  if y.left = 0 then .done ((u.1.dropXfer u.2).setS x.n b ((y.refusal.map (fun r => r.2.setWidth 64)).getD 0))
                  else pend u.1
                | none => pend u.1)

end Sys2Proof.Machine
end

