-- ==== Sys2Proof/Machine/Precision.lean ====
section
/-! DEFINITION. The precision instructions (05_tempo R131 to R137; 10_nupor_reference R292 to R295). -/

namespace Sys2Proof.Machine

/-- A multiplication of RESCALE (R131): the flushed product, whether FTZ acted, and whether a NaN was produced. -/
def scaleMul (ftz : Bool) (x : Val) (t : Word) : Word × Bool × Bool :=
  let v := valF32 (mulVal x (f32Val t))
  let f := f32Flush ftz v
  (f.1, f.2, f32IsNaN v && decide (x ≠ .nan) && !(f32IsNaN t))

/-- y of R131: value, flushed, NaN produced. -/
def rescaleElem (ftz int : Bool) (x : Word) (t : Word) (c : Option Word) : Word × Bool × Bool :=
  let a := scaleMul ftz (if int then intVal x.toInt 0 else f32Val x) t
  match c with
  | none => a
  | some w => let b := scaleMul ftz (f32Val a.1) w; (b.1, a.2.1 || b.2.1, a.2.2 || b.2.2)

/-- The raw sum of element (r, k); 0 beyond the source. -/
def rawSum (src : Td) (rd : Nat → Byte) (r k : Nat) : Word :=
  if src.rows < r ∨ src.kext < k then 0 else BitVec.ofNat 32 (src.code rd r k)

def runRescale (a b c : BitVec 5) (tbl int setFull : Bool) (table : BitVec 48) (x : Ctx) (s : State) : Res :=
  let dst := Td.of (x.tdreg a.toNat)
  let src := Td.of (x.tdreg b.toNat)
  let cut := src.cutTo dst
  let tab := if tbl then [(table.toNat, 4 * (dst.kext + 1))] else []
  match outOfSalon x.n (cut.ranges ++ tab) with
  | some p => .fail s codeRegionBounds (kindCode p)
  | none =>
    let ftz := (s.core x.n).ftz
    let y := fun (rd : Nat → Byte) r k =>
      rescaleElem ftz int (rawSum src rd r k) (lowWord (x.sreg c))
        (if tbl then some (BitVec.ofNat 32 (rdNat rd (table.toNat + 4 * k) 4)) else none)
    s.storePath x dst 1 0
      { reads := cut.ranges ++ tab, setFull := setFull,
        vals := fun rd r k => f32Val (y rd r k).1,
        pre := fun rd skip =>
          foldOver (fun p r =>
            foldOver (fun (p : BitVec 11 × Option Nat) k =>
              if skip r k then p else
              let e := y rd r k
              (if e.2.1 then p.1 ||| flagFlushed else p.1,
               match p.2 with | some i => some i | none => if e.2.2 then some (r * (dst.kext + 1) + k) else none))
              p (List.range (dst.kext + 1))) (0, none) (List.range (dst.rows + 1)) }

def workRescale (a b c : BitVec 5) (tbl int setFull : Bool) (table : BitVec 48) : Work :=
  { opcode := 0x40, queue := .precision, sR := [c.toNat], tds := [a.toNat, b.toNat],
    illegal := fun x _ =>
      let dst := Td.of (x.tdreg a.toNat)
      let src := Td.of (x.tdreg b.toNat)
      if src.fmt ≠ 0x24 then some 0x0003
      else spfIllegal (decide ((dst.spf ≠ 0 ∧ dst.spf ≠ 2) ∨ src.spf ≠ 0)),
    reads := fun x =>
      let dst := Td.of (x.tdreg a.toNat)
      ((Td.of (x.tdreg b.toNat)).cutTo dst).bounds ++ bounding dst.patRanges ++
        (if tbl then [(table.toNat, 4 * (dst.kext + 1))] else []),
    writes := fun x =>
      let d := Td.of (x.tdreg a.toNat)
      if d.spf = 2 then d.storeRanges else d.bounds,
    run := runRescale a b c tbl int setFull table }

/-- RESCALE turns raw sums into a stored tensor (R131, R292). -/
def execRescale (h : NHdr) (a b c : BitVec 5) (tbl int setFull : Bool) (table : BitVec 48) (s : State) :
    Host.Outcome State Fault Refusal :=
  (workRescale a b c tbl int setFull table).meets h (.rescale h a b c tbl int setFull table) s

/-- The values of the stored elements of a tile, dense or sparse (R250, R293). -/
def Td.values (t : Td) (rd : Nat → Byte) : List Val :=
  if t.spf = 0 then
    (List.range t.mdim).flatMap (fun r => (List.range t.kdim).map (fun k => t.value rd 1 0 r k))
  else if t.is24 then
    (List.range t.mdim).flatMap (fun r => (List.range t.strips).flatMap (fun j => (List.range 256).map (fun l =>
      intScaled t.fm (t.lane rd r j l).code (t.scaleCode rd r (4 * (128 * j + l / 2))) 1 0)))
  else if t.spf = 6 then
    (List.range (t.feRows rd)).flatMap (fun r => (List.range (t.feRow rd r).2).map (fun i =>
      intScaled t.fm (t.feEntry rd ((t.feRow rd r).1 + i)).2 0x78 1 0))
  else
    (List.range t.fbCols).flatMap (fun j => (List.range t.mdim).flatMap (fun r =>
      ((List.range 256).filter (fun l => (t.fbCode rd (r / 128) j (r % 128) l).2 && decide (256 * j + l ≤ t.kext))).map (fun l =>
        intScaled t.fm (t.fbCode rd (r / 128) j (r % 128) l).1 (t.scaleCode rd r (256 * j + l)) 1 0)))

/-- The byte ranges of a tile, dense or sparse; `peek` reads the tables that place them. -/
def Td.allRanges (t : Td) (peek : Nat → Byte) : List (Nat × Nat) :=
  if t.spf = 0 then t.ranges
  else if t.spf = 6 then
    [(t.base, t.feList peek - t.base),
     (t.feList peek, 4 * foldOver (fun n r => n + (t.feRow peek r).2) 0 (List.range (t.feRows peek)))]
  else (List.range (if t.is24 then t.strips else t.fbCols)).flatMap (fun j => t.metaRanges peek j ++ t.dataRanges peek j)

/-- The result of RANGE (R293). -/
def rangeResult (vs : List Val) : DWord :=
  let m := foldOver (fun m v => maxWord m (magWord v)) (0 : Word) vs
  BitVec.ofNat 64 (m.toNat + if vs.any (fun v => !(valFinite v)) then 2 ^ 32 else 0)

def workRange (a b : BitVec 5) : Work :=
  { opcode := 0x41, queue := .precision, sW := [a.toNat], tds := [b.toNat],
    reads := fun x => let t := Td.of (x.tdreg b.toNat); if t.spf = 0 then t.bounds else [],
    reqR := fun x s => let t := Td.of (x.tdreg b.toNat); if t.spf = 0 then [] else bounding (t.allRanges s.readByte),
    run := fun x s =>
      let t := Td.of (x.tdreg b.toNat)
      s.transfer x
        { reads := t.allRanges s.readByte, writes := [],
          check := fun rd =>
            if t.spf = 0 then seqCheck t rd
            else if t.spf = 6 then none
            else t.chunkSeq rd 0 t.kdim t.mdim }
        (fun _ => []) (fun rd u => .done (u.setS x.n a (rangeResult (t.values rd)))) }

/-- RANGE finds the largest magnitude of a tile (R293). -/
def execRange (h : NHdr) (a b : BitVec 5) (s : State) : Host.Outcome State Fault Refusal :=
  (workRange a b).meets h (.range h a b) s

/-- The PASSES code under which a job's layer reads a tensor as a wide operand; 0 when none does (R128). -/
def jobWide (j : Job) (t : Nat) : Nat :=
  ((j.layers.find? (fun l => l.a == t && l.passes != 0 && l.op == 1)).map (fun l => l.passes)).getD 0

/-- The result of TEMPO (R294). -/
def tempoResult (s : State) (n t : Nat) (sel : Bool) : DWord :=
  match s.job (s.core n).job.toNat with
  | none => 0
  | some j =>
    if (jobTempo j t).isNone then 0
    else
      let scale := if sel then s.fld (tempoSlot t 0x28) 0 32 else s.fld (tempoSlot t 0x20) 32 32
      let w := if sel then s.fld (tempoSlot t 0x20) 11 3 else s.fld (tempoSlot t 0x20) 8 3
      let valid := if sel then s.fld (tempoSlot t 0x20) 14 1 else if (s.tempoX t).prodValid then 1 else 0
      let p := jobWide j t
      BitVec.ofNat 64 (scale + (if p = 0 then w else 7) * 2 ^ 32 + p * 2 ^ 35 + valid * 2 ^ 63)

def workTempo (a : BitVec 5) (sel : Bool) (tensor : BitVec 12) : Work :=
  { opcode := 0x42, queue := .precision, sW := [a.toNat],
    run := fun x s => .done (s.setS x.n a (tempoResult s x.n tensor.toNat sel)) }

/-- TEMPO reads a Tempo slot (R294). -/
def execTempo (h : NHdr) (a : BitVec 5) (sel : Bool) (tensor : BitVec 12) (s : State) :
    Host.Outcome State Fault Refusal :=
  (workTempo a sel tensor).meets h (.tempo h a sel tensor) s

/-- An outlier list as it lies in memory (R133): COUNT and the channels. -/
def listCount (rd : Nat → Byte) (a : Nat) : Nat := rdNat rd a 8 % 128
def listOf (rd : Nat → Byte) (a : Nat) : List Nat :=
  (List.range (listCount rd a)).map (fun j => rdNat rd (a + 8 + 4 * j) 4 % 65536)

/-- The outlier rules of R115. -/
def listOk (l : List Nat) (extent : Nat) : Bool :=
  decide (l.length ≤ 64) && l.all (fun k => decide (k < extent)) &&
    (List.range (l.length - 1)).all (fun i => decide (l[i]?.getD 0 < l[i + 1]?.getD 0))

def runOutsplit (a b c : BitVec 5) (setFull : Bool) (x : Ctx) (s : State) : Res :=
  let t := Td.of (x.tdreg a.toNat)
  let d := Td.of (x.tdreg b.toNat)
  let p := (x.sreg c).toNat
  let peek := listOf s.readByte p
  let words : Td → List Nat → List (Nat × Nat) := fun u ks => (List.range t.mdim).flatMap (fun r => ks.map (fun k =>
    ((u.loc r k).1 + (u.loc r k).2 / 64 * 8, 8)))
  let kept := peek.filter (fun k => decide (k ≤ t.kext))
  s.transfer x
    { reads := [(p, 8 + 4 * listCount s.readByte p)] ++ t.ranges,
      writes := words t kept ++ words d ((List.range peek.length).filter (fun j => decide (j ≤ d.kext))), setFull := setFull,
      check := fun rd =>
        if !(listOk (listOf rd p) t.kdim) then some (codeCountMismatch, 0)
        else if d.kdim < listCount rd p then some (codeBufferSize, 0x0003)
        else seqCheck t rd }
    (fun rd =>
      let l := listOf rd p
      (foldOver (fun o r =>
        foldOver (fun (o : Assoc Byte × Nat) k =>
          let v := colXF16.encode (s.core x.n).satNan (t.value rd 1 0 r k)
          let ld := d.loc r o.2
          let lt := t.loc r k
          (putBits rd (putBits rd o.1 ld.1 ld.2 16 v.code) lt.1 lt.2 t.width 0, o.2 + 1)) (o, 0) l |>.1)
        ([] : Assoc Byte) (List.range t.mdim)))
    (fun rd u =>
      let l := listOf rd p
      let cs := (List.range t.mdim).flatMap (fun r => ((List.range l.length).zip l).map (fun y =>
        (r * d.kdim + y.1, colXF16.encode (s.core x.n).satNan (t.value rd 1 0 r y.2))))
      u.converted x d.tensor (foldOver (fun f y => f ||| y.2.flags) 0 cs) ((cs.find? (fun y => y.2.nan)).map (fun y => y.1)))

def workOutsplit (a b c : BitVec 5) (setFull : Bool) : Work :=
  { opcode := 0x43, queue := .precision, sR := [c.toNat], tds := [a.toNat, b.toNat],
    illegal := fun x _ => if (Td.of (x.tdreg b.toNat)).fmt ≠ 0x23 then some 0x0003 else none,
    reads := fun x => (Td.of (x.tdreg a.toNat)).bounds,
    reqR := fun x s => [((x.sreg c).toNat, 8 + 4 * listCount s.readByte (x.sreg c).toNat)],
    writes := fun x => (Td.of (x.tdreg a.toNat)).bounds ++ (Td.of (x.tdreg b.toNat)).bounds,
    run := runOutsplit a b c setFull }

/-- OUTSPLIT moves outlier channels out of a stored tile (R295). -/
def execOutsplit (h : NHdr) (a b c : BitVec 5) (setFull : Bool) (s : State) : Host.Outcome State Fault Refusal :=
  (workOutsplit a b c setFull).meets h (.outsplit h a b c setFull) s

end Sys2Proof.Machine
end

