-- ==== Sys2Proof/Machine/TempoSlot.lean ====
section
/-! DEFINITION. Tempo's slots (05_tempo R113 to R138): emptying, preparation at job start, the decision at a step's
close, the measure pass, and outlier candidates. -/

namespace Sys2Proof.Machine

/-! The slot registers (R141). -/

def State.tHist (s : State) (n i : Nat) : Word := BitVec.ofNat 32 (s.fld (tempoSlot n (i / 2 * 8)) (i % 2 * 32) 32)
def State.setHist (s : State) (n i : Nat) (w : Word) : State := s.setFld (tempoSlot n (i / 2 * 8)) (i % 2 * 32) 32 w.toNat
def State.tCount (s : State) (n : Nat) : Nat := s.fld (tempoSlot n 0x20) 0 4
def State.tDepth (s : State) (n : Nat) : Nat := s.fld (tempoSlot n 0x20) 4 4
def State.nextValid (s : State) (n : Nat) : Bool := decide (s.fld (tempoSlot n 0x20) 14 1 = 1)

/-- Writes NEXT (width − 1 and scale) and NEXT_VALID. -/
def State.setNext (s : State) (n w : Nat) (scale : Word) : State :=
  ((s.setFld (tempoSlot n 0x20) 11 3 w).setFld (tempoSlot n 0x28) 0 32 scale.toNat).setFld (tempoSlot n 0x20) 14 1 1

/-- Tempo empties a slot (R117). -/
def State.emptyTempo (s : State) (n depth : Nat) : State :=
  let s := foldOver (fun t i => t.rput (tempoSlot n (8 * i)) 0) s (List.range 4)
  let owned := s.fld (tempoSlot n 0x20) 15 1
  let s := s.rput (tempoSlot n 0x20) (BitVec.ofNat 64 (depth % 16 * 16 + owned * 2 ^ 15))
  let s := s.rput (tempoSlot n 0x28) 0
  let s := s.setFld (tempoSlot n 0x38) 0 32 0
  s.setTempoX n { s.tempoX n with prodValid := false }

/-- The width and scale that pin a slot, if it is pinned (R128); width as w − 1. -/
def State.pinOf (s : State) (j : Job) (r : TempoRec) : Option (Nat × Word) :=
  let pin := s.rget (tempoSlot r.tensor 0x30)
  if jobWide j r.tensor ≠ 0 then some (7, r.pinS)
  else if fget pin 3 1 = 1 then some (fget pin 0 3, BitVec.ofNat 32 (fget pin 32 32))
  else if r.mode = 1 then some (r.pinW, r.pinS)
  else none

/-- Prepares a job's slot at its start (R117, R128). -/
def State.prepTempo (s : State) (h : Nat) (j : Job) (r : TempoRec) : State :=
  let n := r.tensor
  let s := if r.hist = 0 ∧ s.tDepth n = j.histDepth then s else s.emptyTempo n j.histDepth
  let s := s.setFld (tempoSlot n 0x20) 15 1 1
  let s := s.setFld (tempoSlot n 0x38) 32 7 0
  let s := s.setTempoX n { prodValid := (s.tempoX n).prodValid, job := BitVec.ofNat 16 h, list := r.list, nextList := r.list }
  match s.pinOf j r with
  | some (w, sc) => s.setNext n w sc
  | none => s

/-- A job's slot when the job ends (R117, R118). -/
def State.leaveTempo (s : State) (j : Job) (r : TempoRec) : State :=
  let n := r.tensor
  let s := if r.hist = 2 then s.emptyTempo n j.histDepth else s
  let s := s.setFld (tempoSlot n 0x20) 15 1 0
  s.setTempoX n { prodValid := (s.tempoX n).prodValid }

/-! The decision (R121 to R123). -/

/-- RNE32 of a quotient of a binary32 by a positive number, capped at the largest finite value. -/
def f32DivNat (a : Word) (d : Nat) : Word :=
  match f32Val a with
  | .fin neg m e => let q := shiftFrac m d e; f32Min (roundF32 neg q.1 q.2) 0x7F7FFFFF#32
  | _ => 0x7F7FFFFF#32

/-- RNE32(2 s), capped. -/
def f32Double (a : Word) : Word := f32Min (f32Mul a 0x40000000#32) 0x7F7FFFFF#32

/-- M̂ ≤ qmax(v) × Δ, exact (R122). -/
def tempoFits (mh delta : Word) (q : Nat) : Bool :=
  match f32Val mh, f32Val delta with
  | .fin _ m e, .fin _ n f => magLe m e (n * q) f
  | _, _ => false

/-- The smallest width that qualifies, or WMAX; widths as w − 1 (R121). -/
def tempoWidth (signed : Bool) (wmin wmax : Nat) (mh delta : Word) : Nat :=
  ((List.range (wmax + 1 - wmin)).map (fun i => wmin + i)).find? (fun w => tempoFits mh delta (qmax (w + 1) signed))
    |>.getD wmax

/-- decide of R121 for M̂: width − 1, scale, and whether feedback changed it. -/
def tempoDecide (r : TempoRec) (mh : Word) (overs limit : Nat) : Nat × Word × Bool :=
  if f32Eq mh 0 then (r.wmin, r.delta, false)
  else
    let w := tempoWidth r.signed r.wmin r.wmax mh r.delta
    let sc := f32DivNat mh (qmax (w + 1) r.signed)
    if limit < overs then (if w < r.wmax then (w + 1, sc, true) else (w, f32Double sc, true)) else (w, sc, false)

/-- The headroom and the saturation limit of a record (R114, R121). -/
def State.headroom (s : State) (r : TempoRec) : Word :=
  if r.headroom = 0 then BitVec.ofNat 32 (s.fld (foy 0x58) 32 32) else r.headroom
def State.satLimit (s : State) (r : TempoRec) : Nat := if r.satLimit = 0 then s.fld (foy 0x60) 0 32 else r.satLimit.toNat

/-- The largest history entry (R121). -/
def State.histMax (s : State) (n : Nat) : Word :=
  foldOver maxWord 0 ((List.range (s.tCount n)).map (fun i => s.tHist n i))

/-- Action 1 of R120: records M. -/
def State.recordM (s : State) (n depth : Nat) (m : Word) (measuring : Bool) : State :=
  if !measuring && decide (s.fld (tempoSlot n 0x20) 16 1 = 1) then
    (s.setHist n 0 m).setFld (tempoSlot n 0x20) 16 1 0
  else
    let s := foldOver (fun t i => t.setHist n (i + 1) (t.tHist n i)) s ((List.range (depth - 1)).reverse)
    let s := s.setHist n 0 m
    let s := s.setFld (tempoSlot n 0x20) 0 4 (min (s.tCount n + 1) depth)
    if measuring then s.setFld (tempoSlot n 0x20) 16 1 1 else s

/-! Outlier candidates (R136). -/

/-- Inserts into a list in descending order of maximum, ascending channel among equals. -/
def rankInsert (x : Nat × Word) : List (Nat × Word) → List (Nat × Word)
  | [] => [x]
  | y :: t =>
    if y.2.toNat < x.2.toNat ∨ (y.2 = x.2 ∧ x.1 < y.1) then x :: y :: t else y :: rankInsert x t

/-- Candidates in rank order for channels 0 to n − 1. -/
def outlierCandidates (x : TempoX) (n ratio : Nat) : List Nat :=
  let chans := (List.range n).filter (fun k => !(x.nextList.contains k))
  let ranked := foldOver (fun l k => rankInsert (k, Assoc.get 0 x.chanMax k) l) [] chans
  let count := ranked.length
  let median := match (ranked.reverse)[(count - 1) / 2]? with | some y => y.2 | none => 0
  let far := fun (w : Word) =>
    match f32Val w, f32Val median with
    | .fin _ m e, .fin _ b f => !(magLe m e (b * ratio) f)
    | _, _ => false
  (ranked.filter (fun y => far y.2)).map (fun y => y.1)

/-- Payload entries of four 16-bit channels, 0xFFFF in unused places (event 0x1021). -/
def packChannels (l : List Nat) : List DWord :=
  (piecesOf 4 (l.length + 1) l).map (fun q =>
    let c := fun i => (q[i]?).getD 0xFFFF
    BitVec.ofNat 64 (c 0 + c 1 * 2 ^ 16 + c 2 * 2 ^ 32 + c 3 * 2 ^ 48))

/-- Forms the candidates of a step, writes them, and extends the list of the next production (R136, R137). -/
def State.trackOutliers (s : State) (cluster : Nat) (j : Job) (h : Nat) (r : TempoRec) : State :=
  let n := r.tensor
  let x := s.tempoX n
  let extent := ((j.tensors[n]?).map (fun t => t.kext + 1)).getD 0
  let cs := outlierCandidates x extent (max 2 (s.fld (foy 0x58) 8 8))
  let packets := piecesOf 52 (cs.length + 1) cs
  let s := (foldOver (fun (acc : State × Nat) p =>
    (acc.1.post 0x1021 2 cluster (BitVec.ofNat 16 h)
      (BitVec.ofNat 64 (n + cs.length * 2 ^ 16 + acc.2 * 2 ^ 32) :: packChannels p), acc.2 + p.length)) (s, 0) packets).1
  if s.fld (foy 0x58) 4 1 = 1 then
    let add := cs.take (64 - x.nextList.length)
    let s := s.bumpFld (tempoSlot n 0x38) 32 7 add.length
    s.setTempoX n { x with nextList := foldOver (fun l k => insertNat k l) x.nextList add }
  else s

/-- A production has completed under a list: its consumers read that list in the job's copy (R137). The copy so holds additions from
the close of the first production stored with them (DEDUCED, notes/assumptions/170.md). -/
def State.listInForce (s : State) (j : Job) (n : Nat) (list : List Nat) : State :=
  if (s.tempoX n).list = list then s
  else
    let at_ := Assoc.get 0 j.outAddr (4 * n)
    let head := (s.readByte at_).toNat / 128 * 128 + list.length
    s.writeCells (cellsAt at_ [BitVec.ofNat 8 head] ++ cellsAt (at_ + 8) (list.flatMap (fun k => leBytes 4 k)))

/-! Closing a step (R118, R120). -/

/-- The step of a governed tensor closes. -/
def State.closeTempo (s : State) (cluster h : Nat) (j : Job) (r : TempoRec) : State :=
  let n := r.tensor
  let x := s.tempoX n
  let s := if x.measuring then s else s.listInForce j n x.nextList
  let list := if x.measuring then x.list else x.nextList
  let s := if r.track then s.trackOutliers cluster j h r else s
  let nextList := (s.tempoX n).nextList
  let reset := fun (t : State) (prod : Bool) =>
    t.setTempoX n { job := BitVec.ofNat 16 h, prodValid := x.prodValid || prod, list := list, nextList := nextList }
  if jobWide j n ≠ 0 then
    let t := s.setFld (tempoSlot n 0x20) 8 3 7
    reset ((t.setFld (tempoSlot n 0x20) 32 32 r.pinS.toNat).setNext n 7 r.pinS) true
  else
    let overs := if x.measuring then 0 else x.overs
    let s := s.setFld (tempoSlot n 0x28) 32 32 overs
    let s := s.setFld (tempoSlot n 0x38) 0 32 x.outMax.toNat
    let s := if x.m = 0 then s.jobFlags (BitVec.ofNat 16 h) flagZeroRange else s
    let s := s.recordM n j.histDepth x.m x.measuring
    let s := if x.measuring then s
      else (s.setFld (tempoSlot n 0x20) 8 3 (s.fld (tempoSlot n 0x20) 11 3)).setFld (tempoSlot n 0x20) 32 32
        (s.fld (tempoSlot n 0x28) 0 32)
    let s := match s.pinOf j r with
      | some (w, sc) => s.setNext n w sc
      | none =>
        let d := tempoDecide r (f32Mul (s.histMax n) (s.headroom r)) overs (s.satLimit r)
        let s := s.setNext n d.1 d.2.1
        if d.2.2 then s.bump (foy 0x70) 1 else s
    reset s (!x.measuring)

/-- The width and scale of a seed (R127). -/
def State.seedTempo (s : State) (r : TempoRec) : State :=
  let mh := match f32Val r.seed with
    | .fin _ m e => valF32 (.fin false (m * qmax (r.wmax + 1) r.signed) e)
    | _ => 0
  let d := tempoDecide r mh 0 0
  s.setNext r.tensor d.1 d.2.1

/-- First use at the start of a layer (R127, R130): seeds take NEXT; the other empty slots are measured. The result says
whether the layer runs a measure pass. -/
def State.firstUse (s : State) (h : Nat) (rs : List TempoRec) : State × Bool :=
  let s := foldOver (fun t r => if !(t.nextValid r.tensor) && r.seedValid then t.seedTempo r else t) s rs
  let need := rs.filter (fun r => !(s.nextValid r.tensor))
  if need.isEmpty then (s, false)
  else
    let s := foldOver (fun t r =>
      (t.setTempoX r.tensor { t.tempoX r.tensor with measuring := true }).post 0x1020 0 0 (BitVec.ofNat 16 h)
        [BitVec.ofNat 64 r.tensor]) s need
    (s.bump (foy 0x68) 1, true)

/-- A write of a slot's PIN word (R141). -/
def State.pinSet (s : State) (at_ : Nat) (value : DWord) : State :=
  if fget value 3 1 = 1 ∧ f32PosFinite (BitVec.ofNat 32 (fget value 32 32)) = false then
    s.post 0x1050 0 0 0 [BitVec.ofNat 64 at_, value]
  else s.rput at_ (value &&& 0xFFFFFFFF0000000F#64)

/-- A writer names the bits `wm` of a slot's PIN word; those that a writer of a higher rank has written in this HCLK stay (R9,
R141). -/
def State.pinWrite (s : State) (at_ : Nat) (value wm : DWord) (w : Writer) : State :=
  let m := wm &&& ~~~(s.claimed at_ w)
  if m = 0 then s else (s.pinSet at_ ((value &&& m) ||| (s.rget at_ &&& ~~~m))).claim at_ wm w

/-- TEMPO_PIN_WRITE: the host or firmware writes a slot's PIN word (R128, R141): it acts at the next step close, or at
job start. -/
def execTempoPinWrite (slot : BitVec 12) (value : BitVec 64) (writer : Writer) (s : State) :
    Host.Outcome State Fault Refusal :=
  let at_ := tempoSlot slot.toNat 0x30
  match writer with
  | .endpoint => .next s
  | .firmware => .next (if s.phase = .service then s.pinWrite at_ value (BitVec.allOnes 64) .firmware else s)
  | .host => .next (if s.hostOpen at_ then s.pinWrite at_ value (BitVec.allOnes 64) .host else s)

end Sys2Proof.Machine
end

