-- ==== Sys2Proof/Machine/JobEnd.lean ====
section
/-! DEFINITION. How a job ends (08_memory R236 to R242; 07_docent_catalogue R190, R201; 12_host_interface R362 to R365;
01_five_levels R24): the order of R237, the completion record and its interrupt, the scrub. -/

namespace Sys2Proof.Machine

/-! Regions. -/

/-- Changes every entry of a region table. -/
def mapRegions (f : Region → Region) (t : Assoc Region) : Assoc Region :=
  (t.map (fun e => (e.1, f e.2))).filter (fun e => decide (e.2 ≠ {}))

/-- A region of the job that holds a handle, and one of the job that held it before and is in quarantine (R237, R350). -/
def jobRegion (h : Nat) (r : Region) : Bool := r.valid && r.owner == 0 && decide (r.job.toNat = h) && !r.quar
def quarRegion (h : Nat) (r : Region) : Bool := r.valid && r.owner == 0 && decide (r.job.toNat = h) && r.quar

/-- Zero-fills a range of the Salons and Galleries. -/
def State.zeroSram (s : State) (a len : Nat) : State :=
  { s with sram := s.sram.filter (fun c => !(decide (a ≤ c.1 ∧ c.1 < a + len))) }

/-- Changes every region table of a Salon among `cores` and every Gallery's. -/
def State.mapTables (s : State) (cores : List Nat) (f : Region → Region) : State :=
  let s := foldOver (fun (t : State) n => let c := t.core n; t.setCore n { c with regions := mapRegions f c.regions }) s cores
  foldOver (fun (t : State) h => let x := t.hall h; t.setHall h { x with regions := mapRegions f x.regions }) s [0, 1, 2, 3]

/-- The entry of a mailbox's region (R359). -/
def State.mbxRegion (s : State) (n : Nat) : Option (Nat × Nat) :=
  let a := s.fld (mbxReg n 0x08) 0 48
  let h := s.fld (mbxReg n 0x00) 2 2
  (regionFind (fun r => r.valid && r.owner == 1 && r.base == galOff a) (s.hall h).regions).map (fun x => (h, x.1))

/-- Writes the handle of a mailbox's job into its region and MBX.STAT; 0 for none (R359). -/
def State.setMbxJob (s : State) (n : Nat) (h : Half) : State :=
  let s := s.setFld (mbxReg n 0x18) 1 15 h.toNat
  match s.mbxRegion n with
  | some (g, i) => s.setRegion (256 + g) i { s.regionAt (256 + g) i with job := h }
  | none => s

/-- A released mailbox that no job holds is in quarantine until its scrub ends (R238, R242, R360); the Hall shows that scrub
under handle 0 (R245). -/
def State.freeMbx (s : State) (n : Nat) : State :=
  let s := s.setFld (mbxReg n 0x00) 0 2 2
  match s.mbxRegion n with
  | some (g, i) =>
    if (s.regionAt (256 + g) i).quar then s
    else
      let s := s.setRegion (256 + g) i { s.regionAt (256 + g) i with quar := true, job := 0 }
      let x := s.hall g
      s.setHall g { x with scrub := x.scrub ++ [(0, (s.regionAt (256 + g) i).len / 64)] }
  | none => s

/-- The Halls have no more to scrub for a handle (R245). -/
def State.endScrub (s : State) (h : Nat) : State :=
  foldOver (fun (t : State) g =>
    let x := t.hall g
    t.setHall g { x with scrub := x.scrub.filter (fun e => decide (e.1.toNat ≠ h)) }) s [0, 1, 2, 3]

/-- The scrub of the mailboxes in quarantine ends: their regions are zero and free, and they are closed (R242, R360). -/
def State.scrubMailboxes (s : State) : State :=
  let done := fun (t : State) (n : Nat) =>
    decide (t.fld (mbxReg n 0x00) 0 2 = 2) &&
      (match t.mbxRegion n with | some (g, i) => (t.regionAt (256 + g) i).quar | none => true)
  let s := foldOver (fun (t : State) n => if done t n then (t.rput (mbxReg n 0x00) 0).rput (mbxReg n 0x08) 0 else t) s (List.range 64)
  let s := foldOver (fun (t : State) g =>
    foldOver (fun (u : State) (e : Nat × Region) =>
      if e.2.valid && e.2.quar && decide (e.2.owner = 1) then
        (u.zeroSram (galBase g + e.2.base) e.2.len).setRegion (256 + g) e.1 {}
      else u) t (t.hall g).regions) s [0, 1, 2, 3]
  s.endScrub 0

/-! The numeric mode (R40, R320). -/

/-- A layer's numeric mode from the defaults at the check and its numeric-mode word: FTZ, SAT_NAN, INT_TRAP, NAN_TRAP. -/
def layerMode (defaults : DWord) (num : Word) (i : Nat) : Bool :=
  if bitAt num.toNat (8 + i) then bitAt num.toNat i else bitAt defaults.toNat i

def Job.mode (j : Job) (i : Nat) : Bool :=
  match j.layers[j.layer]? with
  | some l => layerMode j.numDef l.num i
  | none => bitAt j.numDef.toNat i

/-! The completion record (R363 to R365). -/

/-- Raises a completion ring's vector; nothing is left unsignalled. -/
def State.raiseRing (s : State) (c : Nat) : State :=
  { (s.msix (s.fld (ringReg c 0x08) 32 11)) with coal := (s.coal.filter (fun e => e.1 / 2 != c)) }

/-- Counts a record against COAL_COUNT (R365); key 2c holds the count, 2c + 1 the time of the earliest. -/
def State.coalesce (s : State) (c : Nat) : State :=
  let n := Assoc.get 0 s.coal (2 * c)
  let lim := s.fld (ringReg c 0x18) 0 16
  if lim ≤ n + 1 then s.raiseRing c
  else
    let t := if n = 0 then Assoc.insert s.coal (2 * c + 1) s.hclk else s.coal
    { s with coal := Assoc.put 0 t (2 * c) (n + 1) }

/-- A draining completion ring turns off once no slot is reserved (R352). -/
def State.drainRing (s : State) (c : Nat) : State :=
  if s.fld (ringReg c 0x20) 0 2 = 2 ∧ s.fld (ringReg c 0x20) 16 16 = 0 then
    (s.setFld (ringReg c 0x20) 0 2 0).setFld (ringReg c 0x08) 0 1 0
  else s

/-- The bytes of a completion record (R363, R364). -/
def recordBytes (j : Job) (seq size : Nat) (status code : Half) (iaddr : Word) (unit aux : Half) (flags : Nat) : List Byte :=
  leBytes 8 j.jobId.toNat ++ leBytes 4 seq ++ leBytes 2 status.toNat ++ leBytes 2 code.toNat ++ leBytes 4 iaddr.toNat ++
    leBytes 2 unit.toNat ++ leBytes 2 aux.toNat ++ leBytes 4 flags ++ leBytes 3 0 ++ [BitVec.ofNat 8 ((seq / size + 1) % 2 * 128)]

/-- Writes a job's completion record into its reserved slot, and its interrupt (R24, R364, R365). -/
def State.writeRecord (s : State) (h : Nat) (j : Job) (status code : Half) (iaddr : Word) (unit aux : Half) : State :=
  let c := j.cring
  let size := 2 ^ s.fld (ringReg c 0x08) 3 5
  let seq := s.fld (ringReg c 0x20) 32 32
  let flags := if status = 3 then 0 else j.flags.toNat
  let s := s.hostWrite ((s.rget (ringReg c 0)).toNat + seq % size * 32) (recordBytes j seq size status code iaddr unit aux flags)
  let s := s.bumpFld (ringReg c 0x10) 32 32 1
  let s := s.bumpFld (ringReg c 0x20) 32 32 1
  let s := s.setFld (ringReg c 0x20) 16 16 (s.fld (ringReg c 0x20) 16 16 - 1)
  let s := s.setFld (ringReg j.ring 0x20) 16 16 (s.fld (ringReg j.ring 0x20) 16 16 - 1)
  let s := s.setFld 0x0020 0 16 (s.fld 0x0020 0 16 - 1)
  let s := if j.noirq then s else s.coalesce c
  let s := s.drainRing c
  let s := if s.fld (vbReg 0x38) 0 1 = 1 then s.post 0x1082 5 (j.ring % 4096) (BitVec.ofNat 16 h) [j.jobId, BitVec.ofNat 64 j.ring] else s
  if status = 3 then s.bump (foy 0xD0) 1 else s

/-- What becomes of a record: written, held back until a stream is secure (R369), or not written (R366). -/
inductive RecordMode where
  | write | hold | skip
  deriving DecidableEq, Repr

/-- A job whose record is written, or will not be, leaves its handle; one that is not yet scrubbed waits for that (R237, R350). -/
def State.forget (s : State) (h : Nat) : State :=
  match s.job h with
  | some j =>
    { s with jobs := s.jobs.filter (fun e => e.1 != h), scrubs := if j.scrubbed then s.scrubs else s.scrubs ++ [(h, j)] }
  | none => s

/-- Step 6 of R237 and the job's entry among the ended jobs (R418). -/
def State.recordJob (s : State) (h : Nat) (status code : Half) (iaddr : Word) (unit aux : Half) (m : RecordMode) : State :=
  match s.job h with
  | none => s
  | some j =>
    let s := { s with ended := (s.ended ++ [({ handle := BitVec.ofNat 16 h, job := j, status := status, code := code } : Ended)]).drop (s.ended.length + 1 - 1024) }
    match m with
    | .write => (s.writeRecord h j status code iaddr unit aux).forget h
    | .hold => s.setJob h { j with pendingRec := some (status, code, iaddr, unit, aux) }
    | .skip => (s.setFld 0x0020 0 16 (s.fld 0x0020 0 16 - 1)).forget h

/-! Ending (R237). -/

/-- Step 5: the vault zeroises a job's key slots; its lines can be read under no key any more (R241, R424). -/
def State.zeroKeys (s : State) (h : Nat) (j : Job) : State :=
  { s with keySlots := s.keySlots.filter (fun e => decide (e.2.toNat ≠ h))
           hbm := s.hbm.filter (fun c => !(j.pages.contains (pageOf c.1))) }

/-- The Gallery lines of a job's regions in a Hall. -/
def State.galLines (s : State) (h g : Nat) : Nat :=
  foldOver (fun n (e : Nat × Region) => if jobRegion h e.2 then n + e.2.len / 64 else n) 0 (s.hall g).regions

/-- The Halls in which a job's scrub works. -/
def State.scrubHalls (s : State) (h : Nat) (j : Job) : List Nat :=
  [0, 1, 2, 3].filter (fun g => j.cores.any (fun n => n / 64 == g) || decide (0 < s.galLines h g))

/-- Steps 1 to 3: traffic and windows, in-flight work, the Catalogue; what the flush's additions met. -/
def State.stopJob (s : State) (h : Nat) (j : Job) (normal : Bool) : State × AddFlags :=
  let hh := BitVec.ofNat 16 h
  let s := s.closeWindows hh
  let s := { s with
    sent := s.sent.filter (fun q => !(s.xfers.any (fun x => decide (x.1 = q.xfer ∧ x.2.job = hh))))
    xfers := s.xfers.filter (fun x => decide (x.2.job ≠ hh)) }
  let s := foldOver (fun (t : State) n =>
    let c := t.core n
    t.setCore n { c with running := false, halting := false, queue := [], waits := [], checkNow := none, checkQ := [] }) s j.cores
  let s := foldOver (fun (t : State) g =>
    let x := t.hall g
    t.setHall g { x with barriers := x.barriers.filter (fun b => decide (b.job ≠ hh))
                         stages := x.stages.filter (fun b => decide (b.job ≠ hh)) }) s [0, 1, 2, 3]
  foldOver (fun (a : State × AddFlags) g =>
    let mine := (a.1.hall g).regs.filter (fun r => decide (r.job = hh))
    let p := fun (e : CatEntry) => mine.any (fun r => r.tensor == e.tensor)
    let r := if normal then let q := a.1.flush g (j.mode 0) p h; (q.1, a.2.or q.2) else (a.1.discard g p h, a.2)
    let x := r.1.hall g
    let t := r.1.setHall g { x with regs := x.regs.filter (fun r => decide (r.job ≠ hh)) }
    (t.setFld (hallCat g 0) 16 9 (t.hall g).regs.length, r.2)) (s, {}) [0, 1, 2, 3]

/-- Step 4: quarantine; the mailbox is released, Tempo and Docent slots are left (R117, R190, R238, R359). -/
def State.quarantine (s : State) (h : Nat) (j : Job) : State :=
  let hh := BitVec.ofNat 16 h
  let s := s.mapTables j.cores (fun r => if jobRegion h r then { r with quar := true } else r)
  let s := foldOver (fun (t : State) g =>
    let x := t.hall g
    t.setHall g { x with scrub := x.scrub ++ [(hh, t.galLines h g)] }) s (s.scrubHalls h j)
  let s := if j.mbx < 64 then
      let t := s.setMbxJob j.mbx 0
      if t.fld (mbxReg j.mbx 0x00) 0 2 = 2 then t.freeMbx j.mbx else t
    else s
  let recs := (j.layers.flatMap (fun l => l.tempos)).eraseDups
  let s := foldOver (fun t r => t.leaveTempo j r) s recs
  foldOver (fun (t : State) n =>
    let t := foldOver (fun t o => t.rput (docentSlot n o) 0) t [0x00, 0x08, 0x10]
    t.setDocX n {}) s j.docSlots

/-- A running job ends (R237, R238): steps 1 to 6; the scrub of step 7 is under way. A normal completion whose flush
saturates or makes a NaN under a trap faults (R89, R106, R201). -/
def State.endRunning (s : State) (h : Nat) (j : Job) (status code : Half) (iaddr : Word) (unit aux : Half) (m : RecordMode) :
    State :=
  let r := s.stopJob h j (status == 0)
  let t := r.1
  let t := t.jobFlags (BitVec.ofNat 16 h) ((if r.2.sat then flagIntSat else 0) ||| (if r.2.nan then flagNaN else 0))
  let v := if status = 0 ∧ r.2.sat = true ∧ j.mode 2 = true then (1, codeIntOverflow)
    else if status = 0 ∧ r.2.nan = true ∧ j.mode 3 = true then (1, codeNanTrap) else (status, code)
  let t := t.quarantine h j
  let t := t.setFld 0x0020 16 16 (t.fld 0x0020 16 16 - 1)
  let t := t.zeroKeys h j
  let t := match t.job h with | some k => t.setJob h { k with phase := .ended } | none => t
  t.recordJob h v.1 v.2 iaddr unit aux m

/-- What the loader allocated for a job that never started goes back (R335, R362). -/
def State.freeAlloc (s : State) (h : Nat) (j : Job) : State :=
  let s := foldOver (fun (t : State) g =>
    foldOver (fun (u : State) (e : Nat × Region) =>
      if jobRegion h e.2 then (u.zeroSram (galBase g + e.2.base) e.2.len).setRegion (256 + g) e.1 {} else u) t (t.hall g).regions)
    s [0, 1, 2, 3]
  let s := s.zeroKeys h j
  foldOver (fun t p => t.setPage p { t.page p with job := 0, clsW := false, keySlot := 0 }) s j.pages

/-- A job that has not started ends: nothing of it runs and nothing is scrubbed (R336, R362). -/
def State.endWaiting (s : State) (h : Nat) (j : Job) (status code : Half) (iaddr : Word) (unit aux : Half) (m : RecordMode) :
    State :=
  let s := s.freeAlloc h j
  let s := s.setJob h { j with phase := .ended, scrubbed := true }
  s.recordJob h status code iaddr unit aux m

/-- Ends job `h` with a status, a code and a locus; a job at or after step 4 is past it. -/
def State.endJob (s : State) (h : Nat) (status code : Half) (iaddr : Word) (unit aux : Half) (m : RecordMode) : State :=
  match s.job h with
  | none => s
  | some j =>
    match j.phase with
    | .ended => s
    | .running => s.endRunning h j status code iaddr unit aux m
    | _ => s.endWaiting h j status code iaddr unit aux m

/-! The scrub (R236 to R241). -/

/-- The core of an ended job, zero: its counters and what no quarantine covers stay (R238). -/
def CoreSt.scrubbed (c : CoreSt) (h : Nat) : CoreSt :=
  { winC := c.winC, winN := c.winN, winDiv := c.winDiv, provCount := c.provCount, provS := c.provS, provDraw := c.provDraw,
    regions := mapRegions (fun r => if quarRegion h r then {} else r) c.regions }

def State.scrubCore (s : State) (h n : Nat) : State :=
  let s := s.setCore n ((s.core n).scrubbed h)
  let s := s.rput (coreReg n 0xD8) 0
  let s := foldOver (fun t f => t.rput (fstate n f) 0) s (List.range 4)
  s.zeroSram (salonBase n) (2 ^ 22)

/-- The ended job whose memories are in quarantine under a handle: one whose record is written, or one whose record waits. -/
def State.quarJob (s : State) (h : Nat) : Option Job :=
  match s.scrubs.find? (fun e => e.1 == h) with
  | some e => some e.2
  | none => (s.job h).filter (fun j => decide (j.phase = .ended) && !j.scrubbed)

/-- The scrub under a handle is done: the job is no more, or only its record waits (R369). -/
def State.endQuar (s : State) (h : Nat) : State :=
  match s.scrubs.find? (fun e => e.1 == h) with
  | some e => { s with scrubs := s.scrubs.erase e }
  | none =>
    match s.job h with
    | some j => s.setJob h { j with scrubbed := true }
    | none => s

/-- The scrub of the job that ended under handle `h` completes: memories zero, clusters and regions free, pages free or queued for
the background scrub (R237 step 7, R241). -/
def State.scrubJob (s : State) (h : Nat) : State :=
  match s.quarJob h with
  | none => s
  | some j =>
    let s := foldOver (fun t n => t.scrubCore h n) s j.cores
    let s := foldOver (fun (t : State) g =>
      foldOver (fun (u : State) (e : Nat × Region) =>
        if quarRegion h e.2 then (u.zeroSram (galBase g + e.2.base) e.2.len).setRegion (256 + g) e.1 {} else u) t (t.hall g).regions)
      s [0, 1, 2, 3]
    let s := foldOver (fun (t : State) g => t.scrubCat g h) s [0, 1, 2, 3]
    let s := s.endScrub h
    let s := foldOver (fun (t : State) c =>
      if bitAt j.mapped.toNat c then
        let x := t.cluster c
        (t.setCluster c { x with job := 0, events := [], skipped := [] }).setFld (cluReg c 0x50) 44 1 0
      else t) s (List.range 32)
    let s := foldOver (fun t p => t.setPage p { t.page p with job := 0, clsW := false, keySlot := 0 }) s j.pages
    let s := if s.fld (foy 0xB8) 0 1 = 1 then { s with scrubPages := foldOver (fun l p => insertNat p l) s.scrubPages j.pages } else s
    s.endQuar h

/-! Events. -/

/-- JOB_COMPLETE: the last result write of a running job is visible (R237), and what its windows admitted has landed (R396). -/
def execJobComplete (handle : Half) (s : State) : Host.Outcome State Fault Refusal :=
  match s.job handle.toNat with
  | some j =>
    let last := decide (j.layer + 1 = j.layers.length) && (match j.jd with | some d => decide (j.step + 1 = d.reps) | none => false)
    if j.phase = .running ∧ (last && decide (j.layerDone = j.mapped) && !j.measure) = true ∧
        (s.reports.any (fun r => decide (r.job = handle))) = false ∧
        (s.arrivals.any (fun a => decide ((s.arrivalWin a).job = handle))) = false then
      .next (s.endJob handle.toNat 0 0 0 0 0 .write)
    else .next s
  | none => .next s

/-- Writes a report that its job's record does not carry to the Visitor Book (R270). -/
def State.otherReport (s : State) (r : Report) : State :=
  s.postFault r.code 0 0 r.job r.iaddr r.unit r.aux 1 r.extra

/-- The Foyer takes the reports that arrive in one HCLK: of each running job the one with the lowest unit ends it, and
every other goes to the Visitor Book (R270), as does one with values that the record does not hold (R354, R489). -/
def State.takeReports (s : State) (rs : List Report) : State :=
  let jobs := (rs.map (fun r => r.job)).eraseDups
  foldOver (fun (t : State) h =>
    let mine := rs.filter (fun r => decide (r.job = h))
    match t.job h.toNat with
    | some j =>
      if j.phase = .running then
        match mine with
        | [] => t
        | r :: q =>
          let best := foldOver (fun (b : Report) c => if c.unit.toNat < b.unit.toNat then c else b) r q
          let t := if best.extra.isEmpty then t else t.otherReport best
          let t := t.endJob h.toNat 1 best.code best.iaddr best.unit best.aux .write
          foldOver (fun u c => u.otherReport c) t (mine.erase best)
      else foldOver (fun u c => u.otherReport c) t mine
    | none => foldOver (fun u c => u.otherReport c) t mine) s jobs

/-- FAULT_REPORT: the first `count` reports on their way reach the Foyer in one HCLK (R270). -/
def execFaultReport (count : Nat) (s : State) : Host.Outcome State Fault Refusal :=
  .next ({ s with reports := s.reports.drop count }.takeReports (s.reports.take count))

/-- SCRUB_COMPLETE: the scrub of an ended job ends, or, under handle 0, that of the mailboxes in quarantine (R240, R242). -/
def execScrubComplete (handle : Half) (s : State) : Host.Outcome State Fault Refusal :=
  .next (if handle = 0 then s.scrubMailboxes else s.scrubJob handle.toNat)

/-- HBM_PAGE_SCRUB_DONE: the background scrub returns a page (R241). -/
def execHbmPageScrubDone (page : Nat) (s : State) : Host.Outcome State Fault Refusal :=
  .next { s with scrubPages := s.scrubPages.filter (fun p => p != page) }

/-- COALESCE_TIMEOUT: COAL_TIME has passed since the earliest record that has not been signalled (R365). -/
def execCoalesceTimeout (ring : BitVec 14) (s : State) : Host.Outcome State Fault Refusal :=
  let c := ring.toNat
  let us := max 1 (s.fld (ringReg c 0x18) 16 16)
  if 0 < Assoc.get 0 s.coal (2 * c) ∧ Assoc.get 0 s.coal (2 * c + 1) + 600 * us ≤ s.hclk then .next (s.raiseRing c)
  else .next s

end Sys2Proof.Machine
end

