-- ==== Sys2Proof/Machine/Links.lean ====
section
/-! DEFINITION. Tabey links and the Courier's events (13_tabey_links R370 to R404; 17_module R481, R482, R497): the link states,
flits and their replay, forwarding, answers, resends, heartbeats and the reachability test. -/

namespace Sys2Proof.Machine

/-! Link states (R371, R377, R378). -/

/-- The connector of a link (R475). -/
def connectorOf (l : Nat) : Nat := l / 4

/-- Whether a link may train: LINK_EN, a cable with a supported medium, its eFuse on, and a device that is not held back
(R371, R449, R481, R482, R498). -/
def State.linkAllowed (s : State) (l : Nat) : Bool :=
  let c := s.rget (cableReg (connectorOf l))
  decide (s.fld (foy 0x108) l 1 = 1) && decide (fget c 0 1 = 1 ∧ fget c 1 2 = 0 ∧ (fget c 4 3 = 1 ∨ fget c 4 3 = 2)) &&
    s.defaultsOn && (decide (s.phase = .booting) || decide (s.phase = .service))

/-- The causes of event 0x1030 by index: none, the conditions of R377 in their order, then R455, R446 and LINK_EN. -/
def causeCode : DownCause → Nat
  | .laneLoss => 1
  | .fecErrors => 2
  | .tagErrors => 3
  | .resends => 4
  | .pll => 5
  | .inventory => 6
  | .disabled => 7

/-- A link takes a new state, recorded as event 0x1030. -/
def State.setLinkState (s : State) (l st cause : Nat) : State :=
  if s.linkState l = st then s
  else (s.setFld (linkReg l 0) 0 3 st).post 0x1030 4 l 0 [BitVec.ofNat 64 st, Config.linkCause cause]

/-- The transfers whose destination has no usable choice left fail (R385). -/
def State.failRouteless (s : State) : State :=
  let lost := s.xfers.filter (fun x => s.sent.any (fun q => q.xfer == x.1 && !(s.isSelf q.hdr.dest.toNat) &&
    decide (q.hdr.dest.toNat = x.2.dest) && (s.route x.2.dest x.2.used).isNone))
  foldOver (fun t (x : Nat × Xfer) => t.failXfer x.1) s lost

/-- The NO_ROUTE notice of a dropped packet: its header back to its SRC (R381, R385). -/
def noRouteHdr (p : PktHdr) : PktHdr := { p with dest := p.src, src := p.dest, type := 7, hops := 0 }

/-- A packet of another device goes to the route for its DEST, or is dropped and counted; its SRC hears of a request or response
(R381). -/
def State.passOn (s : State) (w : WaitPkt) : State :=
  match (if s.assigned then s.route w.hdr.dest.toNat 0 else none) with
  | some (_, l) => s.linkQueue l w
  | none =>
    let s := (s.bump (foy 0x0120) 1).giveCredit w.held w.data.length
    if vcOf w.hdr = 2 then s else s.answerTo (noRouteHdr w.hdr) []

/-- Types that ask something of an owner (R382). -/
def isRequest (p : PktHdr) : Bool := decide (p.type = 0 ∨ p.type = 1 ∨ p.type = 3 ∨ p.type = 4)

/-- A packet that waited for a link that is lost moves with its route entry, to a choice that its transfer has left (R380, R385); a
packet of this device without a route is gone, and its transfer fails. -/
def State.moveOn (s : State) (w : WaitPkt) : State :=
  let mine := fun (q : SentPkt) => isRequest w.hdr && decide (q.hdr.dest = w.hdr.dest ∧ q.hdr.seq = w.hdr.seq)
  match w.held with
  | some _ => s.passOn w
  | none =>
    match (if s.assigned then s.route w.hdr.dest.toNat (((s.sent.find? mine).map (fun q => s.firstChoice q.xfer)).getD 0) else none) with
    | some (k, l) => { s with sent := s.sent.map (fun q => if mine q then { q with choice := k } else q) }.linkQueue l w
    | none => s

/-- A link leaves routing: its replay buffer is abandoned, the packets that waited for it move to other links (R377, R380). -/
def State.leaveRouting (s : State) (l : Nat) : State :=
  let x := s.link l
  let s := s.setLink l { rxNext := x.rxNext, txNext := x.txNext, txKey := x.txKey, rxKey := x.rxKey }
  (foldOver (fun t w => t.moveOn w) s x.waiting).failRouteless

/-- A link goes Down (R377). -/
def State.linkDown (s : State) (l cause : Nat) : State :=
  ((s.setLinkState l 1 cause).bump (linkReg l 0x28) 1).leaveRouting l

/-- A link is held Disabled. -/
def State.linkOff (s : State) (l : Nat) : State := (s.setLinkState l 0 7).leaveRouting l

/-- Every link is held Disabled (R449). -/
def State.holdLinks (s : State) : State :=
  foldOver (fun t l => if t.linkState l = 0 then t else t.linkOff l) s (List.range 32)

/-- A link begins training; LINK.PEER is no longer valid (R497). -/
def State.linkTrain (s : State) (l : Nat) : State :=
  let s := (s.setLinkState l 2 0).setFld (linkReg l 0x40) 31 1 0
  s.setFld (foy 0x600) (12 + l) 1 1

/-- Links follow LINK_EN and their cables: a link that may no longer train is Disabled, a Disabled one that may trains. -/
def State.updateLinks (s : State) : State :=
  foldOver (fun (t : State) l =>
    if t.linkAllowed l then (if t.linkState l = 0 then t.linkTrain l else t)
    else if t.linkState l = 0 then t else t.linkOff l) s (List.range 32)

/-- LINK_TRAINING_DONE: training ends with the lane each marker arrived on and the inverted lanes (R371). -/
def execLinkTrainingDone (link : Fin 32) (lanes : List Nat) (polarity : BitVec 16) (s : State) :
    Host.Outcome State Fault Refusal :=
  let l := link.val
  if s.linkState l ≠ 2 then .next s
  else
    let straight := decide (lanes = List.range 16)
    let reversed := decide (lanes = (List.range 16).reverse)
    if straight || reversed then
      let s := s.setFld (linkReg l 0) 3 1 (if reversed then 1 else 0)
      let s := (s.setFld (linkReg l 0) 5 1 0).setFld (linkReg l 0) 16 16 polarity.toNat
      .next (s.setLinkState l 3 0)
    else .next ((s.setFld (linkReg l 0) 5 1 1).linkDown l 0)

/-- LINK_AUTHENTICATE: the identity exchange names the peer, or fails (R373, R430). -/
def execLinkAuthenticate (link : Fin 32) (peer : Option (BitVec 12 × BitVec 5)) (s : State) :
    Host.Outcome State Fault Refusal :=
  let l := link.val
  if s.linkState l ≠ 3 ∨ s.identity = false then .next s
  else
    match peer with
    | none =>
      .next (((s.setFld (linkReg l 0) 4 1 1).post 0x1031 4 l 0 [0xFFFF#64]).linkDown l 0)
    | some (d, n) =>
      let s := s.setFld (linkReg l 0) 4 1 0
      let s := s.rput (linkReg l 0x40) (BitVec.ofNat 64 (d.toNat + n.toNat * 2 ^ 16 + 2 ^ 31))
      let x := s.link l
      let s := s.setLink l { txKey := x.txKey + 1, rxKey := x.rxKey + 1 }
      .next (s.setLinkState l 4 0)

/-- LINK_SOAK_END: 100 ms have passed in Soak (R371). -/
def execLinkSoakEnd (link : Fin 32) (s : State) : Host.Outcome State Fault Refusal :=
  .next (if s.linkState link.val = 4 then s.setLinkState link.val 5 0 else s)

/-- LINK_DOWN_EVENT: a condition of R377 holds, or LINK_EN or the cable is gone. -/
def execLinkDownEvent (link : Fin 32) (cause : DownCause) (s : State) : Host.Outcome State Fault Refusal :=
  let l := link.val
  if s.linkState l ≤ 1 then .next s
  else
    match cause with
    | .disabled => .next (if s.linkAllowed l then s else s.linkOff l)
    | .pll => .next ((s.setFld (foy 0x600) (12 + l) 1 0).linkDown l (causeCode cause))
    | _ => .next (s.linkDown l (causeCode cause))

/-- LINK_RETRAIN: 1 s after going Down, or after a failed attempt, training starts again (R378). -/
def execLinkRetrain (link : Fin 32) (s : State) : Host.Outcome State Fault Refusal :=
  .next (if s.linkState link.val = 1 && s.linkAllowed link.val then s.linkTrain link.val else s)

/-- LINK_REKEY: a direction takes a fresh key (R373). -/
def execLinkRekey (link : Fin 32) (tx : Bool) (s : State) : Host.Outcome State Fault Refusal :=
  let l := link.val
  if 4 ≤ s.linkState l then
    let x := s.link l
    .next (s.setLink l (if tx then { x with txKey := x.txKey + 1 } else { x with rxKey := x.rxKey + 1 }))
  else .next s

/-! Flits (R374, R375). -/

/-- The flits that are left when an ACKSEQ, or the last FSEQ that a NAK accepts, has covered a replay buffer. -/
def afterAck (f : Half) (l : List Half) : List Half := if l.contains f then (l.dropWhile (fun x => x != f)).drop 1 else l

/-- An ACKSEQ covers the flits of the replay buffer up to it (R375). -/
def State.linkAcked (s : State) (l : Nat) (f : Half) : State :=
  let x := s.link l
  let rest := afterAck f x.replay
  s.setLink l { x with replay := rest, resent := x.resent.filter (fun e => rest.any (fun g => g.toNat == e.1)) }

/-- The neighbour returns credits of a class (R374, R376). -/
def State.creditBack (s : State) (l : Nat) (cls n : Nat) : State :=
  let x := s.link l
  s.setLink l { x with spent := Assoc.modify 0 x.spent cls (fun k => k - n) }

/-- The sender resends everything after the acknowledged flit; a flit resent 8 times takes the link Down (R375, R377). -/
def State.resendFlits (s : State) (l : Nat) (fseq : Half) : State :=
  let x := s.link l
  let rest := afterAck fseq x.replay
  let resent := rest.map (fun f => (f.toNat, Assoc.get 0 x.resent f.toNat + 1))
  let s := s.setLink l { x with replay := rest, resent := foldOver (fun t e => Assoc.put 0 t e.1 e.2) [] resent }
  let s := s.bump (linkReg l 0x20) rest.length
  if resent.any (fun e => decide (8 ≤ e.2)) then s.linkDown l 4 else s

/-- What the header of an accepted flit says: its acknowledgement or NAK, and its credits, with which waiting packets go (R374 to
R376). -/
def State.takeHeader (s : State) (l : Nat) (h : FlitHdr) : State :=
  let s := if h.nak then s.resendFlits l h.ackseq else s.linkAcked l h.ackseq
  (s.creditBack l h.cls.toNat h.credits.toNat).linkPump l

/-- FLIT_RECEIVE: a flit is accepted in order, or answered with a NAK; after a NAK later flits are discarded until the
resend arrives. -/
def execFlitReceive (link : Fin 32) (hdr : FlitHdr) (fecOk tagOk : Bool) (s : State) : Host.Outcome State Fault Refusal :=
  let l := link.val
  let fseq := hdr.fseq
  if s.linkState l < 4 then .next s
  else
    let x := s.link l
    let nak := fun (t : State) => (t.setLink l { x with nakked := true }).give (.flitNak l (x.rxNext - 1))
    if !fecOk then .next (nak (s.bump (linkReg l 0x10) 1))
    else if !tagOk then .next (nak (s.bump (linkReg l 0x18) 1))
    else if fseq = x.rxNext then
      let s := s.setLink l { x with rxNext := x.rxNext + 1, nakked := false }
      .next (((s.bump (linkReg l 0x38) 1).give (.flitAck l fseq)).takeHeader l hdr)
    else if x.nakked then .next s
    else .next (nak s)

/-- NAK_RESEND: the sender resends everything after the acknowledged flit; a flit resent 8 times takes the link Down (R375,
R377). -/
def execNakResend (link : Fin 32) (fseq : BitVec 16) (s : State) : Host.Outcome State Fault Refusal :=
  .next (if s.linkState link.val < 4 then s else s.resendFlits link.val fseq)

/-! Packets (R381 to R389). -/

/-- Whether the bytes that come with a header are as many as it says (R382); a GET request carries none. -/
def hdrFits (p : PktHdr) (data : List Byte) : Bool :=
  if p.type = 0 ∨ p.type = 2 ∨ p.type = 3 ∨ p.type = 4 then decide (data.length = p.bytes.toNat + 1) else data.isEmpty

/-- Whether a link carries a packet: an Up link any, a link in Soak the control packets of VC2 (R372). -/
def State.carries (s : State) (l : Nat) (p : PktHdr) : Bool :=
  s.linkUp l || (decide (s.linkState l = 4) && decide (vcOf p = 2))

/-- The Hall of a link. -/
def linkHall (l : Nat) : Nat := l / 8

/-- A packet that ends here leaves the receive buffer of its link (R376). -/
def State.consumed (s : State) (l : Nat) (p : PktHdr) (len : Nat) : State := s.giveCredit (some (l, classOf p)) len

/-- The owner judges a request that came in by a link, answers it, and the receive buffer is free again unless the packet waits
for a tag (R229, R376, R386). -/
def State.takeRequest (s : State) (l : Nat) (hdr : PktHdr) (data : List Byte) : State :=
  let r := s.judge (linkHall l) (some l) hdr data
  let waits := r.1.arrivals.any (fun a => decide (a.hdr.src = hdr.src ∧ a.hdr.seq = hdr.seq))
  let t := match r.2 with
    | none => r.1
    | some (c, f, d) => r.1.answerTo (answerHdr hdr c f d) d
  if waits then t else t.consumed l hdr data.length

/-- The packets that wait for a tag examine it again (R229). -/
def State.retryArrivals (s : State) : State :=
  foldOver (fun (t : State) (a : Arrival) =>
    match a.link with
    | some l => t.takeRequest l a.hdr a.data
    | none => t) s s.arrivals

/-- PACKET_ARRIVAL: a request for this device comes in by a link; the owner's Hall checks it, lands it and answers
(R383, R386, R394); a second copy of one that waits for a tag is gone, and the tags are examined again. An error that gives the
Courier's read no data leaves the packet unanswered (R232). -/
def execPacketArrival (link : Fin 32) (hdr : PktHdr) (data : PktData) (s : State) : Host.Outcome State Fault Refusal :=
  let ecc := data.ecc
  let data := data.bytes
  if !(hdrFits hdr data) then .fault .malformed
  else if !(s.carries link.val hdr) || !(s.isSelf hdr.dest.toNat) || !(isRequest hdr) then .next s
  else
    if (s.waitingPkt hdr).isSome then .next (s.retryArrivals.consumed link.val hdr data.length)
    else
    let job := match s.packetJob hdr with | .ok j => BitVec.ofNat 16 j.1 | .error _ => 0
    let r := s.eccDma (64 * linkHall link.val) (BitVec.ofNat 16 (linkHall link.val)) job ecc
    .next (if r.2 then r.1.takeRequest link.val hdr data else r.1.consumed link.val hdr data.length)

/-- PACKET_FORWARD: a packet for another device goes on over this device's route, or is dropped (R379, R381). -/
def execPacketForward (link : Fin 32) (hdr : PktHdr) (data : List Byte) (s : State) : Host.Outcome State Fault Refusal :=
  if !(hdrFits hdr data) then .fault .malformed
  else if !(s.carries link.val hdr) || s.isSelf hdr.dest.toNat then .next s
  else if hdr.hops.toNat < 7 then
    .next (s.passOn ⟨{ hdr with hops := hdr.hops + 1 }, data, some (link.val, classOf hdr)⟩)
  else
    let s := (s.bump (foy 0x0120) 1).consumed link.val hdr data.length
    .next (if vcOf hdr = 2 then s else s.answerTo (noRouteHdr hdr) [])

/-- COMPLETION_RECEIVE: a completion acknowledges its SEQ and every earlier one of the pair (R383, R386, R389). -/
def execCompletionReceive (link : Fin 32) (hdr : PktHdr) (s : State) : Host.Outcome State Fault Refusal :=
  if s.carries link.val hdr = true ∧ s.isSelf hdr.dest.toNat = true ∧ hdr.type = 5 then
    .next ((s.answered hdr.src hdr.seq hdr.status { sat := hdr.intSat, nan := hdr.nanSeen }).consumed link.val hdr 0)
  else .next s

/-- GET_DATA_RECEIVE: GET data lands in LOCAL (R388). -/
def execGetDataReceive (link : Fin 32) (hdr : PktHdr) (data : List Byte) (s : State) : Host.Outcome State Fault Refusal :=
  if !(hdrFits hdr data) then .fault .malformed
  else if s.carries link.val hdr = true ∧ s.isSelf hdr.dest.toNat = true ∧ hdr.type = 2 then
    .next ((s.gotData hdr.src hdr.seq data).consumed link.val hdr data.length)
  else .next s

/-- The Hall that sent a packet. -/
def State.sentHall (s : State) (q : SentPkt) : Nat :=
  match s.xfers.find? (fun x => x.1 == q.xfer) with
  | some x => x.2.core / 64
  | none => 0

/-- NO_ROUTE_RECEIVE: the source resends through the next usable choice, or the transfer fails (R385). -/
def execNoRouteReceive (link : Fin 32) (hdr : PktHdr) (s : State) : Host.Outcome State Fault Refusal :=
  if s.carries link.val hdr && s.isSelf hdr.dest.toNat && decide (hdr.type = 7) then
    let s := s.consumed link.val hdr 0
    match s.sent.find? (fun q => decide (q.hdr.dest = hdr.src ∧ q.hdr.seq = hdr.seq)) with
    | some q => .next ((s.useChoice q.xfer q.choice).resendPkt (s.sentHall q) q)
    | none => .next s
  else .next s

/-- The unacknowledged packets of a Hall to other devices. -/
def State.openPkts (s : State) (hall : Nat) : List SentPkt :=
  s.sent.filter (fun q => s.sentHall q == hall && !(s.isSelf q.hdr.dest.toNat) && decide (0 < q.sends))

/-- Puts packets in SEQ order. -/
def seqInsert (q : SentPkt) : List SentPkt → List SentPkt
  | [] => [q]
  | r :: t => if seqBefore q.hdr.seq r.hdr.seq then q :: r :: t else r :: seqInsert q t

/-- E2E_TIMEOUT: every pair of a Hall with a packet that has gone unacknowledged for E2E_TIMEOUT resends all its packets in
SEQ order (R384, R385). -/
def execE2eTimeout (hall : Fin 4) (s : State) : Host.Outcome State Fault Refusal :=
  let lim := 600 * s.fld (foy 0x0108) 32 16
  let pkts := s.openPkts hall.val
  let pairs := ((pkts.filter (fun q => decide (q.since + lim ≤ s.hclk))).map (fun q => q.hdr.dest)).eraseDups
  .next (foldOver (fun (t : State) d =>
    foldOver (fun (u : State) q => u.resendPkt hall.val q) t
      (foldOver (fun l q => seqInsert q l) [] (pkts.filter (fun q => decide (q.hdr.dest = d))))) s pairs)

/-! Peer sets (R397 to R403). -/

/-- The other members of a peer set. -/
def State.otherMembers (s : State) (id : Word) : List Nat :=
  match s.peerSet id with
  | some n => (List.range 4096).filter (fun d => s.peerMember n d && !(s.isSelf d))
  | none => []

/-- The running collective jobs. -/
def State.collective (s : State) : List (Nat × Job) := s.running.filter (fun j => decide (j.2.peerset ≠ 0))

def heartbeatHdr (node d : Nat) (j : Job) (h : Nat) : PktHdr :=
  { dest := BitVec.ofNat 12 d, type := 6, src := BitVec.ofNat 12 node, hops := 0, seq := 0, peerset := j.peerset,
    epoch := j.epoch, window := 0, job := BitVec.ofNat 16 h, offset := 0, bytes := 0, atype := false, ftz := false, spf := 0,
    fmt := 0, index := 0, count := 0, status := 0, intSat := false, nanSeen := false, ordOff := 0, ordLen := 0 }

/-- HEARTBEAT_SEND: a heartbeat to every other member of a running collective job's peer set (R400). -/
def execHeartbeatSend (s : State) : Host.Outcome State Fault Refusal :=
  .next (foldOver (fun (t : State) (j : Nat × Job) =>
    foldOver (fun (u : State) d => u.answerTo (heartbeatHdr u.node d j.2 j.1) []) t (t.otherMembers j.2.peerset)) s s.collective)

/-- HEARTBEAT_RECEIVE: a heartbeat renews its sender's reachability for every running job whose peer set holds it (R400). -/
def execHeartbeatReceive (link : Fin 32) (hdr : PktHdr) (data : List Byte) (s : State) : Host.Outcome State Fault Refusal :=
  let d := hdr.src.toNat
  if !(hdrFits hdr data) then .fault .malformed
  else if !(s.carries link.val hdr) || s.isSelf d || !(s.isSelf hdr.dest.toNat) || decide (hdr.type ≠ 6) then .next s
  else
    let s := s.consumed link.val hdr 0
    .next (foldOver (fun (t : State) (j : Nat × Job) =>
      if (t.otherMembers j.2.peerset).contains d then t.setJob j.1 { j.2 with heard := Assoc.insert j.2.heard d t.hclk } else t)
      s s.collective)

/-- The members of a job's peer set from which no heartbeat has arrived for 1 ms, its start counting as one (R400, R401). -/
def State.unreachable (s : State) (j : Job) : List Nat :=
  (s.otherMembers j.peerset).filter (fun d => decide (max j.startAt ((Assoc.find j.heard d).getD 0) + 600000 ≤ s.hclk))

/-- Fences a job for a partition (R401 to R403): a fault that it has reported in an earlier HCLK prevails. -/
def State.partition (s : State) (h : Nat) (lost : List Nat) : State :=
  let s := s.bump (foy 0x0110) 1
  let mine := s.reports.filter (fun r => decide (r.job.toNat = h))
  if mine.all (fun r => decide (r.sent = s.hclk)) then
    s.endJob h 4 codePartition 0 (BitVec.ofNat 16 (lost.headD 0)) (BitVec.ofNat 16 (min lost.length 65535)) .write
  else { s with reports := s.reports.filter (fun r => decide (r.job.toNat ≠ h)) }.takeReports mine

/-- REACHABILITY_TEST: the jobs with an unreachable member are fenced (R401). -/
def execReachabilityTest (s : State) : Host.Outcome State Fault Refusal :=
  .next (foldOver (fun (t : State) (j : Nat × Job) =>
    let lost := t.unreachable j.2
    if lost.isEmpty then t else t.partition j.1 lost) s s.collective)

end Sys2Proof.Machine
end

