-- ==== Sys2Proof/Machine/MemoryEvents.lean ====
section
/-! DEFINITION. Events of the memories: tag time-outs (08_memory R228), the window of corrected-error entries (R231), and the
gating and power-up of memory units (R14, R235, R236; 16_clocks_power_thermal R466). -/

namespace Sys2Proof.Machine

/-- TAG_TIMEOUT: the check of R228, once per µs. The packets that wait for a tag examine it again, and are refused past their
limit (R229); a wait of core `core` past the limit faults. -/
def execTagTimeout (core : Fin 256) (s : State) : Host.Outcome State Fault Refusal :=
  let n := core.val
  let s := s.retryArrivals
  let lim := max 1 (s.fld (foy 0x00B0) 0 32)
  match (s.core n).waits.find? (fun w => w.timed && decide (w.since + 600 * lim < s.hclk)) with
  | some w => .next (s.coreFault n w.iaddr codeTagTimeout w.aux)
  | none => .next s

/-- CE_LOG_WINDOW: a Hall's window of 1 ms ends and its limit of entries starts again (R231). -/
def execCeLogWindow (hall : Fin 4) (s : State) : Host.Outcome State Fault Refusal :=
  .next (s.setHall hall.val { s.hall hall.val with ceEntries := 0 })

/-! Gating. -/

def State.groupGated (s : State) (h g : Nat) : Bool := bitAt (s.rget (hallMem h 0x30)).toNat g
def State.clusterGated (s : State) (c : Nat) : Bool := bitAt (s.rget (foy 0x0008)).toNat (32 + c)
def State.salonGated (s : State) (n : Nat) : Bool := s.salonGate.contains n

/-- Whether a fence until the next power cycle holds a cluster (R440). -/
def State.clusterPermanent (s : State) (c : Nat) : Bool :=
  bitAt (s.rget (foy 0x0508)).toNat c || bitAt (s.rget (foy 0x0500)).toNat (24 + c / 8)

/-- The bank groups of a Gallery in which a range lies. -/
def groupsOf (off len : Nat) : List Nat :=
  if len = 0 then [] else (List.range ((off + len - 1) / 2 ^ 22 - off / 2 ^ 22 + 1)).map (fun i => off / 2 ^ 22 + i)

/-- A cluster's memories are zero after power-up (R236). -/
def State.zeroCluster (s : State) (c : Nat) : State :=
  foldOver (fun t i => t.scrubCore 0 (8 * c + i)) s (List.range 8)

/-- UNIT_POWER_UP: a gated unit powers up with every word zero; an HBM stack leaves self-refresh with its contents (R14,
R236, R466). -/
def execUnitPowerUp (unit : PowerUnit) (s : State) : Host.Outcome State Fault Refusal :=
  match unit with
  | .bankGroup h g =>
    if s.groupGated h.val g.val then
      .next ((s.setFld (hallMem h.val 0x30) g.val 1 0).zeroSram (galBase h.val + g.val * 2 ^ 22) (2 ^ 22))
    else .next s
  | .salon n =>
    if s.salonGated n.val then
      .next ({ s with salonGate := s.salonGate.filter (fun m => m != n.val) }.zeroSram (salonBase n.val) (2 ^ 22))
    else .next s
  | .cluster c =>
    if s.clusterGated c.val && !(s.clusterPermanent c.val) && decide (s.phase ≠ .safe) then
      .next ((s.setFld (foy 0x0008) (32 + c.val) 1 0).zeroCluster c.val)
    else .next s
  | .stack k => .next { s with selfRefresh := BitVec.ofNat 8 (bitsPut s.selfRefresh.toNat k.val 1 0) }

/-- Whether no region but a firmware area lies in an SRAM range (R235). -/
def regionsClear (t : Assoc Region) (base len : Nat) : Bool :=
  t.all (fun e => !e.2.valid || decide (e.2.owner = 2) || decide (e.2.base + e.2.len ≤ base ∨ base + len ≤ e.2.base))

def State.coreClear (s : State) (n : Nat) : Bool :=
  regionsClear (s.core n).regions 0 (2 ^ 22) && decide ((s.cluster (n / 8)).job = 0)

/-- Whether a Hall has no running job. -/
def State.hallIdle (s : State) (h : Nat) : Bool := (s.hallJobs h).isEmpty

/-- IDLE_GATE: a unit has met the conditions of R235 for GATE_DELAY_MS, and GATE_EN is 1: the Foyer gates it; a stack enters
self-refresh (R466). -/
def execIdleGate (unit : PowerUnit) (s : State) : Host.Outcome State Fault Refusal :=
  if s.fld (foy 0x0610) 16 1 = 0 then .next s
  else
    match unit with
    | .bankGroup h g =>
      if g.val ≠ 0 ∧ regionsClear (s.hall h.val).regions (g.val * 2 ^ 22) (2 ^ 22) = true then
        .next (s.setFld (hallMem h.val 0x30) g.val 1 1)
      else .next s
    | .salon n =>
      if s.coreClear n.val then .next { s with salonGate := insertNat n.val s.salonGate } else .next s
    | .cluster c =>
      if (List.range 8).all (fun i => s.coreClear (8 * c.val + i)) then .next (s.setFld (foy 0x0008) (32 + c.val) 1 1)
      else .next s
    | .stack k =>
      if s.hallIdle (k.val / 2) then .next { s with selfRefresh := BitVec.ofNat 8 (bitsPut s.selfRefresh.toNat k.val 1 1) }
      else .next s

end Sys2Proof.Machine
end

