-- ==== Sys2Proof/Machine/Sync.lean ====
section
/-! DEFINITION. The synchronisation and remote instructions (10_nupor_reference R308 to R313). -/

namespace Sys2Proof.Machine

/-- The circular slot that an instruction of core `n` names, when the job may use it, or the fault of its address (R210, R223,
R308). -/
def State.namedSlot (s : State) (n a : Nat) : Nat × Nat × Nat ⊕ Half × Half :=
  match s.accessFault n true [(a, 1)], s.slotOf a with
  | some f, _ => .inr f
  | none, none => .inr (codeRegionBounds, kindCode a)
  | none, some i => .inl i

/-- Since when an operation waits. -/
def State.waitSince (s : State) (x : Ctx) : Nat := (((s.core x.n).waitOf x.iaddr x.opcode).map (fun w => w.since)).getD s.hclk

/-- Waits until the slot of an address has the wanted tag (R308, R228). -/
def runWaitTag (full : Bool) (a : BitVec 5) (off : BitVec 48) (x : Ctx) (s : State) : Res :=
  let p := x.addr a off
  match s.namedSlot x.n p with
  | .inr f => .fail s f.1 f.2
  | .inl i =>
    if s.slotFull i == full then .done s
    else
      .wait s { iaddr := x.iaddr, opcode := x.opcode, since := s.waitSince x, aux := regionAux i.1 i.2.1, timed := true,
                onTag := true }

def workWaitf (a : BitVec 5) (off : BitVec 48) : Work :=
  { opcode := 0x70, queue := .sync, sR := [a.toNat], holds := true, run := runWaitTag true a off }

/-- WAITF waits until a slot is full (R308). -/
def execWaitf (h : NHdr) (a : BitVec 5) (off : BitVec 48) (s : State) : Host.Outcome State Fault Refusal :=
  (workWaitf a off).meets h (.waitf h a off) s

def workWaite (a : BitVec 5) (off : BitVec 48) : Work :=
  { opcode := 0x71, queue := .sync, sR := [a.toNat], holds := true, run := runWaitTag false a off }

/-- WAITE waits until a slot is empty (R308). -/
def execWaite (h : NHdr) (a : BitVec 5) (off : BitVec 48) (s : State) : Host.Outcome State Fault Refusal :=
  (workWaite a off).meets h (.waite h a off) s

def workSetf (a : BitVec 5) (state : Bool) (off : BitVec 48) : Work :=
  { opcode := 0x72, queue := .sync, sR := [a.toNat],
    run := fun x s =>
      let p := x.addr a off
      match s.namedSlot x.n p with
      | .inr f => .fail s f.1 f.2
      | .inl i => .done (s.setTag i state) }

/-- SETF sets a slot's tag (R308). -/
def execSetf (h : NHdr) (a : BitVec 5) (state : Bool) (off : BitVec 48) (s : State) : Host.Outcome State Fault Refusal :=
  (workSetf a state off).meets h (.setf h a state off) s

/-! BARRIER (R309). -/

def barrierOpcode : Nat := 0x73

/-- Marks the waiting arrivals of a Hall's barrier as released. -/
def State.releaseCores (s : State) (hall : Nat) (cores : List Nat) : State :=
  foldOver (fun t k =>
    let n := 64 * hall + k
    let c := t.core n
    t.setCore n { c with waits := c.waits.map (fun w => if w.opcode = barrierOpcode then { w with done := [1] } else w) })
    s cores

def runBarrier (id : BitVec 8) (mask : BitVec 64) (x : Ctx) (s : State) : Res :=
  let hall := x.n / 64
  let me := x.n % 64
  let job := (s.core x.n).job
  let h := s.hall hall
  let mine := fun (b : Barrier) => decide (b.job = job ∧ b.id = id.toNat)
  let wait : State → Res := fun t =>
    .wait t { iaddr := x.iaddr, opcode := x.opcode, since := s.waitSince x, aux := BitVec.ofNat 16 (id.toNat + 2 ^ 13), timed := true }
  if (((s.core x.n).waitOf x.iaddr x.opcode).map (fun w => w.done)) = some [1] then .done s
  else
    match (h.barriers.find? mine), decide (h.barriers.length < 256) with
    | none, false => wait s
    | old, _ =>
      let b : Barrier := old.getD { job := job, id := id.toNat, mask := mask, arrived := 0 }
      let b := { b with arrived := b.arrived ||| BitVec.ofNat 64 (2 ^ me) }
      let rest := h.barriers.filter (fun y => !(mine y))
      if b.arrived &&& b.mask = b.mask then
        let s := s.setHall hall { h with barriers := rest }
        .done (s.releaseCores hall ((List.range 64).filter (fun k => bitAt b.arrived.toNat k && decide (k ≠ me))))
      else wait (s.setHall hall { h with barriers := rest ++ [b] })

def workBarrier (id : BitVec 8) (mask : BitVec 64) : Work :=
  { opcode := barrierOpcode, queue := .sync, holds := true, run := runBarrier id mask }

/-- BARRIER waits for the cores of a mask in the Hall (R309). -/
def execBarrier (h : NHdr) (id : BitVec 8) (mask : BitVec 64) (s : State) : Host.Outcome State Fault Refusal :=
  (workBarrier id mask).meets h (.barrier h id mask) s

def workSignal (a : BitVec 5) (event : BitVec 16) : Work :=
  { opcode := 0x74, queue := .sync, sR := [a.toNat],
    run := fun x s =>
      let cl := s.cluster (x.n / 8)
      if 16 ≤ cl.events.length then .wait s { iaddr := x.iaddr, opcode := x.opcode, since := s.waitSince x, aux := 0, timed := false }
      else .done (s.setCluster (x.n / 8) { cl with events := cl.events ++ [(event, x.sreg a)] }) }

/-- SIGNAL posts an event to the cluster's Curator (R310). -/
def execSignal (h : NHdr) (a : BitVec 5) (event : BitVec 16) (s : State) : Host.Outcome State Fault Refusal :=
  (workSignal a event).meets h (.signal h a event) s

/-! Loan windows (R311, R393). -/

/-- The fields that a window record gives (R311). -/
def windowRecord (v : Nat) : Window :=
  { base := bitsOf v 0 48, len := bitsOf v 48 40, rights := BitVec.ofNat 3 (v / 2 ^ 88), clsW := bitAt v 91,
    spf := bitsOf v 92 4, fmt := bitsOf v 96 6 }

/-- Whether a window lies wholly inside one region of the job: a Gallery region of the Hall, or its HBM pages. -/
def State.windowFits (s : State) (hall : Nat) (job : Half) (w : Window) : Bool :=
  decide (w.base % 64 = 0 ∧ w.len % 64 = 0) &&
  match memSel w.base with
  | 0 =>
    decide (w.base + w.len ≤ 0xC000000000) &&
      (List.range (pageOf (w.base + w.len - 1) - pageOf w.base + 1)).all (fun i => decide ((s.page (pageOf w.base + i)).job = job))
  | 1 =>
    addrValid w.base && decide (galHall w.base = hall) &&
      (regionFind (fun r => r.valid && r.owner == 0 && decide (r.job = job) && !r.quar && r.covers (galOff w.base) w.len)
        (s.hall hall).regions).isSome
  | _ => false

/-- Opens a window of a job under a number: the lowest free entry of the Hall's table; none when all are open. -/
def State.openWindow (s : State) (hall job number : Nat) (j : Job) (w : Window) (isStatic : Bool) : Option (State × Window) :=
  let tbl := (s.hall hall).windows
  let held := fun (n : Nat) => (Assoc.get {} tbl n).isOpen || s.arrivals.any (fun a => a.win == (hall, n))
  match (List.range 1024).find? (fun n => !(held n)) with
  | none => none
  | some n =>
    let k := Assoc.get 0 j.winGen number
    let w := { w with isOpen := true, isStatic := isStatic, number := number, gen := k % 16, job := BitVec.ofNat 16 job,
                      epoch := j.epoch, peerset := j.peerset, refused := 0 }
    let s := s.setWindow hall n w
    some (s.setJob job { j with winGen := Assoc.put 0 j.winGen number (k + 1) }, w)

def runWopen (a b : BitVec 5) (off : BitVec 48) (x : Ctx) (s : State) : Res :=
  let p := x.addr a off
  s.transfer x { reads := [(p, 32)], writes := [], groups := some [] } (fun _ => [])
    (fun rd t =>
      let w := windowRecord (rdNat rd p 32)
      let h := (t.core x.n).job.toNat
      match t.job h with
      | none => .fail t codeRegionBounds (kindCode w.base)
      | some j =>
        if !(t.windowFits (x.n / 64) (t.core x.n).job w) then .fail t codeRegionBounds (kindCode w.base)
        else
          let used := fun (k : Nat) => (t.findWindow (fun y => y.isOpen && decide (y.job.toNat = h ∧ y.number = k))).isSome
          match (List.range 1024).find? (fun k => decide (j.winRecs.length ≤ k) && !(used k)) with
          | none => .fail t codeWindowBounds 0xFFFF
          | some k =>
            match t.openWindow (x.n / 64) h k j w false with
            | none => .fail t codeWindowBounds 0xFFFF
            | some (u, y) =>
              let old := (u.core x.n).s
              .done (u.setS x.n b (BitVec.ofNat 64 ((Assoc.get 0 old b.toNat).toNat / 2 ^ 16 * 2 ^ 16 + (handleOf y).toNat))))

def workWopen (a b : BitVec 5) (off : BitVec 48) : Work :=
  { opcode := 0x75, queue := .sync, sR := [a.toNat], sW := [b.toNat], reads := fun x => [(x.addr a off, 32)],
    run := runWopen a b off }

/-- WOPEN opens a loan window (R311). -/
def execWopen (h : NHdr) (a b : BitVec 5) (off : BitVec 48) (s : State) : Host.Outcome State Fault Refusal :=
  (workWopen a b off).meets h (.wopen h a b off) s

/-- A WCLOSE that has closed entry `n` of Hall `h` waits until every packet that the window admitted has landed (R395). -/
def closeRest (x : Ctx) (h n : Nat) (s : State) : Res :=
  if s.arrivals.any (fun a => a.win == (h, n)) then
    .wait s { iaddr := x.iaddr, opcode := x.opcode, since := s.hclk, aux := 0, timed := false, done := [h, n] }
  else .done s

def runWclose (a : BitVec 5) (x : Ctx) (s : State) : Res :=
  let job := (s.core x.n).job
  match (s.core x.n).waitOf x.iaddr x.opcode with
  | some w => closeRest x (w.done[0]?.getD 0) (w.done[1]?.getD 0) s
  | none =>
    match s.findWindow (fun w => w.isOpen && decide (w.job = job ∧ handleOf w = BitVec.setWidth 16 (x.sreg a))) with
    | none => .fail s codeWindowBounds 0
    | some (h, n, _) => closeRest x h n (s.closeWindow h n)

def workWclose (a : BitVec 5) : Work := { opcode := 0x76, queue := .sync, sR := [a.toNat], run := runWclose a }

/-- WCLOSE closes a loan window (R311, R395). -/
def execWclose (h : NHdr) (a : BitVec 5) (s : State) : Host.Outcome State Fault Refusal :=
  (workWclose a).meets h (.wclose h a) s

/-! Transfers (R312). -/

/-- The local range of a request in memory, for the interlock (R384). -/
def xferRange (a : BitVec 5) (off : BitVec 48) (x : Ctx) (s : State) : List (Nat × Nat) :=
  let r := xferReq (leNat (s.readBytes (x.addr a off) 32))
  [(r.loc, r.length)]

def workXfer (op : Nat) (a b : BitVec 5) (off : BitVec 48) : Work :=
  { opcode := op, queue := .sync, sR := [a.toNat], sW := [b.toNat], reads := fun x => [(x.addr a off, 32)],
    reqR := fun x s => if op = 0x78 then [] else xferRange a off x s,
    reqW := fun x s => if op = 0x78 then xferRange a off x s else [], run := runXfer op a b off }

/-- CPUT sends bytes into a window (R312, R386). -/
def execCput (h : NHdr) (a b : BitVec 5) (off : BitVec 48) (s : State) : Host.Outcome State Fault Refusal :=
  (workXfer 0x77 a b off).meets h (.cput h a b off) s

/-- CGET reads bytes of a window (R312, R388). -/
def execCget (h : NHdr) (a b : BitVec 5) (off : BitVec 48) (s : State) : Host.Outcome State Fault Refusal :=
  (workXfer 0x78 a b off).meets h (.cget h a b off) s

/-- CADD adds elements into a window (R312, R389, R390). -/
def execCadd (h : NHdr) (a b : BitVec 5) (off : BitVec 48) (s : State) : Host.Outcome State Fault Refusal :=
  (workXfer 0x79 a b off).meets h (.cadd h a b off) s

/-! Circular pointers (R227, R313). -/

/-- The circular region that a descriptor names: table and index. -/
def State.circRegion (s : State) (n : Nat) (t : Td) : Option (Nat × Nat) :=
  if addrValid t.base && decide (memSel t.base ≠ 0) then
    let tbl := (tableOf t.base).1
    let r := s.regionAt tbl t.region
    if r.usable (s.core n).job && r.circ && (decide (256 ≤ tbl) || decide (tbl = n)) then some (tbl, t.region) else none
  else none

/-- The device address of an offset in a table's memory. -/
def tableBase (t : Nat) : Nat := if t < 256 then salonBase t else galBase (t - 256)

def workRalloc (a b : BitVec 5) : Work :=
  { opcode := 0x7A, queue := .sync, sW := [a.toNat], tds := [b.toNat],
    run := fun x s =>
      let t := Td.of (x.tdreg b.toNat)
      match s.circRegion x.n t with
      | none => .fail s codeRegionBounds (kindCode t.base)
      | some (tbl, i) =>
        let r := s.regionAt tbl i
        if (r.head - r.tail).toNat = r.slots then
          .wait s { iaddr := x.iaddr, opcode := x.opcode, since := s.waitSince x, aux := regionAux tbl i, timed := true }
        else
          let k := r.head.toNat % r.slots
          .done ((s.setRegion tbl i { r with head := r.head + 1 }).setS x.n a
            (BitVec.ofNat 64 (tableBase tbl + r.base + k * r.slotSize))) }

/-- RALLOC takes the next slot of a circular region (R227, R313). -/
def execRalloc (h : NHdr) (a b : BitVec 5) (s : State) : Host.Outcome State Fault Refusal :=
  (workRalloc a b).meets h (.ralloc h a b) s

def workRfree (a : BitVec 5) : Work :=
  { opcode := 0x7B, queue := .sync, tds := [a.toNat],
    run := fun x s =>
      let t := Td.of (x.tdreg a.toNat)
      match s.circRegion x.n t with
      | none => .fail s codeRegionBounds (kindCode t.base)
      | some (tbl, i) =>
        let r := s.regionAt tbl i
        if r.head = r.tail then .fail s codeRegionBounds (kindCode t.base)
        else
          let k := r.tail.toNat % r.slots
          .done (s.setRegion tbl i { r with tail := r.tail + 1, full := r.full.filter (fun y => y != k) }) }

/-- RFREE gives the oldest slot of a circular region back (R227, R313). -/
def execRfree (h : NHdr) (a : BitVec 5) (s : State) : Host.Outcome State Fault Refusal :=
  (workRfree a).meets h (.rfree h a) s

end Sys2Proof.Machine
end

