-- ==== Sys2Proof/Machine/Loader.lean ====
section
/-! DEFINITION. The loader's phases and the start of a job (11_curator_tiling R333 to R336; 01_five_levels R20 to R23;
05_tempo R116, R117; 07_docent_catalogue R187, R190, R193; 12_host_interface R356, R359; 14_security R417, R422;
15_faults_inventory R435). -/

namespace Sys2Proof.Machine

/-! Refusal (R334). -/

/-- Refuses a job: up to 16 events, and the record of the first failure. -/
def State.refuse (s : State) (h : Nat) (fs : List Fail) : State :=
  match fs with
  | [] => s
  | f :: _ =>
    let s := foldOver (fun (t : State) (g : Fail) =>
      t.postPaced (fun u => u.postFault g.code 0 0 (BitVec.ofNat 16 h) (BitVec.ofNat 32 g.off) (BitVec.ofNat 16 g.unit) g.aux 3
        (match g.host with | some a => [BitVec.ofNat 64 a] | none => []))) s (fs.take 16)
    let s := if f.code = codeGrant then s.bump 0x1008 1 else s
    s.endJob h 3 f.code (BitVec.ofNat 32 f.off) (BitVec.ofNat 16 f.unit) f.aux .write

/-- The table code of a submission entry (R357). -/
def entryTable : Nat := 0x0A

/-! The static phase. -/

def lowestBit (w : Word) : Nat := ((List.range 32).find? (fun i => bitAt w.toNat i)).getD noUnit

/-- LOADER_STATIC_PHASE: the descriptors have arrived; the Foyer maps the job and the loader makes checks 1 to 11 (R20,
R333). -/
def execLoaderStaticPhase (handle : Half) (hm : List Host.Cell) (s : State) : Host.Outcome State Fault Refusal :=
  let h := handle.toNat
  match s.job h with
  | none => .next s
  | some j =>
    if j.phase ≠ .fetched then .next s
    else
      let s := s.learn hm
      let mapped := j.cmask &&& BitVec.setWidth 32 (s.rget (foy 0x0008))
      if mapped = 0 then .next (s.refuse h [⟨0, codeClusterReset, 20, lowestBit j.cmask, entryTable, none⟩])
      else
        let s := s.bump (foy 0xC8) 1
        let ld := s.readJob j.domain.toNat j.desc
        let cores := s.positions mapped
        let fails := Chk.run s j.domain.toNat { ld := ld, mapped := mapped, cores := cores }
        let j := { j with mapped := mapped, cores := cores, jbytes := ld.bytes }
        if fails.isEmpty then
          .next (s.setJob h { j with
            phase := .checked, jd := some ld.jd, tensors := ld.tensors, layers := ld.layers
            winRecs := ld.wins.map (fun w => w.2), winTensor := ld.wins.map (fun w => w.1)
            numDef := s.rget (foy 0x40), histDepth := s.fld (foy 0x58) 0 4
            salonFault := decide (s.fld (foy 0xA0) 0 1 = 1), galFault := decide (s.fld (foy 0xA8) 0 1 = 1)
            clsStage := decide (s.fld (foy 0xD8) 1 1 = 1) })
        else .next ((s.setJob h j).refuse h fails)

/-! Allocation (R209, R221, R317, R335, R422). -/

/-- The first `n` elements that satisfy `p`, in order. -/
def firstOf (p : Nat → Bool) : Nat → List Nat → List Nat
  | 0, _ => []
  | _ + 1, [] => []
  | n + 1, x :: t => if p x then x :: firstOf p n t else firstOf p (n + 1) t

/-- Pages of a Hall below its firmware reserve (R208). -/
def hallPages (h : Nat) : List Nat := (List.range 97280).map (fun i => h * 98304 + i)

def State.pageFree (s : State) (p : Nat) : Bool :=
  decide ((s.page p).job = 0) && !(s.page p).retired && !(s.scrubPages.contains p) && !(s.hallPermanent (p / 98304))

/-- The pages of a footprint: the lowest free of each Hall, the job's Halls first; none when there are too few (R209). -/
def State.takePages (s : State) (halls : List Nat) (n : Nat) : Option (List Nat) :=
  if n = 0 then some []
  else
    let order := halls ++ [0, 1, 2, 3].filter (fun h => !(halls.contains h))
    let ps := firstOf s.pageFree n (order.flatMap hallPages)
    if ps.length = n then some ps else none

/-- The lowest free offset of a Gallery for a region, in bank groups 1 to 47. -/
def galSpace (t : Assoc Region) (size align : Nat) : Option Nat :=
  let live := t.filter (fun e => e.2.valid)
  let up := fun (x : Nat) => ceilDiv x align * align
  let at_ := up 0x400000 :: live.map (fun e => up (e.2.base + e.2.len))
  let ok := at_.filter (fun o => decide (0x400000 ≤ o ∧ o + size ≤ 0x0C000000) &&
    live.all (fun e => decide (e.2.base + e.2.len ≤ o ∨ o + size ≤ e.2.base)))
  match ok with
  | [] => none
  | a :: r => some (foldOver (fun m x => min m x) a r)

/-- Puts a region into the lowest free entry of a Gallery's table: its device address; none while a bank group under it is
gated (R236). -/
def State.galRegion (s : State) (h : Nat) (r : Region) (align : Nat) : Option (State × Nat) :=
  match galSpace (s.hall h).regions r.len align,
      (List.range 1024).find? (fun i => !(s.regionAt (256 + h) i).valid) with
  | some o, some i =>
    if (groupsOf o r.len).any (fun g => s.groupGated h g) then none
    else some (s.setRegion (256 + h) i { r with base := o }, galBase h + o)
  | _, _ => none

/-- The region of a Gallery need and its alignment (R221). -/
def Job.needRegion (j : Job) (h : Nat) (n : Need) : Region × Nat :=
  let r : Region := { valid := true, owner := 0, job := BitVec.ofNat 16 h, len := n.room }
  match n.use with
  | .kernel => ({ r with clsW := true }, 4096)
  | .tensor t =>
    let x := (j.tensors[t]?).getD {}
    if x.circ then
      let k := 2 ^ (8 + x.slot)
      ({ r with circ := true, slot := x.slot, clsW := x.clsW, len := ceilDiv n.room (max k 4096) * max k 4096 }, max k 4096)
    else ({ r with clsW := x.clsW }, 4096)
  | .split _ => ({ r with clsW := j.clsStage }, 4096)
  | .outlier _ => (r, 4096)

def setAddr (ts : List Tensor) (i a : Nat) : List Tensor := ts.set i { (ts[i]?).getD {} with addr := a }

/-- Records the address of a need in the job. -/
def Job.placed (j : Job) (h t : Nat) (n : Need) (a : Nat) : Job :=
  match n.use with
  | .kernel => { j with kaddr := Assoc.insert j.kaddr h a }
  | .tensor i => { j with tensors := setAddr j.tensors i a }
  | .split l => { j with splitAddr := Assoc.insert j.splitAddr l a }
  | .outlier k => { j with outAddr := Assoc.insert (Assoc.insert j.outAddr k a) (k / 4 * 4 + 3) t }

/-- The pitch of the side tensor that an outlier need belongs to. -/
def Job.pitchOf (j : Job) (n : Need) : Nat :=
  match n.use with
  | .outlier k => ((jobTempo j (k / 4)).map sidePitch).getD 0
  | _ => 0

/-- Allocates the Gallery regions of a job. -/
def State.takeRegions (s : State) (h : Nat) (j : Job) (ns : List Need) : Option (State × Job) :=
  foldOver (fun (a : Option (State × Job)) n =>
    match a with
    | none => none
    | some (t, j) =>
      let r := j.needRegion h n
      match t.galRegion n.hall r.1 r.2 with
      | none => none
      | some (u, at_) => some (u, j.placed n.hall (j.pitchOf n) n at_)) (some (s, j)) ns

/-- Class W pages: those in which a class W tensor lies (R222). -/
def Job.pageClassW (j : Job) (k : Nat) : Bool :=
  if k < j.modelPages then
    j.tensors.any (fun t => decide (t.mem = 0) && t.clsW && decide (t.off < (k + 1) * 2 ^ 21 ∧ k * 2 ^ 21 < t.off + t.bytes))
  else
    (foldOver (fun (a : Nat × Bool) (t : Tensor) =>
      if t.mem = 1 then
        (a.1 + pagesFor t.bytes, a.2 || (t.clsW && decide (a.1 ≤ k ∧ k < a.1 + pagesFor t.bytes)))
      else a) (j.modelPages, false) j.tensors).2

/-- Addresses of the tensors in HBM and host memory, given the pages (R317). -/
def Job.placeTensors (j : Job) : Job :=
  let at_ := fun (p off : Nat) => (j.pages[p]?.getD 0) * 2 ^ 21 + off
  let r := foldOver (fun (a : List Tensor × Nat) (t : Tensor) =>
    match t.mem with
    | 0 => (a.1 ++ [{ t with addr := at_ (t.off / 2 ^ 21) (t.off % 2 ^ 21) }], a.2)
    | 1 => (a.1 ++ [{ t with addr := at_ a.2 0 }], a.2 + pagesFor t.bytes)
    | 3 => (a.1 ++ [{ t with addr := t.off }], a.2)
    | _ => (a.1 ++ [t], a.2)) ([], j.modelPages) j.tensors
  { j with tensors := r.1 }

/-- The lowest free key slot of a Hall's controllers (R422). -/
def State.freeSlot (s : State) (h : Nat) : Option Nat :=
  (List.range 64).find? (fun n => decide (n ≠ 0) && (Assoc.find s.keySlots (64 * h + n)).isNone)

/-- Key slots in every Hall that holds a page of the job: none when one has no free slot. -/
def State.takeSlots (s : State) (pages : List Nat) : Option (List (Nat × Nat)) :=
  let halls := [0, 1, 2, 3].filter (fun h => pages.any (fun p => p / 98304 == h))
  let ss := halls.filterMap (fun h => (s.freeSlot h).map (fun n => (h, n)))
  if ss.length = halls.length then some ss else none

/-- Pages, regions and key slots of a checked job: all of them, or none while one is lacking (R209, R422). -/
def State.allocate (s : State) (h : Nat) (j : Job) : Option State :=
  match j.jd with
  | none => none
  | some jd =>
    let c : Chk := { ld := { jd := jd, tensors := j.tensors, layers := j.layers }, mapped := j.mapped, cores := j.cores }
    match s.takePages (hallsOf j.mapped) c.footprint with
    | none => none
    | some ps =>
      match s.takeSlots ps, s.takeRegions h { j with pages := ps, modelPages := pagesFor jd.mlen } c.needs with
      | some ss, some (t, j) =>
        let j := { j.placeTensors with
          keySlots := ss, keyLoaded := true
          stageSize := (hallsOf j.mapped).map (fun g => (g, c.stage g)) }
        let t := foldOver (fun (u : State) (x : Nat × Nat) =>
          { u with keySlots := Assoc.insert u.keySlots (64 * x.1 + x.2) (BitVec.ofNat 16 h) }) t ss
        let t := foldOver (fun (u : State) (x : Nat × Nat) =>
          let slot := ((ss.find? (fun y => y.1 == x.2 / 98304)).map (fun y => y.2)).getD 0
          u.setPage x.2 { u.page x.2 with job := BitVec.ofNat 16 h, clsW := j.pageClassW x.1, keySlot := slot }) t
          ((List.range ps.length).zip ps)
        some (t.setJob h j)
      | _, _ => none

/-- KEY_SLOT_LOAD: the vault loads the job's key into one free slot of the controllers of every Hall that holds its
pages; the job waits while a slot, a page or Gallery space is lacking (R209, R422). -/
def execKeySlotLoad (handle : Half) (s : State) : Host.Outcome State Fault Refusal :=
  match s.job handle.toNat with
  | some j =>
    if j.phase = .checked ∧ j.keyLoaded = false then .next ((s.allocate handle.toNat j).getD s) else .next s
  | none => .next s

/-! The copy phase (R335). -/

/-- Puts bytes at offset `off` of a job's model image. -/
def State.modelWrite (s : State) (j : Job) (off : Nat) (bs : List Byte) : State :=
  (foldOver (fun (a : State × Nat) b => (a.1.writeByte ((j.pages[a.2 / 2 ^ 21]?.getD 0) * 2 ^ 21 + a.2 % 2 ^ 21) b, a.2 + 1))
    (s, off) bs).1

/-- The place of an arena tensor's first page among the pages of its job (R209). -/
def Job.firstPage (j : Job) (t : Tensor) : Nat := (j.pages.findIdx? (fun p => p == pageOf t.addr)).getD 0

/-- Zero-fills a tensor (R316), through the job's pages where it lies in HBM. -/
def State.zeroTensor (s : State) (j : Job) (t : Tensor) : State :=
  match t.mem with
  | 0 => s.modelWrite j t.off (List.replicate t.bytes 0)
  | 1 => s.modelWrite j (j.firstPage t * 2 ^ 21) (List.replicate t.bytes 0)
  | 3 => s.hostWrite t.off (List.replicate t.bytes 0)
  | _ => s.writeCells (cellsAt t.addr (List.replicate t.bytes 0))

/-- A DEACC without a source mask in a job that freezes the Deaccession units (R170). -/
def freezeBad (kimg : List Byte) : Option Nat :=
  ((List.range (kimg.length / 16)).find? (fun i =>
    match Nupor.decodeWord 0 (BitVec.ofNat 128 (leNat ((kimg.drop (16 * i)).take 16))) with
    | some (.deacc _ _ _ _ mask) => !mask
    | _ => false)).map (fun i => 16 * i)

/-- Check 12 (R162, R163, R192): the Docent matrices, the kernel image and the Folnil tensors of the model. -/
def State.check12 (s : State) (j : Job) (jd : JobDesc) (kimg : List Byte) : List Fail :=
  (indexed j.layers).flatMap (fun u =>
      match u.2.docent with
      | some d =>
        let r := d.rank + 1
        failIf (decide (jd.mlen < d.uAddr + ceilDiv ((u.2.k + 1) * r) 2 ∨ jd.mlen < d.vAddr + ceilDiv (r * (d.neurons + 1)) 2)) 12
          codeBufferSize 0 u.1 5
      | none => []) ++
    (if jd.freeze then
      match freezeBad kimg with
      | some o => [⟨12, codeBufferSize, o, noUnit, 8, none⟩]
      | none => []
    else []) ++
    (indexed j.tensors).flatMap (fun e =>
      failIf (decide (e.2.mem = 0 ∧ 3 ≤ e.2.spf ∧ e.2.spf ≤ 6) && !(folnilCounts e.2 e.1 (jd.mimg + e.2.off) s.hostByte)) 12
        codeCountMismatch e.2.off noUnit 9)

/-- The reads of the images and of the outlier lists, and the writes of zero-filled host tensors, that no grant covers. -/
def State.copyGrants (s : State) (j : Job) (jd : JobDesc) : List Fail :=
  let one := fun (write : Bool) (a len table off : Nat) =>
    match s.grantGap j.domain.toNat write a len with
    | some g => [(⟨12, codeGrant, if off = 0 then g - a else off, noUnit, table, some g⟩ : Fail)]
    | none => []
  one false jd.kimg jd.klen 8 0 ++ one false jd.mimg jd.mlen 9 0 ++
    (indexed j.layers).flatMap (fun u => (indexed u.2.tempos).flatMap (fun r =>
      if r.2.outliers = 0 then []
      else (one false r.2.outliers (8 + 4 * r.2.list.length) 4 0).map (fun f => { f with off := 32 * r.1, unit := u.1 }))) ++
    (indexed j.tensors).flatMap (fun e => if e.2.mem = 3 ∧ e.2.zero = true then one true e.2.off e.2.bytes 1 (64 * e.1) else [])

/-- LOADER_COPY_PHASE: images move, tensors marked ZERO are filled, and check 12 is made (R333, R335, R417). -/
def execLoaderCopyPhase (handle : Half) (hm : List Host.Cell) (s : State) : Host.Outcome State Fault Refusal :=
  let h := handle.toNat
  match s.job h with
  | none => .next s
  | some j =>
    match j.jd with
    | none => .next s
    | some jd =>
      if j.phase ≠ .checked ∨ j.keyLoaded = false then .next s
      else
        let s := s.learn hm
        match s.copyGrants j jd with
        | f :: _ => .next (s.refuse h [f])
        | [] =>
          let kimg := s.hostBytes jd.kimg jd.klen
          let model := s.hostBytes jd.mimg jd.mlen
          let j := { j with kimg := kimg, jdigest := Config.sha512 (j.jbytes ++ kimg), mdigest := Config.sha512 model }
          let s := s.modelWrite j 0 model
          let s := foldOver (fun (t : State) (e : Nat × Nat) => t.writeCells (cellsAt e.2 kimg)) s j.kaddr
          let recs := (j.layers.flatMap (fun l => l.tempos)).eraseDups
          let s := foldOver (fun (t : State) (r : TempoRec) =>
            if r.outliers = 0 then t
            else t.writeCells (cellsAt (Assoc.get 0 j.outAddr (4 * r.tensor)) (t.hostBytes r.outliers (8 + 4 * r.list.length)))) s recs
          let s := foldOver (fun (t : State) x => if x.zero then t.zeroTensor j x else t) s j.tensors
          match s.check12 j jd kimg with
          | f :: _ => .next ((s.setJob h j).refuse h [f])
          | [] => .next (s.setJob h { j with phase := .copied })

/-! Starting (R22, R23). -/

def Job.waiting (j : Job) : Bool :=
  match j.phase with
  | .fetched => true
  | .checked => true
  | .copied => true
  | _ => false

/-- The first unit of a job's mapped set that a fence holds (R435). -/
def State.fencedUnit (s : State) (j : Job) : Option Scope :=
  match (clustersOf j.mapped).find? (fun c => !(clusterServing s c)) with
  | some c => some (.cluster (Fin.ofNat 32 c))
  | none => (j.cores.find? (fun n => coreFenced s n)).map (fun n => .core (Fin.ofNat 256 n))

/-- The Tempo records of a job, one for each tensor. -/
def Job.tempos (j : Job) : List TempoRec := (j.layers.flatMap (fun l => l.tempos)).eraseDups
def Job.catRecs (j : Job) : List CatRec := (j.layers.flatMap (fun l => l.cats)).eraseDups

/-- The Hall that holds the window on a tensor of a job: its home, or the Hall of the first page of one in HBM (R393). -/
def Job.winHall (j : Job) (t : Nat) : Nat :=
  let x := (j.tensors[t]?).getD {}
  if x.mem = 2 then x.hall else hbmHall x.addr

/-- Whether every unit that a copied job needs is free (R22, R23, R116, R187, R193, R236, R333, R356, R359, R399). -/
def State.canStart (s : State) (h : Nat) (j : Job) : Bool :=
  let others := s.running.filter (fun k => k.1 != h)
  decide (j.phase = .copied) && (s.fencedUnit j).isNone && s.hostSecure &&
    s.jobs.all (fun k => !(decide (k.2.ring = j.ring ∧ k.2.order < j.order)) || (!k.2.waiting && !j.fence)) &&
    (clustersOf j.mapped).all (fun c => decide ((s.cluster c).job = 0) && !(s.clusterGated c)) &&
    j.cores.all (fun n => !(s.salonGated n)) &&
    others.all (fun k => !(k.2.tempos.any (fun r => j.tempos.any (fun q => q.tensor == r.tensor)))) &&
    decide (j.docRecs.length ≤ ((List.range 1024).filter (fun n => decide ((s.docX n).job = 0))).length) &&
    (hallsOf j.mapped).all (fun g =>
      (s.hall g).regs.all (fun r => !(j.catRecs.any (fun q => q.tensor == r.tensor))) &&
        decide ((s.hall g).regs.length + j.catRecs.length ≤ 256)) &&
    [0, 1, 2, 3].all (fun g =>
      decide (s.openWindows g + (j.winTensor.filter (fun w => j.winHall w.1 == g)).length ≤ 1024)) &&
    (decide (64 ≤ j.mbx) || decide (s.fld (mbxReg j.mbx 0) 0 2 = 1 ∧ s.fld (mbxReg j.mbx 0x18) 1 15 = 0)) &&
    (decide (j.peerset = 0) || others.all (fun k => decide (k.2.peerset ≠ j.peerset)))

/-- Whether job `a` goes before job `b` among the heads that can start: priority, then ring order after the ring served
last (R23). -/
def State.before (s : State) (a b : Job) : Bool :=
  let turn := fun (r : Nat) => (r + 16384 - s.lastRing - 1) % 16384
  decide (b.prio < a.prio) || (decide (a.prio = b.prio) && decide (turn a.ring < turn b.ring))

/-- The division of a core's Salon (R324) as plain regions of the job: offset and bytes. -/
def salonParts : List (Nat × Nat) :=
  [(0x000000, 0x100000), (0x100000, 0x100000), (0x200000, 0x080000), (0x280000, 0x080000), (0x300000, 0x080000), (0x380000, 0x070000)]

def State.startCore (s : State) (h : Nat) (n : Nat) : State :=
  let s := s.setCore n { s.core n with job := BitVec.ofNat 16 h, dispatched := false, invoc := 0, flags := 0, tile := none, nextItem := 0 }
  foldOver (fun (t : State) (x : Nat × Nat × Nat) =>
    t.setRegion n (x.1 + 1) { valid := true, owner := 0, job := BitVec.ofNat 16 h, base := x.2.1, len := x.2.2 }) s (indexed salonParts)

/-- DOCENT.CTL as it is taken (R202). -/
def State.docWindow (s : State) : Nat := max 1 (s.fld (foy 0x88) 24 8)
def State.docLimit (s : State) : Nat := max 1 (s.fld (foy 0x88) 0 16)
def State.docPeriod (s : State) : Nat := 2 ^ min 16 (max 2 (s.fld (foy 0x88) 16 5))

def State.startDocents (s : State) (h : Nat) (j : Job) : State × List Nat :=
  let free := firstOf (fun n => decide ((s.docX n).job = 0)) j.docRecs.length (List.range 1024)
  (foldOver (fun (t : State) (x : Nat × Nat × DocRec) =>
    let d := x.2.2
    let v := d.tau.toNat + (if d.uncal then 2 ^ 40 else 0) + (if d.adapt then 2 ^ 41 else 0) + 2 ^ 42 + d.inTensor * 2 ^ 44
    let t := (t.rput (docentSlot x.1 0) (BitVec.ofNat 64 v)).rput (docentSlot x.1 8) 0
    (t.rput (docentSlot x.1 0x10) 0).setDocX x.1
      { job := BitVec.ofNat 16 h, layer := x.2.1, rc := some d, window := t.docWindow, limit := t.docLimit, tau := d.tau,
        dense := d.uncal })
    s (free.zip j.docRecs),
   free)

def State.startCats (s : State) (h : Nat) (j : Job) : State :=
  foldOver (fun (t : State) g =>
    let x := t.hall g
    let regs := x.regs ++ j.catRecs.map (fun r =>
      ({ tensor := r.tensor, isF32 := r.isF32, base := ((j.tensors[r.atensor]?).getD {}).addr + r.aoffset,
         extent := r.extent + 1, job := BitVec.ofNat 16 h } : CatReg))
    (t.setHall g { x with regs := regs }).setFld (hallCat g 0) 16 9 regs.length) s (hallsOf j.mapped)

def State.startWindows (s : State) (h : Nat) (j : Job) : State :=
  foldOver (fun (t : State) (x : Nat × (Nat × Nat) × Window) =>
    match t.job h with
    | some j =>
      let w := { x.2.2 with base := ((j.tensors[x.2.1.1]?).getD {}).addr + x.2.1.2 }
      match t.openWindow (j.winHall x.2.1.1) h x.1 j w true with
      | some (u, _) => u
      | none => t
    | none => t) s (indexed (j.winTensor.zip j.winRecs))

/-- Starts a job: its units, slots, registrations, windows and mailbox become its own. -/
def State.startJob (s : State) (h : Nat) (j : Job) : State :=
  let hh := BitVec.ofNat 16 h
  let d := s.startDocents h j
  let j := { j with phase := .running, docSlots := d.2, startAt := s.hclk, flags := 0, step := 0, layer := 0 }
  let s := (d.1.setJob h j).startCats h j
  let s := foldOver (fun t n => t.startCore h n) s j.cores
  let s := foldOver (fun (t : State) c =>
    (t.setCluster c { t.cluster c with job := hh, events := [], skipped := [] }).setFld (cluReg c 0x50) 0 45 (2 ^ 44)) s (clustersOf j.mapped)
  let s := foldOver (fun t r => t.prepTempo h j r) s j.tempos
  let s := if j.mbx < 64 then s.setMbxJob j.mbx hh else s
  let s := s.startWindows h j
  let s : State := match (if j.peerset = 0 then none else s.peerSet j.peerset) with
    | some n => s.setFld (peerEntry n 8) 0 32 j.epoch.toNat
    | none => s
  let s : State := s.setFld 0x0020 16 16 (s.fld 0x0020 16 16 + 1)
  let s := if s.fld (vbReg 0x38) 0 1 = 1 then s.post 0x1081 5 (j.ring % 4096) hh [j.jobId, BitVec.ofNat 64 j.ring] else s
  { s with lastRing := j.ring }

/-- JOB_START: the Foyer starts the job when its units are free and no head of another ring goes before it (R22, R23); a
job whose mapped set a fence has cut since its check is refused (R435). -/
def execJobStart (handle : Half) (s : State) : Host.Outcome State Fault Refusal :=
  let h := handle.toNat
  match s.job h with
  | none => .next s
  | some j =>
    if j.phase ≠ .copied then .next s
    else
      match s.fencedUnit j with
      | some sc => .next (s.endJob h 3 codeClusterReset 0 (scopeUnit sc) ((s.rget (foy 0x0550)).setWidth 16) .write)
      | none =>
        if s.canStart h j && s.jobs.all (fun k => !(s.canStart k.1 k.2 && s.before k.2 j)) then .next (s.startJob h j)
        else .next s

end Sys2Proof.Machine
end

