-- ==== Sys2Proof/Machine/RegTable.lean ====
section
/-! DEFINITION. The registers of BAR0 by access type (00_scope R8; the register tables of 12_host_interface R344, R345, R347,
R354, R361; 05_tempo R138, R141; 06_folnil_sparsity R173; 07_docent_catalogue R202; 08_memory R243, R245; 13_tabey_links
R380, R397, R405, R406; 14_security R431; 15_faults_inventory R452; 16_clocks_power_thermal R471; 17_module R495, R496;
18_startup_defaults R507, R509), their factory defaults, and the values that a field is taken as. -/

namespace Sys2Proof.Machine

/-- The writable bits of a 64-bit register: RW, RWL and W1C; and whether only the PCIe function writes it. -/
structure RegInfo where
  rw : DWord := 0
  rwl : DWord := 0
  w1c : DWord := 0
  pcie : Bool := false
  deriving DecidableEq, Repr

/-- Registers that stand alone. -/
def regTable : Assoc RegInfo :=
  [(0x00000028, { w1c := 0x3F }),
   (0x00000030, { rw := 0x3F }),
   (0x00001000, { rwl := 1, pcie := true }),
   (0x00400020, { rwl := 0x3FFF3FFF }),
   (0x00400028, { w1c := 3 }),
   (0x00400038, { rwl := 1 }),
   (0x02000040, { rwl := 0xF }),
   (0x02000048, { rwl := 0x1F }),
   (0x02000058, { rwl := 0xFFFFFFFF0000FF1F }),
   (0x02000060, { rwl := 0xFFFFFFFF }),
   (0x02000080, { rwl := 0x03FF03FF03FF03FF }),
   (0x02000088, { rwl := 0xFF1FFFFF }),
   (0x020000A0, { rwl := 1 }),
   (0x020000A8, { rwl := 1 }),
   (0x020000B0, { rwl := 0xFFFFFFFF }),
   (0x020000B8, { rwl := 1 }),
   (0x020000D8, { rwl := 3 }),
   (0x02000100, { rwl := 0x1FFF, pcie := true }),
   (0x02000108, { rwl := 0xFFFFFFFFFFFF, pcie := true }),
   (0x02000208, { rw := 0xFFFFFFFFFFFFFFFF, pcie := true }),
   (0x02000560, { rwl := 0xFFFF }),
   (0x02000568, { rwl := 0x3F0FFF }),
   (0x02000598, { w1c := 0x8000 }),
   (0x02000608, { rwl := 0x7FF }),
   (0x02000610, { rwl := 0x1FFFF }),
   (0x02000628, { rwl := 0xFF }),
   (0x02000720, { rwl := 0x7F0000 }),
   (0x02000738, { rwl := 0xFFFF })]

/-- Registers that repeat: mailboxes, rings, grants, the memory registers of the Halls, Tempo slots, routes and peer
sets. -/
def regArray (off : Nat) : RegInfo :=
  if 0x2000 ≤ off ∧ off < 0x3000 then (if off % 0x40 = 0x18 then { w1c := 1 } else {})
  else if 0x100000 ≤ off ∧ off < 0x200000 then
    match off % 0x40 with
    | 0x00 => { rw := 0xFFFFFFFFFFFFF000, pcie := true }
    | 0x08 => { rw := 0xFFFF07FF003FFFFF, pcie := true }
    | 0x18 => { rw := 0xFFFFFFFF, pcie := true }
    | _ => {}
  else if 0x300000 ≤ off ∧ off < 0x380000 then
    match off % 0x20 with
    | 0x00 => { rw := 0xFFFFFFFFFFFFF000, pcie := true }
    | 0x08 => { rw := 0x0007FFFFFFFFFFFF, pcie := true }
    | _ => {}
  else if 0x01000000 ≤ off ∧ off < 0x02000000 then (if off % 0x400000 = 0x3028 then { w1c := 0x8000000000000000 } else {})
  else if 0x02100000 ≤ off ∧ off < 0x02140000 then (if off % 0x40 = 0x30 then { rw := 0xFFFFFFFF0000000F } else {})
  else if 0x02180000 ≤ off ∧ off < 0x02190000 then (if off % 0x10 = 0 then { rw := 0xBF3F3F3F, pcie := true } else {})
  else if 0x02190000 ≤ off ∧ off < 0x021A0000 then
    (if off % 0x400 = 0 then { rw := 0x1FFFFFFFF, pcie := true }
     else if 0x200 ≤ off % 0x400 then { rw := 0xFFFFFFFFFFFFFFFF, pcie := true } else {})
  else {}

/-- The writable bits of the register at `off`. -/
def regInfo (off : Nat) : RegInfo := (Assoc.find regTable off).getD (regArray off)

/-- The factory defaults that differ from the values after reset (R501), as offset, low bit, width, value: NAN_TRAP (R39),
SAT_LIMIT (R139), the conflict modes and SCRUB_EN (R243), STAGE (R507), LINK_EN (R405) and MGMT.ALERT.EN (R496). -/
def factoryDefaults : List (Nat × Nat × Nat × Nat) :=
  [(0x02000040, 3, 1, 1), (0x02000060, 0, 32, 64), (0x020000A0, 0, 1, 1), (0x020000A8, 0, 1, 1), (0x020000B8, 0, 1, 1),
   (0x020000D8, 1, 1, 1), (0x02000108, 0, 32, 0xFFFFFFFF), (0x02000720, 16, 7, 0x7F)]

/-- The limits that a written field is taken as (R83, R138, R173, R202, R243, R405, R452, R463, R471): offset, low bit, width,
least, greatest. -/
def takenAs : List (Nat × Nat × Nat × Nat × Nat) :=
  [(0x02000048, 0, 5, 4, 16), (0x02000058, 0, 4, 1, 8), (0x02000058, 8, 8, 2, 255),
   (0x02000080, 0, 10, 0, 1000), (0x02000080, 16, 10, 0, 1000), (0x02000080, 32, 10, 0, 1000), (0x02000080, 48, 10, 0, 1000),
   (0x02000088, 0, 16, 1, 65535), (0x02000088, 16, 5, 2, 16), (0x02000088, 24, 8, 1, 255),
   (0x020000B0, 0, 32, 1, 4294967295), (0x02000108, 32, 16, 1000, 20000),
   (0x02000560, 0, 8, 1, 20), (0x02000560, 8, 8, 1, 100), (0x02000568, 0, 12, 10, 3600), (0x02000568, 16, 6, 1, 60),
   (0x02000608, 0, 11, 600, Config.sustainedW.toNat), (0x02000610, 0, 16, 1, 65535), (0x02000628, 0, 8, 70, 100)]

/-- A value with the fields of register `off` taken as their rules lay down. -/
def clampReg (off : Nat) (v : DWord) : DWord :=
  foldOver (fun (w : DWord) (x : Nat × Nat × Nat × Nat × Nat) =>
    if x.1 = off then fput w x.2.1 x.2.2.1 (min x.2.2.2.2 (max x.2.2.2.1 (fget w x.2.1 x.2.2.1))) else w) v takenAs

/-- TEMPO.CTL.HEADROOM as it is taken, or none for a NaN (R138). -/
def clampHeadroom (w : Word) : Option Word :=
  match f32Val w with
  | .nan => none
  | .inf neg => some (if neg then 0x3E800000#32 else 0x41800000#32)
  | .fin _ _ _ => some (if f32Lt w 0x3E800000#32 then 0x3E800000#32 else if f32Lt 0x41800000#32 w then 0x41800000#32 else w)

/-- The new value of a register whose bits `mask` are written with `v`, the other bits kept; fields are taken as their
rules lay down; a NaN for HEADROOM leaves it (R138), and the enables of the alerts that cannot be masked stay 1 (R496). The
Bool says that a NaN was discarded. -/
def regMerge (off : Nat) (old v mask : DWord) : DWord × Bool :=
  let w := clampReg off ((v &&& mask) ||| (old &&& ~~~mask))
  let w := if off = 0x02000720 then w ||| 0x70000#64 else w
  if off = 0x02000058 ∧ fget mask 32 32 ≠ 0 then
    match clampHeadroom (BitVec.ofNat 32 (fget w 32 32)) with
    | some h => (fput w 32 32 h.toNat, false)
    | none => (fput w 32 32 (fget old 32 32), true)
  else (w, false)

/-- The RWL fields of the registers that hold more than one: offset, low bit, width. -/
def rwlFields : List (Nat × Nat × Nat) :=
  [(0x00400020, 0, 14), (0x00400020, 16, 14), (0x02000040, 0, 1), (0x02000040, 1, 1), (0x02000040, 2, 1), (0x02000040, 3, 1),
   (0x02000058, 0, 4), (0x02000058, 4, 1), (0x02000058, 8, 8), (0x02000058, 32, 32),
   (0x02000080, 0, 10), (0x02000080, 16, 10), (0x02000080, 32, 10), (0x02000080, 48, 10),
   (0x02000088, 0, 16), (0x02000088, 16, 5), (0x02000088, 24, 8), (0x020000D8, 0, 1), (0x020000D8, 1, 1),
   (0x02000100, 0, 12), (0x02000100, 12, 1), (0x02000108, 0, 32), (0x02000108, 32, 16),
   (0x02000560, 0, 8), (0x02000560, 8, 8), (0x02000568, 0, 12), (0x02000568, 16, 6),
   (0x02000610, 0, 16), (0x02000610, 16, 1), (0x02000738, 0, 8), (0x02000738, 8, 8)]

/-- The whole RWL fields of register `off` that `mask` touches (R505). -/
def touchedFields (off : Nat) (mask : DWord) : DWord :=
  let rwl := (regInfo off).rwl
  let fs := rwlFields.filter (fun f => decide (f.1 = off))
  if fs.isEmpty then (if mask &&& rwl = 0 then 0 else rwl)
  else foldOver (fun (m : DWord) f =>
    let field := BitVec.ofNat 64 ((2 ^ f.2.2 - 1) * 2 ^ f.2.1)
    if mask &&& field = 0 then m else m ||| field) 0 fs

/-- The bits of a register that W1C, RW and RWL writes can change. -/
def RegInfo.mask (r : RegInfo) : DWord := r.rw ||| r.rwl

/-- Every RW and RWL register back at the value it held after the Profile was applied (R366); the route and peer-set tables
keep their state. -/
def State.restoreRegs (s : State) : State :=
  let kept := fun (off : Nat) => decide (0x02180000 ≤ off ∧ off < 0x021A0000)
  let keys := (s.reg.map (fun e => e.1)) ++ (s.profiled.map (fun e => e.1))
  foldOver (fun (t : State) off =>
    let m := (regInfo off).mask
    if m = 0 ∨ kept off = true then t
    else t.rput off ((t.rget off &&& ~~~m) ||| (Assoc.get 0 t.profiled off &&& m))) s keys.eraseDups

end Sys2Proof.Machine
end

