-- ==== Sys2Proof/Machine/Host.lean ====
section
/-! DEFINITION. The host interface (12_host_interface R339 to R369): rings and doorbells, fetch and check 0, mailboxes,
Function Level Reset and IDE. -/

namespace Sys2Proof.Machine

/-! Rings (R347 to R353). -/

/-- A pointer of a ring. -/
def ringHead (s : State) (r : Nat) : Nat := s.fld (ringReg r 0x10) 0 32
def ringTail (s : State) (r : Nat) : Nat := s.fld (ringReg r 0x10) 32 32
def ringState (s : State) (r : Nat) : Nat := s.fld (ringReg r 0x20) 0 2
def ringType (s : State) (r : Nat) : Nat := s.fld (ringReg r 0x08) 1 2
def ringSize (s : State) (r : Nat) : Nat := 2 ^ s.fld (ringReg r 0x08) 3 5

/-- A difference of free-running 32-bit counts. -/
def ptrDiff (a b : Nat) : Nat := (a + 2 ^ 32 - b) % 2 ^ 32

/-- Whether a ring's configuration lets it be enabled (R348). -/
def State.ringValid (s : State) (r : Nat) : Bool :=
  let lg := s.fld (ringReg r 0x08) 3 5
  let c := s.fld (ringReg r 0x08) 8 14
  decide (ringType s r = 1 ∨ ringType s r = 2) && decide (2 ≤ lg ∧ lg ≤ 14) &&
    (decide (ringType s r = 2) || decide (s.fld (ringReg c 0x08) 0 1 = 1 ∧ ringType s c = 2))

/-- A write of ENABLE = 1 (R347, R348): without effect on a ring that is on or draining; refused with ERROR 3. -/
def State.ringOn (s : State) (r : Nat) (v : DWord) : State :=
  let s := if s.fld (ringReg r 0x08) 0 1 = 1 then s else s.rput (ringReg r 0x08) (v &&& 0xFFFF07FF003FFFFE#64)
  if ringState s r = 0 ∨ ringState s r = 3 then
    if s.ringValid r then
      let s := s.setFld (ringReg r 0x08) 0 1 1
      let s := s.rput (ringReg r 0x10) 0
      s.rput (ringReg r 0x20) (BitVec.ofNat 64 (1 + s.fld (ringReg r 0x20) 16 16 * 2 ^ 16))
    else (s.setFld (ringReg r 0x08) 0 1 0).setFld (ringReg r 0x20) 4 4 3
  else s

/-- A write of ENABLE = 0 (R347, R352): a submission ring is off at once, a completion ring drains. -/
def State.ringOff (s : State) (r : Nat) (v : DWord) : State :=
  if s.fld (ringReg r 0x08) 0 1 = 1 then
    if ringType s r = 2 then (s.setFld (ringReg r 0x20) 0 2 2).drainRing r
    else (s.setFld (ringReg r 0x08) 0 1 0).setFld (ringReg r 0x20) 0 2 0
  else s.rput (ringReg r 0x08) (v &&& 0xFFFF07FF003FFFFE#64)

/-- RING_ENABLE: a write of RING.CTL with ENABLE = 1. -/
def execRingEnable (ring : BitVec 14) (ctl : BitVec 64) (s : State) : Host.Outcome State Fault Refusal :=
  .next (if s.hostOpen (ringReg ring.toNat 0x08) then s.ringOn ring.toNat ctl else s)

/-- RING_DISABLE: a write of RING.CTL with ENABLE = 0. -/
def execRingDisable (ring : BitVec 14) (ctl : BitVec 64) (s : State) : Host.Outcome State Fault Refusal :=
  .next (if s.hostOpen (ringReg ring.toNat 0x08) then s.ringOff ring.toNat ctl else s)

/-- A ring enters the error state (R351, R489). -/
def State.ringError (s : State) (r err ptr : Nat) : State :=
  let s := (s.setFld (ringReg r 0x20) 0 2 3).setFld (ringReg r 0x20) 4 4 err
  (s.event 1).postFault codeRingOverflow 5 (r % 4096) 0 0 (BitVec.ofNat 16 r) (BitVec.ofNat 16 err) 0 [BitVec.ofNat 64 ptr]

/-- Whether the Foyer takes doorbell writes (R346, R366, R369). -/
def State.doorbellOpen (s : State) (r : Nat) : Bool := s.hostOpen (0x200000 + 0x40 * r) && decide (s.fld 0x0008 4 1 = 0)

/-- A doorbell to a ring that is off, or a kill that names no active job (event 0x1051). -/
def State.doorbellEvent (s : State) (r : Nat) (v : DWord) : State := s.post 0x1051 5 (r % 4096) 0 [BitVec.ofNat 64 r, v]

/-- A pointer written to a doorbell (R350 to R353). -/
def State.doorbell (s : State) (r : Nat) (p : Word) : State :=
  match ringState s r with
  | 0 => s.doorbellEvent r (p.setWidth 64)
  | 3 => s
  | _ =>
    if ringType s r = 1 then
      if ringSize s r < ptrDiff p.toNat (ringHead s r) then s.ringError r 1 p.toNat
      else s.setFld (ringReg r 0x10) 32 32 p.toNat
    else if ringSize s r < ptrDiff (ringTail s r) p.toNat then s.ringError r 2 p.toNat
    else s.setFld (ringReg r 0x10) 0 32 p.toNat

/-- DOORBELL_POINTER: the host writes a ring's pointer. -/
def execDoorbellPointer (ring : BitVec 14) (pointer : BitVec 32) (s : State) : Host.Outcome State Fault Refusal :=
  .next (if s.doorbellOpen ring.toNat then s.doorbell ring.toNat pointer else s)

/-- The active job of a ring that carries a JOB_ID. -/
def State.ringJob (s : State) (r : Nat) (id : DWord) : Option (Nat × Job) :=
  s.jobs.find? (fun j => decide (j.2.ring = r ∧ j.2.jobId = id))

/-- A kill: the job's reports that are on their way reach the Foyer no later, so that a fault among them prevails (R362). -/
def State.kill (s : State) (r : Nat) (id : DWord) : State :=
  if ringState s r = 0 then s.doorbellEvent r id
  else
    match s.ringJob r id with
    | some j =>
      let mine := fun (x : Report) => decide (x.job.toNat = j.1)
      let t := { s with reports := s.reports.filter (fun x => !(mine x)) }.takeReports (s.reports.filter mine)
      t.endJob j.1 2 0 0 0 0 .write
    | none => s.doorbellEvent r id

/-- DOORBELL_KILL: the host names a job of a ring. -/
def execDoorbellKill (ring : BitVec 14) (jobId : BitVec 64) (s : State) : Host.Outcome State Fault Refusal :=
  .next (if s.doorbellOpen ring.toNat then s.kill ring.toNat jobId else s)

/-! Fetch and check 0 (R350, R356, R357, R398). -/

/-- Whether the scrub or a report of an ended job still names its handle. -/
def State.named (s : State) (h : Nat) : Bool :=
  s.scrubs.any (fun e => e.1 == h) || s.reports.any (fun r => decide (r.job.toNat = h))

/-- The lowest free handle of 1 to 32,767, one that an ended job's scrub or report still names only where there is no other. -/
def State.freeHandle (s : State) : Option Nat :=
  let free := ((List.range 32767).map (· + 1)).filter (fun h => (s.job h).isNone)
  (free.find? (fun h => !(s.named h))).or free.head?

/-- Whether the Foyer fetches the entry at a ring's HEAD (R350, R352, R366, R369). -/
def State.fetchable (s : State) (r : Nat) : Bool :=
  let c := s.fld (ringReg r 0x08) 8 14
  decide (s.fld 0x0008 0 1 = 1 ∧ s.fld 0x0008 4 1 = 0) && s.hostSecure &&
    decide (ringState s r = 1 ∧ ringType s r = 1 ∧ ringHead s r ≠ ringTail s r) &&
    decide ((ringState s c = 1 ∨ ringState s c = 3) ∧ ringType s c = 2) &&
    decide (ptrDiff (ringTail s c) (ringHead s c) + s.fld (ringReg c 0x20) 16 16 < ringSize s c) && s.freeHandle.isSome

/-- The job of a submission entry (R356). -/
def entryJob (r order cring : Nat) (dom : Half) (v : Nat) : Job :=
  { jobId := BitVec.ofNat 64 v, ring := r, order := order, desc := bitsOf v 64 64, key := wordOf v 128, cmask := wordOf v 160,
    prio := bitsOf v 192 4, noirq := bitAt v 200, fence := bitAt v 201, mbx := bitsOf v 208 8, epoch := wordOf v 224,
    peerset := wordOf v 256, domain := dom, cring := cring }

/-- The reserved bits and bytes of an entry that are not 0, by the byte offset of their field. -/
def entryReserved (v : Nat) : List Nat :=
  (if bitsOf v 196 4 ≠ 0 then [24] else []) ++ (if bitsOf v 202 6 ≠ 0 then [25] else []) ++
    (if bitsOf v 216 8 ≠ 0 then [27] else []) ++ (if bitsOf v 288 224 ≠ 0 then [36] else [])

/-- The installed key that a job names. -/
def State.vaultKey (s : State) (handle : Word) (dom : Half) : Option VKey :=
  s.keys.find? (fun k => decide (k.handle = handle ∧ k.domain = dom))

/-- Check 0, in the order of its tables; each failure with the byte offset of its field. -/
def State.check0 (s : State) (h : Nat) (j : Job) (v : Nat) : List Fail :=
  let bad := fun (b : Bool) (code : Half) (off : Nat) => if b then [(⟨0, code, off, noUnit, 0x0A, none⟩ : Fail)] else []
  bad (decide (j.desc % 64 ≠ 0)) codeAlignment 8 ++
    (entryReserved v).flatMap (fun o => bad true codeBufferSize o) ++
    bad (s.jobs.any (fun k => decide (k.1 ≠ h ∧ k.2.ring = j.ring ∧ k.2.jobId = j.jobId))) codeBufferSize 0 ++
    bad (s.vaultKey j.key j.domain).isNone codeBufferSize 16 ++
    bad (decide (j.mbx ≠ 255) && !(decide (j.mbx < 64 ∧ s.fld (mbxReg j.mbx 0) 0 2 = 1 ∧ s.fld (mbxReg j.mbx 0) 16 16 = j.domain.toNat)))
      codeBufferSize 26 ++
    (match s.grantGap j.domain.toNat false j.desc 256 with
     | some g => [(⟨0, codeGrant, 8, noUnit, 0x0A, some g⟩ : Fail)]
     | none => []) ++
    (if j.peerset = 0 then []
     else
       match s.peerSet j.peerset with
       | some n =>
         if s.assigned && s.peerMember n s.node then bad (decide (j.epoch.toNat < s.lastEpoch n)) codeEpochStale 28
         else bad true codeBufferSize 32
       | none => bad true codeBufferSize 32)

/-- JOB_FETCH: the Foyer fetches the entry at HEAD, reserves a record slot, assigns a handle and makes check 0; a ONCE key
leaves the vault with a job that passes (R350, R357, R421). -/
def execJobFetch (ring : BitVec 14) (hm : List Host.Cell) (s : State) : Host.Outcome State Fault Refusal :=
  let r := ring.toNat
  if !(s.fetchable r) then .next s
  else
    match s.freeHandle with
    | none => .next s
    | some h =>
      let s := s.learn hm
      let c := s.fld (ringReg r 0x08) 8 14
      let v := s.hostNat ((s.rget (ringReg r 0)).toNat + ringHead s r % ringSize s r * 64) 64
      let j := entryJob r s.fetches c (BitVec.ofNat 16 (s.fld (ringReg r 0x08) 48 16)) v
      let s := { s with fetches := s.fetches + 1 }.setJob h j
      let s := s.bumpFld (ringReg r 0x10) 0 32 1
      let s := s.bumpFld (ringReg r 0x20) 16 16 1
      let s := s.bumpFld (ringReg c 0x20) 16 16 1
      let s := s.bumpFld 0x0020 0 16 1
      let s := if s.fld (vbReg 0x38) 0 1 = 1 then s.post 0x1080 5 (r % 4096) (BitVec.ofNat 16 h) [j.jobId, BitVec.ofNat 64 r] else s
      match s.check0 h j v with
      | f :: fs => .next (s.refuse h (f :: fs))
      | [] =>
        match s.vaultKey j.key j.domain with
        | some k =>
          if k.once then .next ({ s with keys := s.keys.erase k }.setJob h { j with keyOnce := true })
          else .next s
        | none => .next s

/-! Mailboxes (R358 to R361). -/

def State.mbxWindow (s : State) : Nat := s.bar2Size / 64

/-- Powers up the bank groups that a range needs (R236). -/
def State.powerGroups (s : State) (h off len : Nat) : State :=
  foldOver (fun (t : State) g =>
    if t.groupGated h g then (t.setFld (hallMem h 0x30) g 1 0).zeroSram (galBase h + g * 2 ^ 22) (2 ^ 22) else t)
    s (groupsOf off len)

/-- OPEN allocates the region of a mailbox (R358, R360): the new state and RESULT. -/
def State.mbxOpen (s : State) (n h slot dom len : Nat) : State × Nat :=
  let bytes := 4096 * len
  if 8 < slot ∨ len = 0 ∨ s.mbxWindow < bytes ∨ bytes % 2 ^ (8 + slot) ≠ 0 then (s, 1)
  else if s.fld (mbxReg n 0) 0 2 ≠ 0 then (s, 2)
  else
    let t := match galSpace (s.hall h).regions bytes (max 4096 (2 ^ (8 + slot))) with
      | some o => s.powerGroups h o bytes
      | none => s
    let r : Region := { valid := true, circ := true, clsW := decide (s.fld (foy 0xD8) 0 1 = 1), slot := slot, owner := 1, len := bytes }
    match t.galRegion h r (max 4096 (2 ^ (8 + slot))) with
    | none => (s, 3)
    | some (u, a) =>
      let u := u.rput (mbxReg n 0x00) (BitVec.ofNat 64 (1 + h * 4 + slot * 16 + dom * 2 ^ 16 + len * 2 ^ 32))
      let u := (u.rput (mbxReg n 0x08) (BitVec.ofNat 64 a)).rput (mbxReg n 0x10) 0
      (u.setFld (mbxReg n 0x18) 1 15 0, 0)

/-- RELEASE closes a mailbox; its region is scrubbed and freed once no job holds it (R242, R360). -/
def State.mbxRelease (s : State) (n : Nat) : State × Nat :=
  if s.fld (mbxReg n 0) 0 2 ≠ 1 then (s, 2)
  else
    let s := s.setFld (mbxReg n 0) 0 2 2
    (if s.fld (mbxReg n 0x18) 1 15 = 0 then s.freeMbx n else s, 0)

/-- A write of HOST.MBX_CMD (R360): discarded while BUSY is 1. -/
def State.mbxCommand (s : State) (cmd : DWord) : State :=
  if s.fld 0x1018 0 1 = 1 then s
  else
    let n := fget cmd 2 6
    let r := match fget cmd 0 2 with
      | 1 => s.mbxOpen n (fget cmd 8 2) (fget cmd 10 4) (fget cmd 16 16) (fget cmd 32 32)
      | 2 => s.mbxRelease n
      | _ => (s, 1)
    { r.1 with mbxBusy := some (cmd, r.2) }.setFld 0x1018 0 1 1

/-- MBX_OPEN: the host writes the command OPEN. -/
def execMbxOpen (cmd : BitVec 64) (s : State) : Host.Outcome State Fault Refusal :=
  .next (if s.hostOpen 0x1010 then s.mbxCommand (fput cmd 0 2 1) else s)

/-- MBX_RELEASE: the host writes the command RELEASE. -/
def execMbxRelease (cmd : BitVec 64) (s : State) : Host.Outcome State Fault Refusal :=
  .next (if s.hostOpen 0x1010 then s.mbxCommand (fput cmd 0 2 2) else s)

/-- MBX_CMD_DONE: the command in progress finishes. -/
def execMbxCmdDone (s : State) : Host.Outcome State Fault Refusal :=
  match s.mbxBusy with
  | none => .next s
  | some (_, r) => .next (({ s with mbxBusy := none }.rput 0x1018 (BitVec.ofNat 64 (r * 2 ^ 8))).event 4)

/-- The slots of a mailbox that a read of `len` bytes at `o` covers. -/
def coveredSlots (size o len : Nat) : List Nat := (List.range ((o + len - 1) / size - o / size + 1)).map (fun i => o / size + i)

/-- A read of a mailbox's bytes (R361): the state and the bytes. -/
def State.mbxRead (s : State) (n g i o len : Nat) : State × List Byte :=
  let r := s.regionAt (256 + g) i
  let slots := coveredSlots r.slotSize o len
  if slots.any (fun k => !(r.full.contains k)) then
    let last := s.rget (mbxReg n 0x10)
    (s.setFld (mbxReg n 0x18) 0 1 1, (List.range (len / 8)).flatMap (fun _ => leBytes 8 last.toNat))
  else
    let base := galBase g + r.base
    let done := slots.filter (fun k => decide (o ≤ (k + 1) * r.slotSize - 8 ∧ (k + 1) * r.slotSize ≤ o + len))
    let s' := foldOver (fun (t : State) k =>
      let q := t.regionAt (256 + g) i
      let t := t.setRegion (256 + g) i { q with
        full := q.full.filter (fun y => y != k), tail := if q.head = q.tail then q.tail else q.tail + 1 }
      t.rput (mbxReg n 0x10) (BitVec.ofNat 64 (leNat (s.readBytes (base + (k + 1) * r.slotSize - 8) 8)))) s done
    (s', s.readBytes (base + o) len)

/-- MAILBOX_READ: the host reads BAR2, with the memory errors that the read meets (R232, R239, R358, R361). -/
def execMailboxRead (off : Nat) (read : BarRead) (s : State) : Host.Outcome State Fault Refusal :=
  let len := read.len
  if len = 0 ∨ len % 8 ≠ 0 ∨ 64 < len ∨ off % len ≠ 0 ∨ s.bar2Size < off + len then .next s.giveUnsupported
  else
    let n := off / s.mbxWindow
    let o := off % s.mbxWindow
    let zero := s.give (.data (List.replicate len 0))
    if !(s.carried 2 off) ∨ s.fld (mbxReg n 0) 0 2 = 0 ∨ 4096 * s.fld (mbxReg n 0) 32 32 < o + len then .next zero
    else
      match s.mbxRegion n with
      | none => .next zero
      | some (g, i) =>
        let a := galBase g + (s.regionAt (256 + g) i).base + o
        if (s.regionAt (256 + g) i).quar then
          .next ((s.postFault codeQuarantine 1 g 0 0 (BitVec.ofNat 16 g) 4 0 [BitVec.ofNat 64 a]).give (.data (List.replicate len 0)))
        else
          let q := s.eccDma (64 * g) (BitVec.ofNat 16 g) (s.regionAt (256 + g) i).job read.ecc
          if q.2 then
            let r := q.1.mbxRead n g i o len
            .next (r.1.give (.data r.2))
          else .next (q.1.give (.data (List.replicate len 0)))

/-- BAR2_WRITE: a write to a mailbox window is discarded and counted (R358). -/
def execBar2Write (off : Nat) (s : State) : Host.Outcome State Fault Refusal :=
  if s.carried 2 off ∧ off < s.bar2Size then .next (s.bumpFld (mbxReg (off / s.mbxWindow) 0x18) 16 32 1) else .next s

/-! Function Level Reset (R366, R367). -/

/-- Ends every active job as a kill, in ascending handle (R366 step 2). -/
def State.endAll (s : State) (m : RecordMode) : State :=
  foldOver (fun (t : State) h =>
    match t.job h with
    | some j =>
      match j.phase with
      | .ended => (t.setFld 0x0020 0 16 (t.fld 0x0020 0 16 - 1)).forget h
      | _ => t.endJob h 2 0 0 0 0 m
    | none => t) s (s.jobs.map (fun e => e.1))

/-- Step 3: every key slot and every installed job key. -/
def State.dropKeys (s : State) : State :=
  { s with keys := [], keySlots := [] }

/-- Step 4: every mailbox. -/
def State.dropMailboxes (s : State) : State :=
  foldOver (fun (t : State) n => if t.fld (mbxReg n 0) 0 2 = 0 then t else (t.setMbxJob n 0).freeMbx n) s (List.range 64)

/-- Keeps the registers whose offset satisfies `p`. -/
def State.keepRegs (s : State) (p : Nat → Bool) : State := { s with reg := Assoc.keep p s.reg }

/-- Step 5: every Tempo and Docent slot and every Catalogue entry. -/
def State.dropSlots (s : State) : State :=
  let s := { s with tempo := [], docent := [] }.keepRegs (fun o =>
    !(decide (0x02100000 ≤ o ∧ o < 0x02140000 ∧ o % 0x40 ≠ 0x30)) && !(decide (0x02140000 ≤ o ∧ o < 0x02148000)))
  foldOver (fun (t : State) g => (t.setHall g { t.hall g with cat := [], regs := [] }).setFld (hallCat g 0) 0 25 0) s [0, 1, 2, 3]

/-- The PIN words of the Tempo slots, which R429 zero-fills with the slots. -/
def State.dropPins (s : State) : State := s.keepRegs (fun o => !(decide (0x02100000 ≤ o ∧ o < 0x02140000)))

/-- Step 6: ring configuration, grant table, mailbox table and MSI-X table. -/
def State.dropHostTables (s : State) : State :=
  { s with coal := [], msixTable := [], mbxBusy := none }.keepRegs (fun o =>
    !(decide (0x2000 ≤ o ∧ o < 0x3000)) && !(decide (0x100000 ≤ o ∧ o < 0x200000)) && !(decide (0x300000 ≤ o ∧ o < 0x380000)) &&
    decide (o ≠ 0x1018))

/-- Step 7 and configuration space (R366): the registers, the Profile's staging window among them (R509), go back, and the fields
of configuration space do but the AER status, which PCIe keeps. -/
def State.restoreFunction (s : State) : State :=
  { s.restoreRegs with staging := [], cfg := { aerUr := s.cfg.aerUr }, bar2Size := 2 ^ 30 }

/-- Steps 2 to 7. -/
def State.flrSteps (s : State) : State :=
  ((((s.endAll .skip).dropKeys).dropMailboxes).dropSlots).dropHostTables.restoreFunction

/-- A Function Level Reset begins (R366): an FLR also ends every SPDM session (R415). -/
def State.startFlr (s : State) : State :=
  if s.phase = .off then s else { (s.setFld 0x0008 4 1 1).flrSteps with sessions := 0 }

/-- FLR. -/
def execFlr (s : State) : Host.Outcome State Fault Refusal := .next s.startFlr

/-- FLR_COMPLETE: FLR_BUSY clears and the Function Readiness Status message goes out (R367). -/
def execFlrComplete (s : State) : Host.Outcome State Fault Refusal :=
  .next (if s.fld 0x0008 4 1 = 1 then (s.setFld 0x0008 4 1 0).give .frs else s)

/-- D3HOT_RETURN: a return from D3hot to D0 acts as an FLR (R367). -/
def execD3hotReturn (s : State) : Host.Outcome State Fault Refusal := .next s.startFlr

/-! IDE (R368, R369). -/

/-- IDE_LOST: a stream leaves the secure state; the last one ends every running job, whose records wait. -/
def execIdeLost (stream : Fin 9) (s : State) : Host.Outcome State Fault Refusal :=
  if s.ide.getLsbD stream.val then
    let s := { s with ide := BitVec.ofNat 9 (bitsPut s.ide.toNat stream.val 1 0) }
    if s.ide ≠ 0 then .next s
    else
      let s := s.setFld 0x0008 3 1 0
      if s.fld 0x1000 0 1 = 0 then .next s
      else .next (foldOver (fun (t : State) (j : Nat × Job) => t.endJob j.1 2 0 0 0 0 .hold) (s.event 5) s.running)
  else .next s

/-- The records that were held go out (R369). -/
def State.releaseRecords (s : State) : State :=
  foldOver (fun (t : State) h =>
    match t.job h with
    | some j =>
      match j.pendingRec with
      | some (status, code, iaddr, unit, aux) =>
        (t.writeRecord h j status code iaddr unit aux).forget h
      | none => t
    | none => t) s (s.jobs.map (fun e => e.1))

/-- IDE_SECURE: IDE_KM sets up a stream's keys over an open SPDM session, and the stream becomes secure. -/
def execIdeSecure (keys : IdeKeys) (s : State) : Host.Outcome State Fault Refusal :=
  if s.sessions.getLsbD keys.session.val then
    let s := { s with ide := BitVec.ofNat 9 (bitsPut s.ide.toNat keys.stream.val 1 1) }
    .next ((s.setFld 0x0008 3 1 1).releaseRecords)
  else .next s

end Sys2Proof.Machine
end

