-- ==== Sys2Proof/Machine/Recovery.lean ====
section
/-! DEFINITION. Recovery (15_faults_inventory R433 to R442, R449): the jobs that it ends, the reset of its units, its end, and
the watchdogs. -/

namespace Sys2Proof.Machine

/-- What still keeps a device recovery from starting: a thermal trip, an input out of range, or a lost reference (R438, R443,
R455, R469, R478). -/
def State.recoveryHeld (s : State) : Bool :=
  decide (s.fld (foy 0x0630) 17 1 = 1) || s.power.hold ||
    (decide (s.fld (foy 0x0600) 2 1 = 0) && decide (s.phase = .service))

/-- The clusters of a scope, with the cluster of a core. -/
def scopeJobClusters : Scope → List Nat
  | .core n => [n.val / 8]
  | sc => scopeClusters sc

/-- Whether a job has a page, Gallery region, window or registration in a Hall (R436). -/
def State.usesHall (s : State) (h : Nat) (j : Job) (g : Nat) : Bool :=
  j.pages.any (fun p => hbmHall (p * 2 ^ 21) == g) || (s.hall g).regions.any (fun e => jobRegion h e.2) ||
    (s.hall g).windows.any (fun e => e.2.isOpen && decide (e.2.job.toNat = h)) ||
    (s.hall g).regs.any (fun r => decide (r.job.toNat = h))

/-- Whether a recovery of a scope ends a job (R436). -/
def State.jobInScope (s : State) (sc : Scope) (h : Nat) (j : Job) : Bool :=
  match sc with
  | .device => true
  | .hall g => (scopeClusters sc).any (fun c => bitAt j.mapped.toNat c && decide (j.phase ≠ .fetched)) || s.usesHall h j g.val
  | _ => decide (j.phase = .running) && (scopeJobClusters sc).any (fun c => bitAt j.mapped.toNat c)

/-- Whether a fence of a scope cuts the mapped set of a job that has been checked and not started (R435). -/
def Job.cutBy (j : Job) (sc : Scope) : Bool :=
  (decide (j.phase = .checked) || decide (j.phase = .copied)) &&
    (match sc with
     | .core n => j.cores.contains n.val
     | _ => (scopeClusters sc).any (fun c => bitAt j.mapped.toNat c))

/-- Step 2 of R438: the jobs that have reported a fault end with it, the others with CLUSTER_RESET (R434); a job whose
mapped set the fence has cut before its start is refused (R435). -/
def State.endScope (s : State) (sc : Scope) (code : Half) : State :=
  let hit := s.jobs.filter (fun j => decide (j.2.phase ≠ .ended) && (s.jobInScope sc j.1 j.2 || j.2.cutBy sc))
  let mine := fun (r : Report) => hit.any (fun j => decide (j.1 = r.job.toNat))
  let reports := s.reports.filter mine
  let s := { s with reports := s.reports.filter (fun r => !(mine r)) }.takeReports reports
  foldOver (fun (t : State) (j : Nat × Job) =>
    t.endJob j.1 (if j.2.cutBy sc then 3 else 1) codeClusterReset 0 (scopeUnit sc) code .write) s hit

/-! Step 3. -/

/-- A core is reset: its Caller, engines, check engine and Quadrille; STEP is 0 (R76). A new sampling period begins with the
factor of the one that the reset cuts short (DESIGN CHOICE, notes/assumptions/165.md); the counters, and with them the windows of
the voltage loop, run on. -/
def State.resetCore (s : State) (n : Nat) : State :=
  let c := s.core n
  let s := s.setCore n { regions := c.regions, winDiv := c.winDiv, winC := c.winC, winN := c.winN, provS := c.provS, job := c.job }
  let s := s.setFld (coreReg n 0xC0) 0 6 0
  let s := s.rput (coreReg n 0xD8) 0
  foldOver (fun t f => t.rput (fstate n f) 0) s (List.range 4)

/-- A cluster's memories are zero. -/
def State.resetCluster (s : State) (c : Nat) : State :=
  let s := s.setCluster c { s.cluster c with events := [], skipped := [] }
  foldOver (fun t i => t.zeroSram (salonBase (8 * c + i)) (2 ^ 22)) s (List.range 8)

/-- A Hall's Gallery and Catalogue are zero; its mailboxes stay open with every tag empty; its links go Down (R439). -/
def State.resetHall (s : State) (h : Nat) : State :=
  let x := s.hall h
  let s := s.setHall h { x with
    cat := [], ordered := [], barriers := []
    regions := mapRegions (fun r => if r.owner = 1 then { r with full := [] } else r) x.regions }
  let s := (s.setFld (hallCat h 0) 0 16 0).zeroSram (galBase h) (2 ^ 28)
  foldOver (fun (t : State) i => if 2 ≤ t.linkState (8 * h + i) then t.linkDown (8 * h + i) 0 else t) s (List.range 8)

def State.resetScope (s : State) (sc : Scope) : State :=
  let s := foldOver (fun t n => t.resetCore n) s (scopeCores sc)
  let s := foldOver (fun t c => t.resetCluster c) s (scopeClusters sc)
  match sc with
  | .hall h => s.resetHall h.val
  | .device => foldOver (fun t h => t.resetHall h) (s.setFld 0x0008 4 1 1).flrSteps [0, 1, 2, 3]
  | _ => s

/-- A unit that is not reset stays fenced until the next power cycle; the device enters its safe state (R440, R449). -/
def State.giveUp (s : State) (sc : Scope) : State :=
  let s := { s with recoveries := s.recoveries.filter (fun (r : Recovery) => decide (r.scope ≠ sc)) }.permanent sc
  match sc with
  | .device => s.safeState.holdLinks
  | .hall h => s.setFld (foy 0x0500) (28 + h.val) 1 0
  | _ => s

/-- Steps 2 and 3 of a recovery that has begun. -/
def State.runRecovery (s : State) (r : Recovery) : State :=
  let s := s.endScope r.scope r.code
  if r.stuck then s.giveUp r.scope
  else
    let s := s.resetScope r.scope
    { s with recoveries := s.recoveries.map (fun (q : Recovery) => if q.scope = r.scope then { q with reset := true } else q) }

/-- RECOVERY_START: the scope's jobs end and its units are reset; a device recovery waits until its cause has cleared (R438,
R443). A scope with no recovery in progress begins one, the fault being one that no other command reports (R436). -/
def execRecoveryStart (scope : Scope) (s : State) : Host.Outcome State Fault Refusal :=
  let s := if s.recoveries.any (fun (r : Recovery) => decide (r.scope = scope)) then s else s.beginRecovery scope 0 0
  match s.recoveries.find? (fun (r : Recovery) => decide (r.scope = scope)) with
  | none => .next s
  | some r =>
    if decide (scope = .device) && s.recoveryHeld && !r.stuck then .next s
    else if r.reset then .next s
    else .next (s.runRecovery r)

/-- The state code of R465, which POWER.STAT.STATE shows at every read. -/
def State.powerState (s : State) : Nat :=
  if s.phase = .safe ∨ s.recoveries.any (fun (r : Recovery) => decide (r.scope = .device)) then 3
  else if s.jobs.isEmpty &&
      (List.range 32).all (fun c => s.clusterGated c) &&
      [0, 1, 2, 3].all (fun h => (List.range 48).all (fun g => decide (g = 0) || s.groupGated h g)) then 2
  else if s.fld (foy 0x0600) 0 2 ≠ 0 ∨ s.fld (foy 0x0620) 44 4 ≠ 8 then 1 else 0

/-- The fences of a scope are released (R14, R438 step 5): the units that no fence until power cycle holds; STEP is 0 in a core that
returns to service (R76). -/
def State.release (s : State) (sc : Scope) : State :=
  let s := foldOver (fun (t : State) n =>
    if bitAt (t.rget (foy (0x0510 + 8 * (n / 64)))).toNat (n % 64) then t
    else (setCoreFence t n false).setFld (coreReg n 0xC0) 0 6 0) s (scopeCores sc)
  foldOver (fun (t : State) c => if t.clusterPermanent c then t else setService t c true) s (scopeClusters sc)

/-- RECOVERY_END: every slice of the recovery has run (R438 step 5, R440, R450); READY comes back only in service, not in test mode
(R430) or the safe state (R449). -/
def execRecoveryEnd (scope : Scope) (passed : Bool) (s : State) : Host.Outcome State Fault Refusal :=
  match s.recoveries.find? (fun (r : Recovery) => decide (r.scope = scope) && r.reset) with
  | none => .next s
  | some r =>
    let s := s.post 0x1041 (scopeSrc scope).1 (scopeSrc scope).2 0 [BitVec.ofNat 64 (scopeUnit scope).toNat, BitVec.ofNat 64 r.code.toNat]
    if !passed || r.stuck then .next (s.giveUp scope)
    else
      let s := { s with recoveries := s.recoveries.filter (fun (q : Recovery) => decide (q.scope ≠ scope)) }.release scope
      match scope with
      | .hall h => .next (s.setFld (foy 0x0500) (28 + h.val) 1 0)
      | .device =>
        let s := (s.setFld (foy 0x0500) 32 1 0).setFld 0x0008 4 1 0
        let s := if s.phase = .service ∨ s.phase = .booting then
            { s with selfRefresh := 0, pins := { s.pins with faultN := true } } else s
        if s.phase = .service then
          .next ((s.setFld 0x0008 0 1 1).event 0)
        else .next s
      | _ => .next s

/-- WATCHDOG_EXPIRY: a Curator's or the Foyer's watchdog has run out (R437). -/
def execWatchdogExpiry (cluster : Option (Fin 32)) (s : State) : Host.Outcome State Fault Refusal :=
  match cluster with
  | some c => .next (s.beginRecovery (.cluster c) 0 0)
  | none => .next (s.beginRecovery .device 0 0)

/-- DEVICE_RECOVERY_TIMEOUT: a device recovery has not ended within 2.5 s (R449). -/
def execDeviceRecoveryTimeout (s : State) : Host.Outcome State Fault Refusal :=
  match s.recoveries.find? (fun (r : Recovery) => decide (r.scope = .device)) with
  | none => .next s
  | some r =>
    if s.recoveryHeld || decide (s.hclk < r.since + 1500000000) then .next s
    else .next ((s.endScope .device r.code).giveUp .device)

/-- The bound of a device recovery runs from the moment its cause has cleared. -/
def State.restartBound (s : State) : State :=
  { s with recoveries := s.recoveries.map (fun (q : Recovery) => if q.scope = .device then { q with since := s.hclk } else q) }

end Sys2Proof.Machine
end

