-- ==== Sys2Proof/Machine/Inventory.lean ====
section
/-! DEFINITION. Inventory (15_faults_inventory R444 to R448): the targets, when their slices run, and what a signature does. -/

namespace Sys2Proof.Machine

/-- The kinds of target in the order of R444. -/
def targetKind (t : Nat) : Nat :=
  if t < 256 then 0 else if t < 512 then 1 else if t < 768 then 2 else if t < 800 then 3 else if t < 992 then 4
  else if t < 996 then 5 else if t < 1004 then 6 else if t < 1008 then 7 else if t < 1040 then 8 else t - 1031

/-- The scope that a failed slice of a target raises; none for a link (R436, R446). -/
def targetScope (t : Nat) : Option Scope :=
  match targetKind t with
  | 0 => some (.core (Fin.ofNat 256 t))
  | 1 => some (.core (Fin.ofNat 256 t))
  | 2 => some (.core (Fin.ofNat 256 t))
  | 3 => some (.cluster (Fin.ofNat 32 (t - 768)))
  | 4 => some (.hall (Fin.ofNat 4 ((t - 800) / 48)))
  | 5 => some (.hall (Fin.ofNat 4 (t - 992)))
  | 6 => some (.hall (Fin.ofNat 4 ((t - 996) / 2)))
  | 7 => some (.hall (Fin.ofNat 4 (t - 1004)))
  | 8 => none
  | _ => some .device

/-- The unit at which one slice runs at a time: a core, a cluster or a Hall (R445). -/
def targetUnit (t : Nat) : Nat :=
  match targetKind t with
  | 0 => t % 256
  | 1 => t % 256
  | 2 => t % 256
  | 3 => 256 + (t - 768)
  | 4 => 300 + (t - 800) / 48
  | 5 => 300 + (t - 992)
  | 6 => 300 + (t - 996) / 2
  | 7 => 300 + (t - 1004)
  | _ => t

def isDocDeacc (q : QEntry) : Bool :=
  match q.instr with
  | .docent .. => true
  | .deacc .. => true
  | _ => false

def isCat (q : QEntry) : Bool :=
  match q.instr with
  | .catadd .. => true
  | .catflush .. => true
  | _ => false

/-- The condition under which a target's slice runs (R444). -/
def State.sliceReady (s : State) (t : Nat) : Bool :=
  match targetKind t with
  | 0 => !(s.core (t % 256)).running
  | 1 => !(s.core (t % 256)).running
  | 2 => (s.core (t % 256)).checkQ.isEmpty && (s.core (t % 256)).checkNow.isNone
  | 3 => (List.range 8).all (fun i =>
      (s.core (8 * (t - 768) + i)).queue.all (fun q => q.queue != .conservator && !(isDocDeacc q)))
  | 4 => (s.hall ((t - 800) / 48)).scrub.isEmpty
  | 5 => (List.range 64).all (fun i => (s.core (64 * (t - 992) + i)).queue.all (fun q => !(isCat q)))
  | 7 =>
    let h := t - 1004
    (s.hall h).scrub.isEmpty && s.arrivals.all (fun a => a.win.1 != h && a.link.map linkHall != some h) &&
      s.sent.all (fun q => s.sentHall q != h) && (List.range 8).all (fun i => (s.link (8 * h + i)).waiting.isEmpty)
  | _ => true

/-- HCLK at which a target comes due: INV.CTL.PERIOD seconds from the end of its last slice (R445). -/
def State.dueAt (s : State) (t : Nat) : Nat :=
  (Assoc.find s.invLast t).getD s.invStart + 600000000 * min 3600 (max 10 (s.fld (foy 0x0568) 0 12))
def State.due (s : State) (t : Nat) : Bool := decide (s.dueAt t ≤ s.hclk) && !(s.invRun.contains t)

/-- Whether a target's slice may start now: due, its condition holds, no slice runs at its unit, and no lower target of the
unit could start (R445). -/
def State.sliceStarts (s : State) (t : Nat) : Bool :=
  decide (t < 1045) && decide (s.phase = .service) && s.due t && s.sliceReady t &&
    !(s.invRun.any (fun r => targetUnit r == targetUnit t)) &&
    !((List.range t).any (fun u => targetUnit u == targetUnit t && s.due u && s.sliceReady u))

/-- A slice starts; the units of a cluster target freeze their Deaccession unit meanwhile (R170). -/
def State.startSlice (s : State) (t : Nat) : State :=
  let s := { s with invRun := insertNat t s.invRun }
  if targetKind t = 3 then s.setCluster (t - 768) { s.cluster (t - 768) with invTest := true } else s

/-- INVENTORY_SLICE_DUE: a target's slice runs where its condition holds. -/
def execInventorySliceDue (target : BitVec 11) (s : State) : Host.Outcome State Fault Refusal :=
  .next (if s.sliceStarts target.toNat then s.startSlice target.toNat else s)

/-- INVENTORY_FORCE: a slice that has not run within GRACE of its due time is forced: new work to the target is held. -/
def execInventoryForce (target : BitVec 11) (s : State) : Host.Outcome State Fault Refusal :=
  let t := target.toNat
  let grace := 600000000 * min 60 (max 1 (s.fld (foy 0x0568) 16 6))
  if t < 1045 ∧ s.phase = .service ∧ s.due t = true ∧ s.dueAt t + grace ≤ s.hclk ∧ s.invHeld.contains t = false then
    let s := { s with invHeld := insertNat t s.invHeld }.bump (foy 0x0588) 1
    .next (if s.sliceStarts t then s.startSlice t else s)
  else .next s

/-! Signatures (R446, R447). -/

/-- A failed slice at a scope: BIST_FAIL, the holding job's report, and the recovery (R447). -/
def State.bistFail (s : State) (t : Nat) (sc : Scope) : State :=
  let aux := BitVec.ofNat 16 t
  let jobs : List Half := match sc with
    | .core n => [(s.cluster (n.val / 8)).job]
    | .cluster n => [(s.cluster n.val).job]
    | _ => []
  let s := foldOver (fun (u : State) (h : Half) => if h = 0 then u else u.report { job := h, code := codeBist, iaddr := 0, unit := scopeUnit sc, aux := aux }) s jobs
  s.beginRecovery sc codeBist aux

/-- INV.FAIL and INV.FAILS (R447). -/
def State.latchFail (s : State) (t : Nat) (sig : BitVec 64) : State :=
  (s.rput (foy 0x0598) (BitVec.ofNat 64 (t + 2 ^ 15 + sig.toNat % 2 ^ 32 * 2 ^ 32))).bump (foy 0x0590) 1

/-- A sensor is excluded and marked (R446, R451). -/
def State.exclude (s : State) (reg i : Nat) : State :=
  let s := (s.setFld (foy reg) i 1 1).setFld (foy 0x0500) 2 1 1
  (s.moduleEvent (if reg = 0x05A0 then 10 else 11) (foy reg)).replaceMe

/-- The die of a diode: its Hall, or 4 for the Foyer (R452). -/
def diodeDie (d : Nat) : Nat := if d < 56 then d / 14 else 4

/-- The diodes whose checks failed are excluded; a second one on a die raises the die's scope (R446). -/
def State.failDiodes (s : State) (t : Nat) (ds : List Nat) : State :=
  foldOver (fun (u : State) d =>
    let die := diodeDie d
    let before := (List.range 64).any (fun e => diodeDie e == die && bitAt (u.rget (foy 0x05A0)).toNat e)
    let u := u.exclude 0x05A0 d
    if before then u.bistFail t (if die = 4 then .device else .hall (Fin.ofNat 4 die)) else u) s ds

/-- The checks of an analogue target that failed: bits that are 0. -/
def failedBits (n : Nat) (sig : BitVec 64) : List Nat := (List.range n).filter (fun i => !(bitAt sig.toNat i))

/-- The checks of the clocks: ACLK, NCLK, CCLK, HCLK, the root, the 8 HBM PLLs, the 32 SerDes PLLs and the PCIe PLL, in this
order: what each failure takes down (R446, R455). -/
def State.failClock (s : State) (t i : Nat) : State :=
  if 5 ≤ i ∧ i < 13 then s.bistFail t (.hall (Fin.ofNat 4 ((i - 5) / 2)))
  else if 13 ≤ i ∧ i < 45 then (if 2 ≤ s.linkState (i - 13) then s.linkDown (i - 13) (causeCode .pll) else s)
  else s.bistFail t .device

/-- What the end of a slice means: whether it passed, and the state. -/
def State.judgeSlice (s : State) (t : Nat) (sig : BitVec 64) : State × Bool :=
  match targetKind t with
  | 8 =>
    if sig.setWidth 32 = Config.bistSignature 8 then (s, true)
    else
      let s := s.latchFail t sig
      (if 2 ≤ s.linkState (t - 1008) then s.linkDown (t - 1008) (causeCode .inventory) else s.bump (linkReg (t - 1008) 0x28) 1, false)
  | 9 =>
    let bad := failedBits 46 sig
    if bad.isEmpty then (s, true) else (foldOver (fun u i => u.failClock t i) (s.latchFail t sig) bad, false)
  | 10 =>
    let bad := (failedBits 64 sig).filter (fun d => !(bitAt (s.rget (foy 0x05A0)).toNat d))
    if bad.isEmpty then (s, true) else ((s.latchFail t sig).failDiodes t bad, false)
  | 11 =>
    let bad := (failedBits 24 sig).filter (fun v => !(bitAt (s.rget (foy 0x05A8)).toNat v))
    let gap := !(bitAt sig.toNat 24)
    if bad.isEmpty && !gap then (s, true)
    else
      let u := foldOver (fun u v => u.exclude 0x05A8 v) (s.latchFail t sig) bad
      (if gap then u.bistFail t .device else u, false)
  | 12 =>
    if sig = BitVec.allOnes 64 then ({ s with invAmps := 0 }, true)
    else if s.invAmps < 2 then ({ s with invAmps := s.invAmps + 1 }, true)
    else (({ s with invAmps := 0 }.latchFail t sig).bistFail t .device, false)
  | k =>
    if sig.setWidth 32 = Config.bistSignature k then (s, true)
    else
      let s := s.latchFail t sig
      ((targetScope t).elim s (fun sc => s.bistFail t sc), false)

/-- A full rotation ends when every target has passed once (R445). -/
def State.passTarget (s : State) (t : Nat) : State :=
  let l := insertNat t s.invPassed
  if (List.range 1045).all (fun u => l.contains u) then { s with invPassed := [] }.bump (foy 0x0578) 1
  else { s with invPassed := l }

/-- INVENTORY_SLICE_END: a slice ends with its signature (R445 to R447); an analogue target's signature holds one bit for
each check. -/
def execInventorySliceEnd (target : BitVec 11) (signature : BitVec 64) (s : State) : Host.Outcome State Fault Refusal :=
  let t := target.toNat
  if s.invRun.contains t then
    let s := { s with
      invRun := s.invRun.filter (fun u => u != t), invHeld := s.invHeld.filter (fun u => u != t)
      invLast := Assoc.insert s.invLast t s.hclk }.bump (foy 0x0580) 1
    let s := if targetKind t = 3 then s.setCluster (t - 768) { s.cluster (t - 768) with invTest := false } else s
    let r := s.judgeSlice t signature
    .next (if r.2 then r.1.passTarget t else r.1)
  else .next s

end Sys2Proof.Machine
end

