-- ==== Sys2Proof/Machine/PowerThermal.lean ====
section
/-! DEFINITION. Clocks, power and temperature (16_clocks_power_thermal R455 to R471; 03_bit_serial_engine R76): the 1 ms
evaluation, the clamp, the thermal trip and the loss of the reference. -/

namespace Sys2Proof.Machine

/-- A divider in force (R457, R458, R459): every core's STEP is at most the new floor, and its window of the voltage loop
ends without a change. Lowering STEP here is no step of the voltage loop: it writes no entry and counts in no field (DESIGN
CHOICE, notes/assumptions/162.md). -/
def State.setDivider (s : State) (d cause : Nat) : State :=
  let old := s.fld (foy 0x0600) 0 2
  if old = d then s
  else
    let s := (s.setFld (foy 0x0600) 0 2 d).bump (foy 0x06A0) 1
    let s := s.post 0x1002 0 0 0 [BitVec.ofNat 64 old, BitVec.ofNat 64 d, BitVec.ofNat 64 cause]
    foldOver (fun (t : State) n =>
      let t := if fusedFloor d < t.fld (coreReg n 0xC0) 0 6 then t.setFld (coreReg n 0xC0) 0 6 (fusedFloor d) else t
      t.setCore n { t.core n with winDiv := true }) s (List.range 256)

/-- The divider and the duty in force: the slower and the lower of the two requests; CAUSE when one of them changes (R461). -/
def State.applyRequests (s : State) : State :=
  let p := s.power
  let d := max p.capDiv p.thDiv
  let u := min p.capDuty p.thDuty
  let cause := if s.clampOn then 3 else if d = p.capDiv ∧ u = p.capDuty then 1 else 2
  if s.fld (foy 0x0600) 0 2 = d ∧ s.fld (foy 0x0620) 44 4 = u then s
  else ((s.setDivider d cause).setFld (foy 0x0620) 44 4 u).setFld (foy 0x0600) 44 3 cause

/-- cap_request of R461. -/
def capRequest (p : Power) (p1 cap : Nat) : Power :=
  if cap < p1 then
    if p.capDiv < 3 then { p with capDiv := p.capDiv + 1, under := 0 }
    else { p with capDuty := if 1 < p.capDuty then p.capDuty - 1 else p.capDuty, under := 0 }
  else if p1 * 100 ≤ cap * 95 then
    if 10 ≤ p.under + 1 then
      if p.capDuty < 8 then { p with capDuty := p.capDuty + 1, under := 0 }
      else { p with capDiv := p.capDiv - 1, under := 0 }
    else { p with under := p.under + 1 }
  else { p with under := 0 }

/-- The thermal request of R468, a step slower being taken from the setting in force. -/
def thermalRequest (p : Power) (div duty t throttle : Nat) : Power :=
  if throttle ≤ t then
    if div < 3 then { p with thDiv := div + 1, thDuty := duty, cool := 0 }
    else { p with thDiv := 3, thDuty := max 1 (duty - 1), cool := 0 }
  else if t ≤ throttle - 5 then
    if 10 ≤ p.cool + 1 then
      if p.thDuty < 8 then { p with thDuty := p.thDuty + 1, cool := 0 }
      else { p with thDiv := p.thDiv - 1, cool := 0 }
    else { p with cool := p.cool + 1 }
  else { p with cool := 0 }

/-- The readings of the 64 diodes in THERM.DIODE and THERM.STAT: T is the highest of those that are not excluded (R467). -/
def State.readDiodes (s : State) (diodes : List (BitVec 8)) : State :=
  let at_ := fun (i : Nat) => ((diodes[i]?).getD 0).toNat
  let s := foldOver (fun (t : State) i => t.rput (foy (0x0640 + 8 * i))
    (BitVec.ofNat 64 (leNat ((List.range 8).map (fun j => BitVec.ofNat 8 (at_ (8 * i + j))))))) s (List.range 8)
  let live := (List.range 64).filter (fun d => !(bitAt (s.rget (foy 0x05A0)).toNat d))
  let best := foldOver (fun (b : Nat × Nat) d => if b.1 < at_ d then (at_ d, d) else b) (0, live.headD 0) live
  (s.setFld (foy 0x0630) 0 8 best.1).setFld (foy 0x0630) 8 6 best.2

/-- ACLK cycles in 1 ms at a divider, one eighth of them (R4, R457). -/
def eighthMs (d : Nat) : Nat := match d with | 0 => 150000 | 1 => 120000 | 2 => 100000 | _ => 75000

/-- CONTROLLER_EVALUATION: the averages and temperatures are read, and the controller forms its requests (R460, R461, R467,
R468); POWER.DUTY_HOLD counts the cycles that the duty held in the millisecond before (R462). -/
def execControllerEvaluation (samples : PowerSample) (diodes : List (BitVec 8)) (s : State) : Host.Outcome State Fault Refusal :=
  if s.phase ≠ .service then .next s
  else
    let sat := fun (x w : Nat) => min x (2 ^ w - 1)
    let s := (s.setFld (foy 0x0620) 0 11 (sat samples.p1 11)).setFld (foy 0x0620) 16 11 (sat samples.p100 11)
    let s := (s.setFld (foy 0x0620) 28 8 (sat samples.volt4 8)).setFld (foy 0x0620) 36 8 (sat samples.amp4 8)
    let s := s.readDiodes diodes
    let d := s.fld (foy 0x0600) 0 2
    let u := s.fld (foy 0x0620) 44 4
    let s := s.bump (foy 0x0680) ((8 - u) * eighthMs d)
    let p := if s.clampOn then s.power else capRequest s.power samples.p1 (s.fld (foy 0x0608) 0 11)
    let p := thermalRequest p d u (s.fld (foy 0x0630) 0 8) (s.fld (foy 0x0628) 0 8)
    let hot := decide (p.thDiv ≠ 0 ∨ p.thDuty ≠ 8)
    let s := { s with power := p }.setFld (foy 0x0630) 16 1 (if hot then 1 else 0)
    let s := if hot then s.bump (foy 0x0690) 1 else s
    let s := if s.fld (foy 0x0630) 17 1 = 1 then s else s.applyRequests
    .next s

/-- POWER_CLAMP: the hardware clamp acts (R464). -/
def execPowerClamp (s : State) : Host.Outcome State Fault Refusal :=
  if s.clampOn ∨ s.phase ≠ .service then .next s
  else
    let s := { s with clampOn := true, power := { s.power with capDiv := 3, capDuty := 4, under := 0 } }
    let s := (s.setFld (foy 0x0620) 50 1 1).bump (foy 0x0688) 1
    let s := s.post 0x1003 0 0 0 [BitVec.ofNat 64 (s.fld (foy 0x0620) 0 11), BitVec.ofNat 64 (s.fld (foy 0x0620) 36 8)]
    .next ((s.alert 1 true).applyRequests)

/-- CLAMP_RELEASE: the clamp has held for 10 ms (R464). -/
def execClampRelease (s : State) : Host.Outcome State Fault Refusal :=
  if s.clampOn then
    let s := { s with clampOn := false }.setFld (foy 0x0620) 50 1 0
    let s := s.post 0x1004 0 0 0 [BitVec.ofNat 64 (s.fld (foy 0x0620) 0 11), BitVec.ofNat 64 (s.fld (foy 0x0620) 36 8)]
    .next (s.alert 1 false)
  else .next s

/-- Every active job ends with a fault code at device scope (R469, R478). -/
def State.endEvery (s : State) (code aux : Half) : State :=
  foldOver (fun (t : State) (j : Nat × Job) => t.endJob j.1 1 code 0 0x4000#16 aux .write) s
    s.jobs

/-- THERMAL_TRIP: a diode that is not excluded reaches 110 °C (R469). -/
def execThermalTrip (diode : Fin 64) (s : State) : Host.Outcome State Fault Refusal :=
  let d := diode.val
  if bitAt (s.rget (foy 0x05A0)).toNat d ∨ s.fld (foy 0x0630) 17 1 = 1 ∨ s.phase ≠ .service then .next s
  else
    let s := { s with selfRefresh := 0xFF#8, power := { s.power with thDiv := 3 }, pins := { s.pins with thermTripN := false } }
    let s := ((s.setFld (foy 0x0630) 16 1 1).setFld (foy 0x0630) 17 1 1).bump (foy 0x0698) 1
    let s := (s.setDivider 3 2).setFld (foy 0x0600) 44 3 (if s.fld (foy 0x0600) 0 2 = 3 then s.fld (foy 0x0600) 44 3 else 2)
    let s := s.endEvery codeThermal (BitVec.ofNat 16 d)
    .next (s.beginRecovery .device codeThermal (BitVec.ofNat 16 d))

/-- The reading of a diode. -/
def State.diodeAt (s : State) (d : Nat) : Nat := s.fld (foy (0x0640 + 8 * (d / 8))) (8 * (d % 8)) 8

/-- THERMAL_TRIP_CLEAR: every diode that is not excluded reads 85 °C or less; the device recovery may start (R469). -/
def execThermalTripClear (s : State) : Host.Outcome State Fault Refusal :=
  if s.fld (foy 0x0630) 17 1 = 1 ∧
      (List.range 64).all (fun d => bitAt (s.rget (foy 0x05A0)).toNat d || decide (s.diodeAt d ≤ 85)) = true then
    .next ({ s with pins := { s.pins with thermTripN := true } }.setFld (foy 0x0630) 17 1 0).restartBound
  else .next s

/-- REFCLK_LOSS: the root synthesizer has lost its lock (R455). -/
def execRefclkLoss (s : State) : Host.Outcome State Fault Refusal :=
  if s.fld (foy 0x0600) 2 1 = 1 then .next ((s.setFld (foy 0x0600) 2 1 0).beginRecovery .device 0 0) else .next s

/-- REFCLK_RESTORED: REFCLK has been valid again for 1 ms (R455). -/
def execRefclkRestored (s : State) : Host.Outcome State Fault Refusal :=
  if s.fld (foy 0x0600) 2 1 = 0 ∧ s.phase = .service then .next ((s.setFld (foy 0x0600) 2 1 1).restartBound) else .next s

end Sys2Proof.Machine
end

