-- ==== Sys2Proof/Machine/Module.lean ====
section
/-! DEFINITION. The module (17_module R473 to R487): the input stage, cables and their eFuses, coolant and leak sensors, time and
TIME_PPS, the addresses of the management endpoint. -/

namespace Sys2Proof.Machine

/-- Nothing is powered: only the flash, what the input stage holds, the tray's pins and the host's own memory stay (R470, R476,
R478). -/
def State.powerOff (s : State) : State :=
  { State.reset with
    pending := s.pending
    flash := s.flash
    hostMem := s.hostMem
    out := s.out
    fresh := s.fresh + 1
    latchCause := s.latchCause
    latched := s.latched
    latchNews := s.latchNews
    pins := { s.pins with pwrGood := false, faultN := true, alertN := true, thermTripN := true, vbAttnN := true }
    phase := .off }

def State.powered (s : State) : Bool := decide (s.phase ≠ .off)

/-! Input faults (R477, R478). -/

/-- INPUT_LATCH_OFF: the input stage turns off; an overcurrent, a short and an overvoltage lockout latch it. -/
def execInputLatchOff (cause : BitVec 4) (s : State) : Host.Outcome State Fault Refusal :=
  if s.powered && decide (cause = 1 ∨ cause = 2 ∨ cause = 5 ∨ cause = 6) then
    .next { s.powerOff with latchCause := cause, latchNews := true, latched := decide (cause ≠ 5) }
  else .next s

/-- MGMT.INPUT.LAST_CAUSE, which the input stage holds too. -/
def State.inputCause (s : State) (cause : BitVec 4) : State :=
  { s with latchCause := cause }.setFld (foy 0x0728) 0 4 cause.toNat

/-- POWER_INPUT: an undervoltage or an overvoltage ends every job; the device recovery waits for the input. -/
def execPowerInput (cause : BitVec 4) (s : State) : Host.Outcome State Fault Refusal :=
  if s.powered && decide (cause = 3 ∨ cause = 4) then
    let s := (s.inputCause cause).moduleEvent 7 (foy 0x0728)
    if s.phase = .service then
      let aux : Half := cause.setWidth 16
      let s := s.endEvery codePowerInput aux
      .next ({ s with power := { s.power with hold := true } }.beginRecovery .device codePowerInput aux)
    else .next s
  else .next s

/-- INPUT_RESTORED: the input has stayed within 40 to 60 V for 10 ms. -/
def execInputRestored (s : State) : Host.Outcome State Fault Refusal :=
  if s.power.hold then .next ({ s with power := { s.power with hold := false } }.restartBound) else .next s

/-- INPUT_WARN: the warning of R478. -/
def execInputWarn (warn : Bool) (s : State) : Host.Outcome State Fault Refusal :=
  if s.powered then .next ((s.setFld (foy 0x0728) 4 1 (if warn then 1 else 0)).alert 6 warn) else .next s

/-! Cables (R481, R482). -/

def State.cable (s : State) (c lo w : Nat) : Nat := s.fld (cableReg c) lo w
def State.setCable (s : State) (c lo w x : Nat) : State := s.setFld (cableReg c) lo w x

/-- ALERT_N source 5: some eFuse is latched off. -/
def State.fuseAlert (s : State) : State := s.alert 5 ((List.range 8).any (fun c => decide (s.cable c 1 2 = 2)))

def State.setFast (s : State) (c n : Nat) : State := { s with fuseFast := Assoc.put 0 s.fuseFast c n }

/-- CABLE_PRESENT: CBL_PRSNT_N has been low for 100 ms; CBL_3V3 turns on. -/
def execCablePresent (cable : Fin 8) (s : State) : Host.Outcome State Fault Refusal :=
  let c := cable.val
  if s.powered && decide (s.cable c 0 1 = 0) then
    .next (((((s.setCable c 0 1 1).setCable c 1 2 0).setCable c 4 3 0).setFast c 0).fuseAlert)
  else .next s

/-- MGMT.CABLE.MEDIA for what a cable's memory answers. -/
def mediaCode : Medium → Nat
  | .copper => 1
  | .active => 2
  | .unsupported => 3
  | .noAnswer => 4

/-- CABLE_MEMORY_READ: 20 ms after a presence the cable's memory selects the channel; a medium that is not supported and a
cable that does not answer leave the links Disabled. -/
def execCableMemoryRead (cable : Fin 8) (medium : Medium) (s : State) : Host.Outcome State Fault Refusal :=
  let c := cable.val
  if s.powered && decide (s.cable c 0 1 = 1 ∧ s.cable c 1 2 = 0) then
    let s := s.setCable c 4 3 (mediaCode medium)
    let s := if 3 ≤ mediaCode medium then s.moduleEvent 13 (cableReg c) else s
    .next s.updateLinks
  else .next s

/-- CABLE_REMOVED: CBL_PRSNT_N has been high for 1 ms; a latched eFuse stays so until a cable comes again. -/
def execCableRemoved (cable : Fin 8) (s : State) : Host.Outcome State Fault Refusal :=
  let c := cable.val
  if s.powered && decide (s.cable c 0 1 = 1) then
    let s := (s.setCable c 0 1 0).setCable c 4 3 0
    let s := if s.cable c 1 2 = 1 then s.setCable c 1 2 0 else s
    .next s.updateLinks
  else .next s

/-- A trip of an eFuse: counted, and written to the Visitor Book. -/
def State.fuseTrip (s : State) (c state : Nat) : State :=
  ((s.bumpFld (cableReg c) 8 8 1).setCable c 1 2 state).moduleEvent 12 (cableReg c)

/-- EFUSE_TRIP: an eFuse that is on trips. -/
def execEfuseTrip (cable : Fin 8) (s : State) : Host.Outcome State Fault Refusal :=
  let c := cable.val
  if s.powered && decide (s.cable c 0 1 = 1 ∧ s.cable c 1 2 = 0) then
    .next (((s.fuseTrip c 1).setFast c 0).updateLinks)
  else .next s

/-- EFUSE_RETRY: 1 s after a trip the eFuse turns on again and holds, or trips within 100 ms; the third such trip in a row
latches it off. -/
def execEfuseRetry (cable : Fin 8) (holds : Bool) (s : State) : Host.Outcome State Fault Refusal :=
  let c := cable.val
  if s.powered && decide (s.cable c 1 2 = 1) then
    if holds then .next (((s.setCable c 1 2 0).setFast c 0).updateLinks)
    else
      let n := Assoc.get 0 s.fuseFast c + 1
      .next (((s.fuseTrip c (if 3 ≤ n then 2 else 1)).setFast c n).fuseAlert)
  else .next s

/-! Time (R485). -/

def nsPerS : Nat := 1000000000

/-- TIME_PPS: a rising edge; one that comes within 0.9 s of the last accepted edge is ignored. -/
def execTimePps (s : State) : Host.Outcome State Fault Refusal :=
  let early := match s.ppsAt with | some t => decide (s.hclk < t + 540000000) | none => false
  if !s.powered || early then .next s
  else
    let t := foy 0x0708
    let ns := s.fld t 0 30
    let late := decide (500000000 ≤ ns)
    let s := if late then s.bumpFld t 30 32 1 else s
    let err : Int := if late then (ns : Int) - nsPerS else ns
    let s := s.setFld (foy 0x0718) 0 32 (BitVec.ofInt 32 err).toNat
    let s := (s.setFld t 0 30 0).setFld t 62 1 1
    let s := s.bumpFld (foy 0x0718) 32 32 1
    let s := match s.timeSet with | some v => s.setFld t 30 32 v.toNat | none => s
    .next { s with timeSet := none, ppsAt := some s.hclk }

/-- PPS_SYNC_LOST: no edge has been accepted for 2 s. -/
def execPpsSyncLost (s : State) : Host.Outcome State Fault Refusal :=
  match s.ppsAt with
  | some t => .next (if t + 1200000000 ≤ s.hclk then s.setFld (foy 0x0708) 62 1 0 else s)
  | none => .next s

/-- A write of MGMT.TIME_SET. -/
def State.timeWrite (s : State) (v : Word) : State :=
  if s.fld (foy 0x0708) 62 1 = 1 then { s with timeSet := some v }
  else (s.setFld (foy 0x0708) 30 32 v.toNat).setFld (foy 0x0708) 0 30 0

/-- TIME_SET: the host writes MGMT.TIME_SET. -/
def execTimeSet (value : BitVec 64) (s : State) : Host.Outcome State Fault Refusal :=
  .next (if s.hostOpen (foy 0x0710) then s.timeWrite (value.setWidth 32) else s)

/-! Coolant and leak sensors (R479, R480, R487). -/

/-- Three samples in a row that agree change a sensor's state: the new bookkeeping and the state. -/
def debounce (d : Debounce) (now sample : Nat) : Debounce × Nat :=
  if sample = now then ({}, now)
  else
    let n := if d.state = sample then d.count + 1 else 1
    if 3 ≤ n then ({}, sample) else ({ state := sample, count := n }, now)

/-- The temperature conditions of ALERT_N against COOL.CTL. -/
def State.coolAlerts (s : State) : State :=
  let st := foy 0x0730
  let ctl := foy 0x0738
  let valid := decide (s.fld st 12 2 = 0 ∧ s.fld st 0 11 ≠ 0x7FF)
  let t := signExt (s.fld st 0 11) 11
  let s := s.alert 3 (valid && (decide ((4 * s.fld ctl 0 8 : Int) < t) || decide (t < (4 * s.fld ctl 8 8 : Int))))
  s.alert 4 (decide (s.fld st 12 2 ≠ 0))

/-- COOLANT_SAMPLE: one sample of the inlet thermistor: valid, open or short, and its reading in quarter degrees. -/
def execCoolantSample (state : Fin 3) (reading : BitVec 11) (s : State) : Host.Outcome State Fault Refusal :=
  if s.powered then
    let st := foy 0x0730
    let r := debounce s.coolDeb (s.fld st 12 2) state.val
    let s := { s with coolDeb := r.1 }.setFld st 12 2 r.2
    let s := if r.2 ≠ 0 then s.setFld st 0 11 0x7FF else if state.val = 0 then s.setFld st 0 11 reading.toNat else s
    .next s.coolAlerts
  else .next s

/-- LEAK_SAMPLE: one sample of each leak sensor. -/
def execLeakSample (a b : BitVec 2) (s : State) : Host.Outcome State Fault Refusal :=
  if s.powered then
    let st := foy 0x0730
    let oldA := s.fld st 16 2
    let oldB := s.fld st 18 2
    let ra := debounce s.leakA oldA a.toNat
    let rb := debounce s.leakB oldB b.toNat
    let s := ({ s with leakA := ra.1, leakB := rb.1 }.setFld st 16 2 ra.2).setFld st 18 2 rb.2
    let s := if ra.2 = 1 ∧ oldA ≠ 1 then s.moduleEvent 8 st else s
    let s := if rb.2 = 1 ∧ oldB ≠ 1 then s.moduleEvent 9 st else s
    .next (s.alert 2 (decide (ra.2 = 1 ∨ rb.2 = 1)))
  else .next s

/-! The endpoint's addresses (R483). -/

/-- DYNAMIC_ADDRESS_ASSIGN: SETDASA or ENTDAA. -/
def execDynamicAddressAssign (addr : BitVec 7) (s : State) : Host.Outcome State Fault Refusal :=
  .next (if s.powered then (s.setFld (foy 0x0700) 8 7 addr.toNat).setFld (foy 0x0700) 15 1 1 else s)

/-- DYNAMIC_ADDRESS_RESET: RSTDAA. -/
def execDynamicAddressReset (s : State) : Host.Outcome State Fault Refusal :=
  .next (if s.powered then (s.setFld (foy 0x0700) 8 7 0).setFld (foy 0x0700) 15 1 0 else s)

end Sys2Proof.Machine
end

