-- ==== Sys2Proof/Machine/Clock.lean ====
section
/-! DEFINITION. What one HCLK does when no command waits (17_module R485; 09_nupor_model R310): the step on an empty queue. -/

namespace Sys2Proof.Machine

/-- MGMT.TIME advances by 5 ns every 3 HCLK (R485). -/
def State.advanceTime (s : State) : State :=
  let t := foy 0x0708
  if s.hclk % 3 ≠ 2 then s
  else if s.fld t 0 30 + 5 < nsPerS then s.setFld t 0 30 (s.fld t 0 30 + 5)
  else (s.setFld t 0 30 (s.fld t 0 30 + 5 - nsPerS)).bumpFld t 30 32 1

/-- Each Curator takes the oldest event of its queue (R310). -/
def State.takeEvents (s : State) : State :=
  { s with clusters := (s.clusters.map (fun e => (e.1, { e.2 with events := e.2.events.drop 1 }))).filter (fun e => decide (e.2 ≠ {})) }

/-- Whether the root synthesizer runs, so that HCLK ticks (R454, R498). -/
def State.clocked (s : State) : Bool := decide (s.phase ≠ .off ∧ s.phase ≠ .powered)

/-- One HCLK without a command. -/
def State.tick (s : State) : State :=
  if s.clocked then { s.advanceTime.takeEvents with hclk := s.hclk + 1 } else s

end Sys2Proof.Machine
end

