-- ==== Sys2Proof/Machine/Elementary.lean ====
section
/-! DEFINITION. The elementary functions of CFUNC that the manual fixes only within 2 ulp (10_nupor_reference R306): their exact
values in fixed point with 300 fractional bits, far finer than an ulp of any result, and the free value held within the bound. -/

namespace Sys2Proof.Machine

/-! Fixed point: an integer stands for itself over 2^300. -/

def fixMul (a b : Int) : Int := a * b / 2 ^ 300
def fixDiv (a b : Int) : Int := a * 2 ^ 300 / b
def fixOf (m : Nat) (e : Int) : Int := let f := shiftFrac m 1 (e + 300); (f.1 / f.2 : Nat)

/-- e^x for |x| up to 1/16, by its series. -/
def fixExpSmall (x : Int) : Int :=
  (foldOver (fun (a : Int × Int) n => (a.1 + a.2, fixMul a.2 x / (n + 1 : Nat))) (0, 2 ^ 300) (List.range 64)).1

/-- e^x: an argument beyond 128 counts as 128, where binary32 has overflowed or underflowed. -/
def fixExp (x : Int) : Int :=
  let a := min (x.natAbs : Int) (128 * 2 ^ 300)
  let y := foldOver (fun (v : Int) (_ : Nat) => fixMul v v) (fixExpSmall (a / 2 ^ 11)) (List.range 11)
  if x < 0 then fixDiv (2 ^ 300) y else y

/-- The inverse hyperbolic tangent for |z| up to 1/3, by its series. -/
def fixAtanh (z : Int) : Int :=
  (foldOver (fun (a : Int × Int) i => (a.1 + a.2 / (2 * i + 1 : Nat), fixMul a.2 (fixMul z z))) (0, z) (List.range 130)).1

/-- ln (m × 2^e) for a positive m. -/
def fixLog (m : Nat) (e : Int) : Int :=
  let k := floorLog2 m 1
  let r := fixOf m (-k)
  let u : Int × Int := if 3 * 2 ^ 299 ≤ r then (r / 2, k + 1) else (r, k)
  2 * fixAtanh (fixDiv (u.1 - 2 ^ 300) (u.1 + 2 ^ 300)) + (u.2 + e) * (2 * fixAtanh (2 ^ 300 / 3))

/-- The square root of a number that is not negative. -/
def fixSqrt (a : Int) : Int := (isqrtBits (a.natAbs * 2 ^ 300) 500 0 : Nat)

/-- The inverse tangent of 1/q, by its series. -/
def fixAtan (q : Nat) : Int :=
  foldOver (fun (a : Int) i =>
    let t : Int := (2 ^ 300 / (q ^ (2 * i + 1) * (2 * i + 1)) : Nat)
    if i % 2 = 0 then a + t else a - t) 0 (List.range 130)

/-- Pi. -/
def fixPi : Int := 16 * fixAtan 5 - 4 * fixAtan 239

/-- The error function: by its series up to 4, and 1 beyond, which is nearer than half an ulp. -/
def fixErf (x : Int) : Int :=
  if 4 * 2 ^ 300 ≤ x then 2 ^ 300
  else if x ≤ -(4 * 2 ^ 300) then -(2 ^ 300)
  else
    let r := foldOver (fun (a : Int × Int) n =>
      (a.1 + a.2 / (2 * n + 1 : Nat), -(fixMul a.2 (fixMul x x) / (n + 1 : Nat)))) (0, x) (List.range 200)
    fixDiv (2 * r.1) (fixSqrt fixPi)

/-- The exact value of a function of R306 at a finite argument at which it is finite. -/
def exactFunc (fn : Nat) (neg : Bool) (m : Nat) (e : Int) : Int :=
  let a := fixOf m e
  let x := if neg then -a else a
  match fn with
  | 0x00 => fixExp x
  | 0x01 => fixLog m e
  | 0x03 => fixDiv (2 ^ 300) (fixSqrt a)
  | 0x05 =>
    let t := fixExp (-2 * a)
    let v := fixDiv (2 ^ 300 - t) (2 ^ 300 + t)
    if neg then -v else v
  | 0x06 => fixDiv (2 ^ 300) (2 ^ 300 + fixExp (-x))
  | _ => fixErf x

/-- Whether a binary32 result lies within 2 ulp of an exact value. -/
def withinUlps (v : Int) (y : Word) : Bool :=
  match f32Val y with
  | .fin neg m e =>
    let ulp := fixOf 1 (if v = 0 then -149 else max (floorLog2 v.natAbs (2 ^ 300)) (-126) - 23)
    decide (((if neg then -(fixOf m e) else fixOf m e) - v).natAbs ≤ 2 * ulp.natAbs)
  | _ => false

/-- The result of a function that R306 fixes within 2 ulp: the free value where it lies within the bound, and otherwise the nearest
result, so that every result keeps the bound and every choice within it is allowed (notes/assumptions/49.md). -/
def boundedFunc (fn : BitVec 5) (x : Word) : Word :=
  match f32Val x with
  | .fin neg m e =>
    let v := exactFunc fn.toNat neg m e
    if withinUlps v (Config.cfunc fn x) then Config.cfunc fn x else roundF32 (decide (v < 0)) v.natAbs (2 ^ 300)
  | _ => f32NaN

end Sys2Proof.Machine
end

