-- ==== Sys2Proof/Machine/Conservator.lean ====
section
/-! DEFINITION. The Conservator instructions (10_nupor_reference R302 to R307): binary32 under RNE, never flushed. -/

namespace Sys2Proof.Machine

/-- XF16 or binary32 (R302). -/
def consFmt (t : Td) : Bool := decide (t.fmt = 0x24 ∨ t.fmt = 0x23)

/-- An operand element as binary32, exact; 0 beyond the tile. -/
def consElem (t : Td) (rd : Nat → Byte) (r k : Nat) : Word :=
  if t.rows < r ∨ t.kext < k then 0 else valF32 (t.value rd 1 0 r k)

/-- One result: the value, and whether it is a NaN that was produced. -/
structure CRes where
  val : Word
  nan : Bool
  deriving DecidableEq, Repr

/-- A result whose operands are given: a NaN is produced when none of them is NaN. -/
def cres (v : Word) (ops : List Word) : CRes := ⟨v, f32IsNaN v && ops.all (fun o => !(f32IsNaN o))⟩

/-- CVEC's operations (R303). -/
def cvecOp (op : Nat) (x y d : Word) : CRes :=
  match op with
  | 0x00 => cres (f32Add x y) [x, y]
  | 0x01 => cres (f32Sub x y) [x, y]
  | 0x02 => cres (f32Mul x y) [x, y]
  | 0x03 => cres (f32Fma x y d) [x, y, d]
  | 0x04 => cres (f32Max x y) [x, y]
  | 0x05 => cres (f32Min x y) [x, y]
  | 0x06 => cres (f32Abs x) [x]
  | _ => cres (f32Neg x) [x]

/-- One level of a tree of additions, with the NaNs it produced. -/
def ctreeLevel : List Word → List Word × Bool
  | a :: b :: t => let r := cres (f32Add a b) [a, b]; let u := ctreeLevel t; (r.val :: u.1, r.nan || u.2)
  | l => (l, false)

/-- The balanced tree of R94 over values padded to a power of two. -/
def ctree : Nat → List Word → CRes
  | _, [] => ⟨0, false⟩
  | _, [a] => ⟨a, false⟩
  | 0, a :: _ => ⟨a, false⟩
  | fuel + 1, l => let r := ctreeLevel l; let u := ctree fuel r.1; ⟨u.val, r.2 || u.nan⟩

/-- Padding with +0 to a power of two. -/
def padTwo (l : List Word) : List Word :=
  let n := l.length
  let m := if n ≤ 1 then n else 2 ^ (Nat.log2 (n - 1) + 1)
  l ++ (List.range (m - n)).map (fun _ => (0 : Word))

def sumTree (l : List Word) : CRes := let p := padTwo l; ctree (Nat.log2 p.length + 1) p

/-- Writes results into a tile: binary32 as they are, XF16 converted once; flags, the first NaN of a conversion and
whether an operation produced one. -/
structure COut where
  img : Assoc Byte := []
  flags : BitVec 11 := 0
  conv : Option Nat := none
  nan : Bool := false
  deriving DecidableEq, Repr

def COut.put (o : COut) (t : Td) (satNan : Bool) (rd : Nat → Byte) (r k : Nat) (v : CRes) : COut :=
  let e := t.fm.encode satNan 1 0 (f32Val v.val)
  let l := t.loc r k
  { img := putBits rd o.img l.1 l.2 t.width e.code, flags := o.flags ||| e.flags,
    conv := match o.conv with | some i => some i | none => if e.nan then some (r * t.kdim + k) else none,
    nan := o.nan || v.nan }

/-- The end of a Conservator instruction: flags, NaN of an operation (SOURCE 3), NaN of a conversion (SOURCE 0). The record's TENSOR is
the destination's (DEDUCED, notes/assumptions/37.md). -/
def State.consDone (s : State) (x : Ctx) (t : Td) (o : COut) : Res :=
  if o.nan then
    let s := (s.coreFlags x.n o.flags).nanRecord x.n x.iaddr x.opcode { tensor := t.tensor, source := 3 }
    if (s.core x.n).nanTrap then .fail s codeNanTrap 0 else s.converted x t.tensor 0 o.conv
  else s.converted x t.tensor o.flags o.conv

/-- Runs an element-wise or row-wise operation: `cells` lists the destination elements, `f` their results. -/
def State.consRun (s : State) (x : Ctx) (dst : Td) (reads : List (Nat × Nat)) (free : List (Nat × Nat)) (cut : Td)
    (check : (Nat → Byte) → Option (Half × Half)) (elems : List (Nat × Nat)) (f : (Nat → Byte) → Nat → Nat → CRes) : Res :=
  match outOfSalon x.n (reads ++ cut.ranges) with
  | some p => .fail s codeRegionBounds (kindCode p)
  | none =>
    let satNan := (s.core x.n).satNan
    let out := fun rd => foldOver (fun (o : COut) (e : Nat × Nat) => o.put dst satNan rd e.1 e.2 (f rd e.1 e.2)) {} elems
    s.transfer x { reads := reads ++ free, writes := cut.ranges, check := check } (fun rd => (out rd).img)
      (fun rd u => u.consDone x dst (out rd))

def tileElems (t : Td) : List (Nat × Nat) :=
  (List.range t.mdim).flatMap (fun r => (List.range t.kdim).map (fun k => (r, k)))

def workCvec (a b c : BitVec 5) (op : BitVec 6) (src : Bool) (imm : BitVec 32) : Work :=
  let useY := !src && decide (op.toNat ≤ 5)
  { opcode := 0x60, queue := .conservator, reserved := decide (7 < op.toNat),
    tds := if useY then [a.toNat, b.toNat, c.toNat] else [a.toNat, b.toNat],
    illegal := fun x _ =>
      if consFmt (Td.of (x.tdreg a.toNat)) && consFmt (Td.of (x.tdreg b.toNat)) &&
          (!useY || consFmt (Td.of (x.tdreg c.toNat))) then none else some 0x0003,
    reads := fun x => (Td.of (x.tdreg b.toNat)).bounds ++ (if useY then (Td.of (x.tdreg c.toNat)).bounds else []),
    writes := fun x => (Td.of (x.tdreg a.toNat)).bounds,
    run := fun x s =>
      let d := Td.of (x.tdreg a.toNat)
      let tx := Td.of (x.tdreg b.toNat)
      let ty := Td.of (x.tdreg c.toNat)
      s.consRun x d ((tx.cutTo d).ranges ++ (if useY then (ty.cutTo d).ranges else []) ++ (if op = 3 then d.ranges else []))
        [] d (fun _ => none) (tileElems d)
        (fun rd r k => cvecOp op.toNat (consElem tx rd r k)
          (if src then imm else if useY then consElem ty rd (if ty.rows = 0 then 0 else r) k else 0) (consElem d rd r k)) }

/-- CVEC: an element-wise operation (R303). -/
def execCvec (h : NHdr) (a b c : BitVec 5) (op : BitVec 6) (src : Bool) (imm : BitVec 32) (s : State) :
    Host.Outcome State Fault Refusal :=
  (workCvec a b c op src imm).meets h (.cvec h a b c op src imm) s

/-- CRED's reductions (R304). -/
def credOp (op : Nat) (l : List Word) : CRes :=
  match op with
  | 0 => sumTree l
  | 1 =>
    let q := l.map (fun v => cres (f32Mul v v) [v])
    let t := sumTree (q.map (fun v => v.val))
    ⟨t.val, t.nan || q.any (fun v => v.nan)⟩
  | 2 => match l with | [] => ⟨0, false⟩ | v :: t => ⟨foldOver f32Max v t, false⟩
  | 3 => match l with | [] => ⟨0, false⟩ | v :: t => ⟨foldOver f32Min v t, false⟩
  | _ => match l with | [] => ⟨0, false⟩ | v :: t => ⟨foldOver (fun m w => f32Max m (f32Abs w)) (f32Abs v) t, false⟩

def workCred (a b : BitVec 5) (op : BitVec 4) : Work :=
  { opcode := 0x61, queue := .conservator, reserved := decide (4 < op.toNat), tds := [a.toNat, b.toNat],
    illegal := fun x _ =>
      if consFmt (Td.of (x.tdreg a.toNat)) && consFmt (Td.of (x.tdreg b.toNat)) then none else some 0x0003,
    reads := fun x => (Td.of (x.tdreg b.toNat)).bounds, writes := fun x => (Td.of (x.tdreg a.toNat)).bounds,
    run := fun x s =>
      let d := Td.of (x.tdreg a.toNat)
      let tx := Td.of (x.tdreg b.toNat)
      let cut := { d with kext := 0, rows := min d.rows tx.rows }
      s.consRun x d tx.ranges [] cut (fun _ => none) (tileElems cut)
        (fun rd r _ => credOp op.toNat ((List.range tx.kdim).map (fun k => consElem tx rd r k))) }

/-- CRED: a reduction of each row (R304). -/
def execCred (h : NHdr) (a b : BitVec 5) (op : BitVec 4) (s : State) : Host.Outcome State Fault Refusal :=
  (workCred a b op).meets h (.cred h a b op) s

/-- The row sum of CMM over pairs of exact operands (R135, R305). -/
def cmmRow (l : List (Val × Val)) : CRes :=
  let p := l.map (fun v => (valF32 (mulVal v.1 v.2), decide (v.1 ≠ .nan ∧ v.2 ≠ .nan)))
  let t := sumTree (p.map (fun v => v.1))
  ⟨t.val, t.nan || p.any (fun v => f32IsNaN v.1 && v.2)⟩

def valAt (t : Td) (rd : Nat → Byte) (r k : Nat) : Val :=
  if t.rows < r ∨ t.kext < k then .fin false 0 0 else t.value rd 1 0 r k

def workCmm (a b c : BitVec 5) (out : Bool) (list : BitVec 48) : Work :=
  { opcode := 0x62, queue := .conservator, tds := [a.toNat, b.toNat, c.toNat],
    illegal := fun x _ =>
      let y := Td.of (x.tdreg c.toNat)
      if consFmt (Td.of (x.tdreg a.toNat)) && consFmt (Td.of (x.tdreg b.toNat)) &&
          (if out then y.grouped && y.fm.isInt else consFmt y) then none else some 0x0003,
    reads := fun x => (Td.of (x.tdreg b.toNat)).bounds ++ (Td.of (x.tdreg c.toNat)).bounds,
    reqR := fun _ s => if out then [(list.toNat, 8 + 4 * listCount s.readByte list.toNat)] else [],
    writes := fun x => (Td.of (x.tdreg a.toNat)).bounds,
    run := fun x s =>
      let d := Td.of (x.tdreg a.toNat)
      let tx := Td.of (x.tdreg b.toNat)
      let ty := Td.of (x.tdreg c.toNat)
      let cut := { d with rows := min d.rows tx.rows, kext := min d.kext ty.rows }
      let p := list.toNat
      s.consRun x d (tx.ranges ++ ty.ranges) (if out then [(p, 8 + 4 * listCount s.readByte p)] else []) cut
        (fun rd => if out then seqCheck ty rd else none) (tileElems cut)
        (fun rd n r =>
          if out then
            let ks := listOf rd p
            cmmRow (((List.range ks.length).zip ks).map (fun e => (valAt tx rd n e.1, valAt ty rd r e.2)))
          else cmmRow ((List.range tx.kdim).map (fun j => (valAt tx rd n j, valAt ty rd r j)))) }

/-- CMM: a small matrix product, or the outlier contribution O (R135, R305). -/
def execCmm (h : NHdr) (a b c : BitVec 5) (out : Bool) (list : BitVec 48) (s : State) :
    Host.Outcome State Fault Refusal :=
  (workCmm a b c out list).meets h (.cmm h a b c out list) s

/-- CFUNC's functions (R306): SQRT and RECIP correctly rounded, the stated special values, and elsewhere a free value within 2 ulp. -/
def cfuncOp (fn : BitVec 5) (x : Word) : CRes :=
  let neg := decide (2 ^ 31 ≤ x.toNat) && decide (x ≠ 0x80000000#32)
  let zero := decide (x.toNat % 2 ^ 31 = 0)
  let inf := decide (x.toNat % 2 ^ 31 = 0x7F800000)
  if f32IsNaN x then ⟨f32NaN, false⟩
  else
    match fn.toNat with
    | 0x00 =>
      if inf then ⟨if neg then 0 else f32Inf false, false⟩
      else if !neg && decide (0x42B17218 ≤ x.toNat ∧ x.toNat < 2 ^ 31) then ⟨f32Inf false, false⟩
      else ⟨boundedFunc fn x, false⟩
    | 0x01 =>
      if zero then ⟨f32Inf true, false⟩ else if neg then ⟨f32NaN, true⟩ else ⟨boundedFunc fn x, false⟩
    | 0x02 => let v := f32Sqrt x; ⟨v, f32IsNaN v⟩
    | 0x03 =>
      if zero then ⟨f32Inf (decide (2 ^ 31 ≤ x.toNat)), false⟩
      else if neg then ⟨f32NaN, true⟩ else ⟨boundedFunc fn x, false⟩
    | 0x04 => ⟨f32Recip x, false⟩
    | 0x06 => if inf then ⟨if neg then 0 else 0x3F800000#32, false⟩ else ⟨boundedFunc fn x, false⟩
    | _ => if inf then ⟨if neg then 0xBF800000#32 else 0x3F800000#32, false⟩ else ⟨boundedFunc fn x, false⟩

def workCfunc (a b : BitVec 5) (fn : BitVec 5) : Work :=
  { opcode := 0x63, queue := .conservator, reserved := decide (7 < fn.toNat), tds := [a.toNat, b.toNat],
    illegal := fun x _ =>
      if consFmt (Td.of (x.tdreg a.toNat)) && consFmt (Td.of (x.tdreg b.toNat)) then none else some 0x0003,
    reads := fun x => (Td.of (x.tdreg b.toNat)).bounds, writes := fun x => (Td.of (x.tdreg a.toNat)).bounds,
    run := fun x s =>
      let d := Td.of (x.tdreg a.toNat)
      let tx := Td.of (x.tdreg b.toNat)
      s.consRun x d (tx.cutTo d).ranges [] d (fun _ => none) (tileElems d)
        (fun rd r k => cfuncOp fn (consElem tx rd r k)) }

/-- CFUNC: an elementary function of each element (R306). -/
def execCfunc (h : NHdr) (a b : BitVec 5) (fn : BitVec 5) (s : State) : Host.Outcome State Fault Refusal :=
  (workCfunc a b fn).meets h (.cfunc h a b fn) s

def workCconv (a b c : BitVec 5) (scl : Bool) : Work :=
  { opcode := 0x64, queue := .conservator, sR := if scl then [c.toNat] else [], tds := [a.toNat, b.toNat],
    illegal := fun x _ => spfIllegal (decide ((Td.of (x.tdreg a.toNat)).spf ≠ 0 ∨ (Td.of (x.tdreg b.toNat)).spf ≠ 0)),
    reads := fun x => ((Td.of (x.tdreg b.toNat)).cutTo (Td.of (x.tdreg a.toNat))).bounds,
    writes := fun x => (Td.of (x.tdreg a.toNat)).bounds,
    run := fun x s =>
      let dst := Td.of (x.tdreg a.toNat)
      let src := Td.of (x.tdreg b.toNat)
      match outOfSalon x.n (dst.ranges ++ (src.cutTo dst).ranges) with
      | some p => .fail s codeRegionBounds (kindCode p)
      | none => s.loadTile x dst src false (loadScale x c scl) false false }

/-- CCONV converts a tile within the Salon (R307). -/
def execCconv (h : NHdr) (a b c : BitVec 5) (scl : Bool) (s : State) : Host.Outcome State Fault Refusal :=
  (workCconv a b c scl).meets h (.cconv h a b c scl) s

end Sys2Proof.Machine
end

