-- ==== Sys2Proof/Machine/Docent.lean ====
section
/-! DEFINITION. Docent's scores and active sets (07_docent_catalogue R176 to R179). -/

namespace Sys2Proof.Machine

/-- The device address of a byte of a job's model image: its pages in order (R209, R317). -/
def Job.modelAt (j : Job) (off : Nat) : Nat := (j.pages[off / 2 ^ 21]?.getD 0) * 2 ^ 21 + off % 2 ^ 21

/-- The XI4 code number `i` of a matrix of R176 (R28). -/
def xi4At (rd : Nat → Byte) (i : Nat) : Int :=
  let b := (rd (i / 2)).toNat
  signExt (if i % 2 = 0 then b % 16 else b / 16) 4

/-- Readers of U and V in Hall `h`: the copies in its Gallery once the Curators have placed them (R180), otherwise the model. -/
def State.predictor (s : State) (j : Job) (slot h : Nat) (r : DocRec) : (Nat → Byte) × (Nat → Byte) :=
  match Assoc.find (s.docX slot).placed h with
  | some p => (fun a => s.readByte (p.1 + a), fun a => s.readByte (p.2 + a))
  | none => (fun a => s.readByte (j.modelAt (r.uAddr + a)), fun a => s.readByte (j.modelAt (r.vAddr + a)))

def sumVal (l : List Val) : Val := foldOver addVal (.fin false 0 0) l

/-- The scores of one position (R177), exact, given U and V. -/
def DocRec.scores (r : DocRec) (uv : (Nat → Byte) × (Nat → Byte)) (d : Nat) (x : Nat → Val) : List Val :=
  let t := (List.range (r.rank + 1)).map (fun jj =>
    sumVal ((List.range d).map (fun i => mulVal (intVal (xi4At uv.1 (i * (r.rank + 1) + jj)) 0) (x i))))
  let sc := mulVal (f32Val r.sigmaU) (f32Val r.sigmaV)
  (List.range (r.neurons + 1)).map (fun n =>
    mulVal sc (sumVal (((List.range (r.rank + 1)).zip t).map (fun p =>
      mulVal (intVal (xi4At uv.2 (p.1 * (r.neurons + 1) + n)) 0) p.2))))

/-- The active neurons given the scores (R178): at least tau, and with TOPK the largest, the lower index among equals. -/
def activeOf (scores : List Val) (tau : Word) (topk : Nat) : List Nat :=
  let ps := ((List.range scores.length).zip scores).filter (fun p => leVal (f32Val tau) p.2 || decide (p.2 = .nan))
  let best := if topk = 0 ∨ ps.length ≤ topk then ps
    else ps.filter (fun p => decide ((ps.filter (fun q => ltVal p.2 q.2 || (leVal p.2 q.2 && decide (q.1 < p.1)))).length < topk))
  best.map (fun p => p.1)

/-- The active neurons of row `row` of an input tile of the layer's `d` elements; a poisoned position has every neuron active (R179). -/
def DocRec.active (r : DocRec) (uv : (Nat → Byte) × (Nat → Byte)) (d : Nat) (tau : Word) (t : Td) (rd : Nat → Byte) (sm : Nat)
    (se : Int) (row : Nat) : List Nat :=
  let poisoned := t.grouped && (List.range ((min d t.kdim - 1) / t.g + 1)).any (fun g => t.scaleCode rd row (g * t.g) == 0xFF)
  if poisoned then List.range (r.neurons + 1)
  else activeOf (r.scores uv d (fun i => if t.kext < i then .fin false 0 0 else t.value rd sm se row i)) tau r.topk

/-- A sample is counted, and a miss when |y| exceeds EPS or y is NaN (R186). -/
def State.countSample (s : State) (slot c : Nat) (r : DocRec) (y : Word) : State :=
  let miss := f32IsNaN y || f32Lt r.eps (f32Abs y)
  let s := (s.bumpFld (docentSlot slot 8) 32 32 1).bump (cluReg c 0x30) 1
  if miss then (s.bumpFld (docentSlot slot 8) 0 32 1).bump (cluReg c 0x38) 1 else s

/-- Counts the samples of a dense run that `p` picks and whose y has been stored; those that it picks without one are dropped
where `all` asks for it. -/
def State.settleSamples (s : State) (slot : Nat) (p : DueSample → Bool) (all : Bool) : State :=
  let x := s.docX slot
  match x.rc with
  | none => s
  | some r =>
    let s := foldOver (fun (t : State) (d : DueSample) =>
      match d.y with
      | some y => if p d then t.countSample slot (d.core / 8) r y else t
      | none => t) s x.due
    s.setDocX slot { x with due := x.due.filter (fun d => !(p d) || (d.y.isNone && !all)) }

/-! Sampling periods (R184, R202). -/

/-- Counts `gone` more elements, while a period that begins takes `len` of them. -/
def Periods.add (p : Periods) (len gone : Nat) : Periods :=
  match p.segs with
  | [] => if gone = 0 then p else { p with count := p.count + gone, segs := [(p.count, len)] }
  | (first, old) :: _ =>
    let next := first + ceilDiv (p.count - first) old * old
    { p with count := p.count + gone, segs := if len ≠ old ∧ next < p.count + gone then (next, len) :: p.segs else p.segs }

/-- The first element of the period of element `e`. -/
def Periods.periodOf (p : Periods) (e : Nat) : Nat :=
  match p.segs.find? (fun g => decide (g.1 ≤ e)) with
  | some g => g.1 + (e - g.1) / g.2 * g.2
  | none => 0

/-- The active neurons of 16 positions of a problem, as channels of it (R181). -/
def DocX.union (x : DocX) (p : Problem) (q : Nat) : List Nat :=
  (List.range (p.pm + 1)).filter (fun c => (List.range 16).any (fun i =>
    ((Assoc.find x.sets (p.aRow + 16 * q + i)).getD []).contains (p.yCol + c)))

/-- The HCLK by which cluster `c` has scored row `row` (R180): one position after another, 4,096 products per CCLK. -/
def DocX.scoredAt (x : DocX) (d c row : Nat) : Nat :=
  match x.rc with
  | none => 0
  | some r =>
    let cost := ceilDiv (d * (r.rank + 1) + (r.rank + 1) * (r.neurons + 1)) 4096
    let mine := x.order.filter (fun e => e.1 == c)
    x.begun + ceilDiv (cost * (mine.findIdx (fun e => e.2 == row) + 1)) 4

/-- d of a Docent record: the reduction extent of its layer. -/
def Job.docDim (j : Job) (layer : Nat) : Nat := ((j.layers[layer]?).map (fun l => l.k + 1)).getD 0

/-- The tensor scale of an input: its PROD scale when it is governed, 1 otherwise (R177). -/
def State.inputScale (s : State) (n tensor : Nat) : Nat × Int :=
  if (s.governs n tensor).isSome then scaleOf (BitVec.ofNat 32 (s.fld (tempoSlot tensor 0x20) 32 32)) else (1, 0)

end Sys2Proof.Machine
end

