-- ==== Sys2Proof/Machine/Sparse.lean ====
section
/-! DEFINITION. The sparse and prediction instructions (10_nupor_reference R296 to R301). -/

namespace Sys2Proof.Machine

/-! QPREP. -/

/-- An entry of a SORTNNZ list: row, first, count (R300). -/
def sortEntry (rd : Nat → Byte) (a i : Nat) : Nat × Nat × Nat :=
  (rdNat rd (a + 16 * i) 4, rdNat rd (a + 16 * i + 4) 4, rdNat rd (a + 16 * i + 8) 4)

def runQprep (a b : BitVec 5) (first : BitVec 32) (count : BitVec 16) (x : Ctx) (s : State) : Res :=
  let t := Td.of (x.tdreg a.toNat)
  let n := count.toNat + 1
  if t.spf = 6 then
    let p := (x.sreg b).toNat
    let es := fun rd => (List.range n).map (fun i => sortEntry rd p i)
    s.transfer x
      { reads := (p, 16 * n) :: t.feRanges s.readByte (es s.readByte), writes := [],
        groups := some [], check := fun rd => t.feCheck rd (es rd) }
      (fun _ => [])
      (fun rd u =>
        let st := (es rd).map (fun e => t.feStage rd e)
        let c := u.core x.n
        let u := u.setCore x.n { c with quad :=
          { c.quad with tensor := t.tensor, spf := t.spf, base := t.base, first := 0, count := n,
                        rows := st.map (fun y => y.1), staged := [] } }
        .done (u.quadDrops x.n (foldOver (fun k y => k + y.2) 0 st)))
  else
    let js := (List.range n).map (fun i => first.toNat + i)
    let metas := js.flatMap (fun j => t.metaRanges s.readByte j)
    s.transfer x
      { reads := metas ++ (if t.is24 then js.flatMap (fun j => t.dataRanges s.readByte j) else []), writes := [],
        groups := some [], check := fun rd => js.findSome? (fun j => t.metaCheck rd j) }
      (fun _ => [])
      (fun rd u =>
        let c := u.core x.n
        let cells := foldOver (fun m (r : Nat × Nat) =>
          foldOver (fun m (y : Nat × Byte) => Assoc.insert m y.1 y.2) m (cellsAt r.1 (rdBytes rd r.1 r.2))) [] metas
        let u := u.setCore x.n { c with quad :=
          { c.quad with tensor := t.tensor, spf := t.spf, base := t.base, first := first.toNat, count := n, staged := cells } }
        .done (u.quadDrops x.n (foldOver (fun k j => k + t.metaDrops rd j) 0 js)))

/-- The ranges that QPREP names: the entry list and the rows of an FE operand, or the metadata of its chunks. -/
def qprepReads (a b : BitVec 5) (first : BitVec 32) (count : BitVec 16) (x : Ctx) (s : State) : List (Nat × Nat) :=
  let t := Td.of (x.tdreg a.toNat)
  let n := count.toNat + 1
  if t.spf = 6 then
    let p := (x.sreg b).toNat
    (p, 16 * n) :: bounding (t.feRanges s.readByte ((List.range n).map (fun i => sortEntry s.readByte p i)))
  else
    bounding ((List.range n).flatMap (fun i => t.metaRanges s.readByte (first.toNat + i))) ++
      (if t.is24 then bounding ((List.range n).flatMap (fun i => t.dataRanges s.readByte (first.toNat + i))) else [])

def workQprep (a b : BitVec 5) (first : BitVec 32) (count : BitVec 16) : Work :=
  { opcode := 0x50, queue := .sparse, tds := [a.toNat],
    sRx := fun x => if (Td.of (x.tdreg a.toNat)).spf = 6 then [b.toNat] else [],
    reqR := qprepReads a b first count,
    illegal := fun x _ =>
      let spf := (Td.of (x.tdreg a.toNat)).spf
      if spf = 0 ∨ (spf = 6 ∧ 2048 ≤ count.toNat) then some 0x0002 else none,
    run := runQprep a b first count }

/-- QPREP stages Folnil metadata in the Quadrille (R158, R296). -/
def execQprep (h : NHdr) (a b : BitVec 5) (first : BitVec 32) (count : BitVec 16) (s : State) :
    Host.Outcome State Fault Refusal :=
  (workQprep a b first count).meets h (.qprep h a b first count) s

/-! DOCENT. -/

/-- The Docent record of a slot that a job holds (R187). -/
def State.docHeld (s : State) (slot : Nat) (job : Half) : Option DocRec :=
  let x := s.docX slot
  if x.job = job ∧ job ≠ 0 then x.rc else none

def runDocent (a b : BitVec 5) (slot : BitVec 10) (x : Ctx) (s : State) : Res :=
  let t := Td.of (x.tdreg a.toNat)
  let job := (s.core x.n).job
  match s.docHeld slot.toNat job, s.job job.toNat with
  | some r, some j =>
    let n := r.neurons + 1
    let pitch := 64 * ceilDiv n 512
    let p := (x.sreg b).toNat
    let rows := min 16 t.mdim
    let cut := { t with rows := rows - 1 }
    let tau := BitVec.ofNat 32 (s.fld (docentSlot slot.toNat 0) 0 32)
    let sc := s.inputScale x.n t.tensor
    let uv := s.predictor j slot.toNat (x.n / 64) r
    let sets := fun rd => (List.range rows).map (fun i => r.active uv (j.docDim (s.docX slot.toNat).layer) tau cut rd sc.1 sc.2 i)
    s.transfer x
      { reads := cut.ranges, writes := (List.range rows).map (fun i => (p + i * pitch, 8 * ceilDiv n 64)),
        check := seqCheck cut }
      (fun rd => ((List.range rows).zip (sets rd)).flatMap (fun y =>
        cellsAt (p + y.1 * pitch) (leBytes (8 * ceilDiv n 64) (foldOver (fun v k => v + 2 ^ k) 0 y.2))))
      (fun rd u =>
        let act := foldOver (fun k l => k + l.length) 0 (sets rd)
        .done ((u.bump (cluReg (x.n / 8) 0x20) rows).bump (cluReg (x.n / 8) 0x28) act))
  | _, _ => .fail s codeRegionBounds 0x00FF

def workDocent (a b : BitVec 5) (slot : BitVec 10) : Work :=
  { opcode := 0x51, queue := .sparse, sR := [b.toNat], tds := [a.toNat],
    reads := fun x => (Td.of (x.tdreg a.toNat)).bounds,
    reqW := fun x s =>
      match s.docHeld slot.toNat (s.core x.n).job with
      | some r => [((x.sreg b).toNat, min 16 (Td.of (x.tdreg a.toNat)).mdim * (64 * ceilDiv (r.neurons + 1) 512))]
      | none => [],
    run := runDocent a b slot }

/-- DOCENT scores positions with the cluster's Docent (R177, R178, R297). -/
def execDocent (h : NHdr) (a b : BitVec 5) (slot : BitVec 10) (s : State) : Host.Outcome State Fault Refusal :=
  (workDocent a b slot).meets h (.docent h a b slot) s

/-! GATHERA. -/

/-- U: the ascending union of the coordinates of staged rows (R156). -/
def unionOf (rows : List FeRow) : List Nat :=
  foldOver (fun u (r : FeRow) => foldOver (fun u (e : Nat × Nat) => insertNat e.1 u) u r.entries) [] rows

def runGathera (a b c : BitVec 5) (x : Ctx) (s : State) : Res :=
  let dst := Td.of (x.tdreg a.toNat)
  let src := Td.of (x.tdreg b.toNat)
  let u := unionOf (s.core x.n).quad.rows
  if dst.kdim < u.length then .fail s codeBufferSize 0x0003
  else
    let cut := { dst with kext := u.length - 1 }
    s.transfer x { reads := src.ranges, writes := if u.isEmpty then [] else cut.ranges }
      (fun rd => foldOver (fun img n =>
        (foldOver (fun (o : Assoc Byte × Nat) k =>
          let code := if src.rows < n ∨ src.kext < k then 0 else src.code rd n k
          let l := dst.loc n o.2
          (putBits rd o.1 l.1 l.2 dst.width code, o.2 + 1)) (img, 0) u).1) [] (List.range dst.mdim))
      (fun _ t =>
        let k := t.core x.n
        .done ((t.setCore x.n { k with quad := { k.quad with union := u } }).setS x.n c (BitVec.ofNat 64 u.length)))

def workGathera (a b c : BitVec 5) : Work :=
  { opcode := 0x52, queue := .sparse, sW := [c.toNat], tds := [a.toNat, b.toNat],
    illegal := fun x _ => if (Td.of (x.tdreg b.toNat)).grouped then some 0x0005 else none,
    reads := fun x => (Td.of (x.tdreg b.toNat)).bounds, writes := fun x => (Td.of (x.tdreg a.toNat)).bounds,
    run := runGathera a b c }

/-- GATHERA gathers activations at the union of the staged FE rows (R298). -/
def execGathera (h : NHdr) (a b c : BitVec 5) (s : State) : Host.Outcome State Fault Refusal :=
  (workGathera a b c).meets h (.gathera h a b c) s

/-! CATADD and CATFLUSH. -/

/-- CATADD reads its words whatever FMT says (R299). -/
def catTile (t : Td) : Td := { t with fmt := 0x24, scale := 0, spf := 0 }

/-- Adds words in order; stops at the first that faults. -/
def catWords (x : Ctx) (h tensor : Nat) : List (Nat × Word) → State → Res
  | [], s => .done s
  | (i, w) :: t, s =>
    match s.catReg h tensor (s.core x.n).job with
    | none => .fail s codeRegionBounds (BitVec.ofNat 16 tensor)
    | some r =>
      if r.extent ≤ i then .fail s codeRegionBounds (BitVec.ofNat 16 tensor)
      else
        let q := s.catAdd h r.isF32 (s.core x.n).ftz tensor i w
        match q.1.addOutcome x tensor q.2 with
        | .done u => catWords x h tensor t u
        | r => r

def runCatadd (a b : BitVec 5) (tensor : BitVec 12) (stride : BitVec 32) (x : Ctx) (s : State) : Res :=
  let t := catTile (Td.of (x.tdreg a.toNat))
  let words := fun rd => (List.range t.mdim).flatMap (fun n => (List.range t.kdim).map (fun j =>
    ((x.sreg b).toNat + n * stride.toNat + (if t.map then mapEntry rd t.aux j else j), BitVec.ofNat 32 (t.code rd n j))))
  s.transfer x
    { reads := t.ranges ++ (if t.map then [(t.aux, 2 * t.kdim)] else []), writes := [] } (fun _ => [])
    (fun rd u => if (u.core x.n).measuring then .done u else catWords x (x.n / 64) tensor.toNat (words rd) u)

def workCatadd (a b : BitVec 5) (tensor : BitVec 12) (stride : BitVec 32) : Work :=
  { opcode := 0x53, queue := .sparse, sR := [b.toNat], tds := [a.toNat],
    reads := fun x =>
      let t := catTile (Td.of (x.tdreg a.toNat))
      t.bounds ++ (if t.map then [(t.aux, 2 * t.kdim)] else []),
    run := runCatadd a b tensor stride }

/-- CATADD adds a tile's words into the Catalogue (R196, R299). -/
def execCatadd (h : NHdr) (a b : BitVec 5) (tensor : BitVec 12) (stride : BitVec 32) (s : State) :
    Host.Outcome State Fault Refusal :=
  (workCatadd a b tensor stride).meets h (.catadd h a b tensor stride) s

def workCatflush (tensor : BitVec 12) : Work :=
  { opcode := 0x54, queue := .sparse,
    run := fun x s =>
      if (s.core x.n).measuring then .done s
      else
        let q := s.flush (x.n / 64) (s.core x.n).ftz (fun e => e.tensor == tensor.toNat) 0
        q.1.addOutcome x tensor.toNat q.2 }

/-- CATFLUSH spills every entry of a tensor into its Annex (R199). -/
def execCatflush (h : NHdr) (tensor : BitVec 12) (s : State) : Host.Outcome State Fault Refusal :=
  (workCatflush tensor).meets h (.catflush h tensor) s

/-! SORTNNZ. -/

def binOf (count : Nat) : Nat := if count = 0 then 0 else Nat.log2 count + 1

/-- The row itself, or its segments (R155): row, first, count. -/
def segments (mu row first count : Nat) : List (Nat × Nat × Nat) :=
  if 8 * mu < count then
    (List.range (ceilDiv count mu)).map (fun i => (row, first + i * mu, min mu (count - i * mu)))
  else [(row, first, count)]

/-- The rows and segments of a stream in row order. -/
def sortItems (rd : Nat → Byte) (p : Nat) : List (Nat × Nat × Nat) :=
  let m := rdNat rd (p + 8) 4
  let mu := ceilDiv (rdNat rd (p + 16) 8) m
  (List.range m).flatMap (fun r => segments mu r (rdNat rd (p + 64 + 8 * r) 4) (rdNat rd (p + 68 + 8 * r) 4))

/-- The bin table and the entry list (R300). -/
def sortOutput (rd : Nat → Byte) (p : Nat) : List Byte :=
  let items := sortItems rd p
  let bins := (List.range 26).map (fun b => items.filter (fun e => binOf e.2.2 == b))
  (foldOver (fun (a : List Byte × Nat) (l : List (Nat × Nat × Nat)) =>
      (a.1 ++ leBytes 4 a.2 ++ leBytes 4 l.length, a.2 + l.length)) ([], 0) bins).1 ++
    bins.flatMap (fun l => l.flatMap (fun e => leBytes 4 e.1 ++ leBytes 4 e.2.1 ++ leBytes 8 e.2.2))

def workSortnnz (a b : BitVec 5) (off : BitVec 48) : Work :=
  { opcode := 0x55, queue := .sparse, sR := [a.toNat, b.toNat],
    reqR := fun x s => [(x.addr a off, 64 + 8 * rdNat s.readByte (x.addr a off + 8) 4)],
    reqW := fun x s => [((x.sreg b).toNat, (sortOutput s.readByte (x.addr a off)).length)],
    run := fun x s =>
      let p := x.addr a off
      let out := (x.sreg b).toNat
      s.transfer x
        { reads := [(p, 64 + 8 * rdNat s.readByte (p + 8) 4)],
          writes := [(out, (sortOutput s.readByte p).length)], groups := some [],
          check := fun rd => if rowTableOk rd p then none else some (codeCountMismatch, 0) }
        (fun rd => cellsAt out (sortOutput rd p)) (fun _ u => .done u) }

/-- SORTNNZ bins the rows of an FE stream (R155, R300). -/
def execSortnnz (h : NHdr) (a b : BitVec 5) (off : BitVec 48) (s : State) : Host.Outcome State Fault Refusal :=
  (workSortnnz a b off).meets h (.sortnnz h a b off) s

/-! DEACC. -/

/-- Why the Deaccession unit of a cluster is frozen, 0 when it is not (R170, R175). -/
def State.frozen (s : State) (c : Nat) : Nat :=
  let x := s.cluster c
  if x.startup then 1
  else if x.invTest then 2
  else if !(clusterServing s c) then 3
  else match (s.job x.job.toNat).bind (fun j => j.jd) with
    | some d => if d.freeze then 4 else 0
    | none => 0

/-- The score of a pattern: the exact sum of |x| over the elements it keeps (R168). -/
def patternScore (qs : List Nat) (v : Nat → Nat → Val) : Val :=
  sumVal (((List.range 4).zip qs).flatMap (fun p =>
    [absVal (v p.1 (pairCols p.2).1), absVal (v p.1 (pairCols p.2).2)]))

/-- The pattern with the largest score, the lowest index among equals. -/
def bestPattern (v : Nat → Nat → Val) : Nat :=
  (foldOver (fun (a : Nat × Nat × Val) qs =>
    let sc := patternScore qs v
    if a.1 = 0 ∨ ltVal a.2.2 sc = true then (a.1 + 1, a.1, sc) else (a.1 + 1, a.2))
    (0, 0, Val.fin false 0 0) f24tPatterns).2.1

def blockHasNaN (v : Nat → Nat → Val) : Bool :=
  (List.range 4).any (fun r => (List.range 4).any (fun c => decide (v r c = .nan)))

/-- The pattern byte of block `i` and whether it was kept under R169. -/
def deaccByte (t : Td) (rd : Nat → Byte) (old : Option Nat) (i : Nat) : Nat × Bool :=
  let cols := t.kdim / 4
  let v := fun r c => t.value rd 1 0 (4 * (i / cols) + r) (4 * (i % cols) + c)
  if blockHasNaN v then (old.getD 0, true) else (bestPattern v, false)

def runDeacc (a b c : BitVec 5) (mask : Bool) (x : Ctx) (s : State) : Res :=
  let t := Td.of (x.tdreg a.toNat)
  let n := t.mdim / 4 * (t.kdim / 4)
  let src := (x.sreg c).toNat
  let dst := (x.sreg b).toNat
  let cl := x.n / 8
  let maskRange := if mask then [(src, n)] else []
  if s.frozen cl ≠ 0 then
    if mask then
      s.transfer x { reads := [(src, n)], writes := [(dst, n)] } (fun rd => cellsAt dst (rdBytes rd src n)) (fun _ u => .done u)
    else .wait s { iaddr := x.iaddr, opcode := x.opcode, since := s.hclk, aux := 0, timed := false }
  else
    let old := fun (rd : Nat → Byte) i => if mask then some (rd (src + i)).toNat else none
    let bytes := fun rd => (List.range n).map (fun i => deaccByte t rd (old rd i) i)
    s.transfer x { reads := t.ranges ++ maskRange, writes := [(dst, n)] }
      (fun rd => cellsAt dst ((bytes rd).map (fun y => BitVec.ofNat 8 y.1)))
      (fun rd u =>
        let bs := bytes rd
        let nans := (bs.filter (fun y => y.2)).length
        let moved := ((List.range n).zip bs).filter (fun y => match old rd y.1 with | some o => o != y.2.1 | none => false)
        .done (((u.bump (cluReg cl 0x08) (n - nans)).bump (cluReg cl 0x10) moved.length).bump (cluReg cl 0x18) nans))

def workDeacc (a b c : BitVec 5) (mask : Bool) : Work :=
  { opcode := 0x56, queue := .sparse, sR := if mask then [b.toNat, c.toNat] else [b.toNat], tds := [a.toNat],
    illegal := fun x _ =>
      let t := Td.of (x.tdreg a.toNat)
      if (t.fmt ≠ 0x24 ∧ t.fmt ≠ 0x23) ∨ t.mdim % 4 ≠ 0 ∨ t.kdim % 4 ≠ 0 then some 0x0003 else none,
    reads := fun x =>
      let t := Td.of (x.tdreg a.toNat)
      t.bounds ++ (if mask then [((x.sreg c).toNat, t.mdim / 4 * (t.kdim / 4))] else []),
    writes := fun x =>
      let t := Td.of (x.tdreg a.toNat)
      [((x.sreg b).toNat, t.mdim / 4 * (t.kdim / 4))],
    run := runDeacc a b c mask }

/-- DEACC chooses F24T masks (R168 to R170, R301). -/
def execDeacc (h : NHdr) (a b c : BitVec 5) (mask : Bool) (s : State) : Host.Outcome State Fault Refusal :=
  (workDeacc a b c mask).meets h (.deacc h a b c mask) s

end Sys2Proof.Machine
end

