-- ==== Sys2Proof/Machine/Staging.lean ====
section
/-! DEFINITION. Tiles on their way to a Salon (09_nupor_model R267; 11_curator_tiling R323, R325, R327; 06_folnil_sparsity R162 to R167;
08_memory R224, R239): where a tensor's bytes lie, the copy of a tile in its stored layout, the Gallery stages, the expansion of a
compressed weight tile, and the write of a result tile to host memory. -/

namespace Sys2Proof.Machine

/-! A tensor at home. -/

/-- The device address of byte `a` of a tensor outside host memory: through the job's pages for MEM 0 and 1 (R209, R317). -/
def Job.tensorAt (j : Job) (t : Tensor) (a : Nat) : Nat :=
  match t.mem with
  | 0 => j.modelAt (t.off + a)
  | 1 => j.modelAt (j.firstPage t * 2 ^ 21 + a)
  | _ => t.addr + a

/-- Byte `a` of a tensor. -/
def State.homeByte (s : State) (j : Job) (t : Tensor) (a : Nat) : Byte :=
  if t.mem = 3 then s.hostByte (t.off + a) else s.readByte (j.tensorAt t a)

/-- The descriptor of a whole tensor whose bytes count from 0, in the format in force. -/
def Tensor.homeTd (t : Tensor) (id fmt : Nat) : Td := { t.td id 0 with fmt := fmt }

/-- The code of element (r, k) of an operand in any form; an element that the form does not hold, or that R162 drops, is 0. -/
def Td.element (t : Td) (rd : Nat → Byte) (r k : Nat) : Nat :=
  match t.spf with
  | 0 => t.code rd r k
  | 6 => (((feKeep t.kdim 0 (t.feEntries rd r)).1.find? (fun e => e.1 == k)).map (fun e => e.2)).getD 0
  | f =>
    if 3 ≤ f then (t.fbCode rd (r / 128) (k / 256) (r % 128) (k % 256)).1
    else
      let l := 2 * (k % 512 / 4)
      let a := t.lane rd r (k / 512) l
      let b := t.lane rd r (k / 512) (l + 1)
      if b.pos = k % 4 ∧ b.code ≠ 0 then b.code else if a.pos = k % 4 then a.code else 0

/-! Copies in the stored layout. `l` gives the home rows of the tile: a row, and of a row or segment of an FE operand the first entry
and the entries (R156); `k0` is the tile's first reduction element. -/

abbrev TileRows := List (Nat × Option (Nat × Nat))

def homeRow (l : TileRows) (r : Nat) : Nat := match l[r]? with | some x => x.1 | none => 0

/-- Consecutive rows. -/
def rowsFrom (r0 n : Nat) : TileRows := (List.range n).map (fun i => (r0 + i, none))

/-- A block header whose block number changes from `i` at home to `j` in the tile. -/
def moveSeq (v i j : Nat) : Nat := v / 16 * 16 + (v + 16 * (i + 1) + j - i) % 16

/-- The header of tile block `j` made of the home blocks `bs`: that of the first which breaks R45 or R158, so that the tile breaks it too,
or else of the first. -/
def movedHead (word : Nat → Nat) (ok : Nat → Nat → Bool) (seq : Nat) (bs : List Nat) (j : Nat) : Nat :=
  let b := (bs.find? (fun b => !(ok b (word b)))).getD (bs.headD 0)
  moveSeq (word b) (seq + b) j

/-- The home group of the tile group at (r, k). -/
def Td.homeGroup (h : Td) (l : TileRows) (k0 r k : Nat) : Nat := h.group (homeRow l r) (k0 + k)

/-- The groups of block `j` of a tile: place in the block, and group at home. -/
def Td.groupsIn (t h : Td) (l : TileRows) (k0 j : Nat) : List (Nat × Nat) :=
  (List.range 16).filterMap (fun i => (t.groupAt (16 * j + i)).map (fun x => (i, h.homeGroup l k0 x.1 x.2)))

/-- The codes that a group stores: half of them under 2:4 (R145). -/
def Td.groupCodes (t : Td) : Nat := if t.spf = 1 then t.g / 2 else t.g

/-- Scale block `j` of a grouped tile (R43). -/
def Td.copyScale (t h : Td) (rd : Nat → Byte) (l : TileRows) (k0 j : Nat) : List (Nat × Byte) :=
  let gs := t.groupsIn h l k0 j
  let head := movedHead (fun b => rdNat rd (h.scale + 32 * b + 16) 8) (h.headerOk 2) h.seq0 (gs.map (fun x => x.2 / 16)) (t.seq0 + j)
  cellsAt (t.scale + 32 * j) (List.replicate 16 0 ++ leBytes 8 head ++ List.replicate 8 0) ++
    gs.map (fun x => (t.scale + 32 * j + x.1, rd (h.scale + 32 * (x.2 / 16) + x.2 % 16)))

/-- Data block `j` of a grouped tile, dense or F24 (R43, R145). -/
def Td.copyBlock (t h : Td) (rd : Nat → Byte) (l : TileRows) (k0 j : Nat) : List (Nat × Byte) :=
  let w := t.groupCodes * t.width
  let gs := t.groupsIn h l k0 j
  let head := movedHead (fun b => rdNat rd (h.base + b * h.d) 8) (h.headerOk 1) h.seq0 (gs.map (fun x => x.2 / 16)) (t.seq0 + j)
  let codes := foldOver (fun v (x : Nat × Nat) =>
    v + rdBits rd (h.base + x.2 / 16 * h.d + 8) (x.2 % 16 * w) w * 2 ^ (x.1 * w)) 0 gs
  cellsAt (t.base + j * t.d) (leBytes 8 head ++ leBytes (t.d - 8) codes)

/-- The scale stream and the data stream of a grouped tile. -/
def Td.copyScales (t h : Td) (rd : Nat → Byte) (l : TileRows) (k0 : Nat) : List (Nat × Byte) :=
  t.blocks.flatMap (t.copyScale h rd l k0)
def Td.copyBlocks (t h : Td) (rd : Nat → Byte) (l : TileRows) (k0 : Nat) : List (Nat × Byte) :=
  t.blocks.flatMap (t.copyBlock h rd l k0)

/-- A dense tile. -/
def Td.copyDense (t h : Td) (rd : Nat → Byte) (l : TileRows) (k0 : Nat) : List (Nat × Byte) :=
  if t.grouped then t.copyBlocks h rd l k0 ++ t.copyScales h rd l k0
  else
    (List.range t.mdim).flatMap (fun r =>
      ((t.winRanges r 1 0 t.kext).zip (h.winRanges (homeRow l r) 1 k0 (k0 + t.kext))).flatMap (fun x =>
        cellsAt x.1.1 (rdBytes rd x.2.1 (min x.1.2 x.2.2))))

/-- The segments of a metadata stream: `src` gives for a tile segment the home block and address. Blocks of `per` segments of
`size` bytes take their header from the home blocks of their segments; `ok` is the home's own check of a header. -/
def Td.copyMeta (t : Td) (rd : Nat → Byte) (haux seq per size count : Nat) (ok : Nat → Nat → Bool) (src : Nat → Nat × Nat) :
    List (Nat × Byte) :=
  (List.range (ceilDiv count per)).flatMap (fun b =>
      let bs := (List.range (min per (count - per * b))).map (fun i => (src (per * b + i)).1)
      cellsAt (t.aux + 1088 * b)
        (leBytes 8 (movedHead (fun i => rdNat rd (haux + 1088 * i) 8) ok seq bs (t.seq0 + b)) ++ List.replicate 1080 0)) ++
    (List.range count).flatMap (fun i => cellsAt (t.aux + i / per * 1088 + 64 + size * (i % per)) (rdBytes rd (src i).2 size))

/-- F24 (R145, R146): a fetched row keeps its row-strips of metadata. -/
def Td.copyF24 (t h : Td) (rd : Nat → Byte) (l : TileRows) (k0 : Nat) : List (Nat × Byte) :=
  let idx := fun (i : Nat) => homeRow l (i / t.strips) * h.strips + k0 / 512 + i % t.strips
  let n := t.mdim * t.strips
  t.copyMeta rd h.aux h.seq0 16 64 n (h.metaHeadOk 3 (if h.grouped then h.gsize else 0)) (fun i => (idx i / 16, h.f24Meta (idx i))) ++
    (if t.grouped then t.copyBlocks h rd l k0 ++ t.copyScales h rd l k0
     else (List.range n).flatMap (fun i => cellsAt (t.base + i * (32 * t.width)) (rdBytes rd (h.base + idx i * (32 * h.width)) (32 * t.width))))

/-- F24T (R148): stored rows and pattern bytes; a transposed operand names its extents the other way round. -/
def Td.copyF24T (t h : Td) (rd : Nat → Byte) (r0 k0 : Nat) : List (Nat × Byte) :=
  let u := if t.trans then { t with rows := t.kext, kext := t.rows } else t
  let p := if t.trans then (k0, r0) else (r0, k0)
  let idx := fun (i : Nat) => (p.1 + i / u.strips) * h.strips + p.2 / 512 + i % u.strips
  let pat := fun (i : Nat) => (p.1 / 4 + i / (u.kdim / 4)) * (h.kdim / 4) + p.2 / 4 + i % (u.kdim / 4)
  u.copyMeta rd h.aux h.seq0 1024 1 (ceilDiv u.mdim 4 * (u.kdim / 4)) (h.metaHeadOk 3 0) (fun i => (pat i / 1024, h.patAddr (pat i))) ++
    (List.range (u.mdim * u.strips)).flatMap (fun i =>
      cellsAt (u.base + i * (32 * u.width)) (rdBytes rd (h.base + idx i * (32 * h.width)) (32 * u.width)))

/-- Whether the offset table at home agrees with record `i` (R152). -/
def Td.fbOffsetOk (h : Td) (rd : Nat → Byte) (i : Nat) : Bool :=
  let off := fun x => rdNat rd (h.aux + 4 * x) 4
  decide (ceilDiv h.mdim 128 * h.fbCols ≤ i + 1) || decide (off (i + 1) = off i + h.fbLines (h.fbCount rd i))

/-- FB8, FB16 and FB32 (R151 to R153): records one after another, their offsets, and the scales of a grouped tensor. Where the table
at home breaks R152 at a record, the tile's table breaks it there: it leaves a line free before the next (R163). -/
def Td.copyFB (t h : Td) (rd : Nat → Byte) (l : TileRows) (k0 : Nat) : List (Nat × Byte) :=
  let n := ceilDiv t.mdim 128 * t.fbCols
  let home := fun (i : Nat) => (homeRow l 0 / 128 + i / t.fbCols) * h.fbCols + k0 / 256 + i % t.fbCols
  let first := if home 0 = 0 ∧ rdNat rd h.aux 4 ≠ 0 then 1 else 0
  (foldOver (fun (a : List (Nat × Byte) × Nat) i =>
    let src := h.fbRec rd (home i)
    let lines := h.fbLines (h.fbCount rd (home i))
    let head := moveSeq (rdNat rd src 8) (h.seq0 + home i) (t.seq0 + i)
    (a.1 ++ cellsAt (t.aux + 4 * i) (leBytes 4 a.2) ++ cellsAt (t.base + 64 * a.2) (leBytes 8 head ++ rdBytes rd (src + 8) (64 * lines - 8)),
     a.2 + lines + (if h.fbOffsetOk rd (home i) then 0 else 1))) ([], first) (List.range n)).1 ++
    (if t.grouped then t.copyScales h rd l k0 else [])

/-- The entries of an FE row or segment that a tile takes, and those dropped on the way: a whole row in a whole reduction range comes
as it lies; a segment, or a part of the range, comes as far as its row keeps it (R162). -/
def Td.feTile (t h : Td) (rd : Nat → Byte) (x : Nat × Option (Nat × Nat)) (k0 : Nat) : List (Nat × Nat) × Nat :=
  let row := h.feRow rd x.1
  let seg := x.2.getD row
  let raw := (List.range seg.2).map (fun i => h.feEntry rd (seg.1 + i))
  if k0 = 0 ∧ h.kdim ≤ t.kdim ∧ seg = row then (raw, 0)
  else
    let before := (feKeep h.kdim 0 ((List.range (seg.1 - row.1)).map (fun i => h.feEntry rd (row.1 + i)))).1
    let k := feKeep h.kdim (fePrev before) raw
    ((k.1.filter (fun e => decide (k0 ≤ e.1 ∧ e.1 ≤ k0 + t.kext))).map (fun e => (e.1 - k0, e.2)), if k0 = 0 then k.2 else 0)

/-- FE (R154): the rows of the tile with their entries; a table that breaks R154 at home breaks it in the tile (R163). -/
def Td.copyFE (t h : Td) (rd : Nat → Byte) (l : TileRows) (k0 : Nat) : List (Nat × Byte) :=
  let rows := l.map (fun x => (t.feTile h rd x k0).1)
  let nnz := foldOver (fun n es => n + es.length) 0 rows + (if (h.feTableCheck rd).isSome then 1 else 0)
  let table := (foldOver (fun (a : List Byte × Nat) es => (a.1 ++ leBytes 4 a.2 ++ leBytes 4 es.length, a.2 + es.length)) ([], 0) rows).1
  let list := rows.flatMap (fun es => es.flatMap (fun e => leBytes 4 (e.1 % 2 ^ 24 + e.2 * 2 ^ 24)))
  cellsAt t.base (leBytes 8 (moveSeq (rdNat rd h.base 8) h.seq0 t.seq0) ++ leBytes 4 l.length ++ leBytes 4 0 ++ leBytes 8 nnz ++
      List.replicate 40 0) ++
    cellsAt (t.base + 64) table ++ cellsAt (t.base + 64 + lineUp (8 * l.length)) list

/-- The cells of a tile in the form that it has at home. -/
def Td.stored (t h : Td) (rd : Nat → Byte) (l : TileRows) (k0 : Nat) : List (Nat × Byte) :=
  match h.spf with
  | 0 => t.copyDense h rd l k0
  | 1 => t.copyF24 h rd l k0
  | 2 => t.copyF24T h rd (homeRow l 0) k0
  | 6 => t.copyFE h rd l k0
  | _ => t.copyFB h rd l k0

/-! Expansion for the dense path (R164). -/

/-- The chunks of a compressed tile. -/
def Td.chunkCount (t : Td) : Nat := if t.is24 then t.strips else t.fbCols

/-- The Quadrille's checks of a tile that it expands (R158, R163). -/
def Td.expandCheck (h : Td) (rd : Nat → Byte) : Option (Half × Half) :=
  if h.spf = 6 then h.feCheck rd (h.feAll rd) else (List.range h.chunkCount).findSome? (h.metaCheck rd)

/-- What the Quadrille drops of a tile that it expands (R162). -/
def Td.expandDrops (h : Td) (rd : Nat → Byte) : Nat :=
  if h.spf = 6 then foldOver (fun n r => n + (feKeep h.kdim 0 (h.feEntries rd r)).2) 0 (List.range h.mdim)
  else foldOver (fun n j => n + h.metaDrops rd j) 0 (List.range h.chunkCount)

/-- The dense planes of a compressed tile. -/
def Td.expand (t h : Td) (rd : Nat → Byte) : List (Nat × Byte) :=
  if t.grouped then
    (t.putBlocks (fun j => (headerWord (t.seq0 + j) 1 t.fmt t.gsize t.tensor, headerWord (t.seq0 + j) 2 t.fmt t.gsize t.tensor))
      (fun r k => (h.scaleCode rd r k, (List.range t.g).map (fun i => h.element rd r (k + i)), 0, false))).img
  else
    foldOver (fun img r =>
      foldOver (fun img k =>
        let l := t.loc r k
        putBits (fun _ => 0) img l.1 l.2 t.width (h.element rd r k)) img (List.range t.kdim)) [] (List.range t.mdim)

/-- The lanes that the absent blocks of a binary tile mask (R153): a 1 at the place of each of their codes. -/
def Td.expandMask (t h : Td) (rd : Nat → Byte) : Assoc Byte :=
  foldOver (fun img r =>
    foldOver (fun img k =>
      if (h.fbCode rd (r / 128) (k / 256) (r % 128) (k % 256)).2 then img
      else let l := t.loc r k; putBits (fun _ => 0) img l.1 l.2 1 1) img (List.range t.kdim)) [] (List.range t.mdim)

/-! Gallery stages (R327). -/

/-- Where the scale and metadata streams of a tile begin before it has a place. -/
def looseScale : Nat := 2 ^ 40
def looseAux : Nat := 2 ^ 41

/-- The descriptor of a tile of `h` in its stored layout, from address 0 on. -/
def Td.loose (h : Td) (rows kext : Nat) (trans : Bool) : Td :=
  { h with
    base := 0, scale := if h.grouped then looseScale else 0, aux := if h.spf = 0 then 0 else looseAux, trans := trans, seq0 := 0,
    goff := 0, rows := rows - 1, kext := kext,
    rstride := if h.grouped then ceilDiv (kext + 1) h.g else ceilDiv ((kext + 1) * h.width) 64 }

/-- The bytes that some loose cells take in each stream: data, scales, metadata, in whole lines. -/
def looseSizes (cs : List (Nat × Byte)) : Nat × Nat × Nat :=
  let top := fun (lo hi : Nat) => lineUp (foldOver (fun m (c : Nat × Byte) => if lo ≤ c.1 ∧ c.1 < hi then max m (c.1 + 1 - lo) else m) 0 cs)
  (top 0 looseScale, top looseScale looseAux, top looseAux (2 ^ 42))

/-- Where a loose address lies when the streams stand one after another from `a` on. -/
def looseAt (z : Nat × Nat × Nat) (a c : Nat) : Nat :=
  if c < looseScale then a + c else if c < looseAux then a + z.1 + (c - looseScale) else a + z.1 + z.2.1 + (c - looseAux)

/-- A loose descriptor in its place. -/
def Td.settle (t : Td) (z : Nat × Nat × Nat) (a : Nat) : Td :=
  { t with base := a, scale := if t.grouped then looseAt z a t.scale else 0, aux := if t.spf = 0 then 0 else looseAt z a t.aux }

/-- Drops tiles from the stages of a Gallery: their regions are zero-filled and freed. -/
def State.dropStages (s : State) (g : Nat) (p : StageTile → Bool) : State :=
  let gone := (s.hall g).stages.filter p
  if gone.isEmpty then s
  else
    let s := foldOver (fun (t : State) (x : StageTile) =>
      (t.zeroSram x.base x.len).setRegion (256 + g) x.region {}) s gone
    s.setHall g { s.hall g with stages := (s.hall g).stages.filter (fun x => !(p x)) }

/-- The bytes in one stage. -/
def HallSt.stageUse (x : HallSt) (job : Half) (weight : Bool) (half : Nat) : Nat :=
  foldOver (fun n (t : StageTile) => if t.job = job ∧ t.weight = weight ∧ t.half = half then n + t.len else n) 0 x.stages

/-- The stage of its kind that a tile of `len` bytes joins: the one filled last while it has room, or the other. -/
def HallSt.stageHalf (x : HallSt) (job : Half) (weight : Bool) (limit len : Nat) : Nat :=
  let last := ((x.stages.filter (fun t => decide (t.job = job) && t.weight == weight)).getLast?.map (fun t => t.half)).getD 0
  if x.stageUse job weight last + len ≤ limit then last else 1 - last

/-- Places a tile in a Gallery stage of S bytes; the stage that it joins is emptied when it has no room. None when the tile is larger than
a stage or the Gallery has no space for it. -/
def State.putStage (s : State) (g h : Nat) (j : Job) (weight : Bool) (t : Td) (rows : TileRows) (k0 : Nat) (cs : List (Nat × Byte)) :
    Option (State × StageTile) :=
  let z := looseSizes cs
  let len := z.1 + z.2.1 + z.2.2
  let job := BitVec.ofNat 16 h
  let limit := Assoc.get 0 j.stageSize g
  if limit < len then none
  else
    let half := (s.hall g).stageHalf job weight limit len
    let s := if limit < (s.hall g).stageUse job weight half + len then
        s.dropStages g (fun x => decide (x.job = job ∧ x.half = half) && x.weight == weight)
      else s
    match (List.range 1024).find? (fun i => !(s.regionAt (256 + g) i).valid),
        s.galRegion g { valid := true, owner := 0, job := job, clsW := j.clsStage, len := pageUp4K len } 4096 with
    | some i, some (u, a) =>
      let f := t.settle z a
      let x : StageTile :=
        { job := job, weight := weight, half := half, region := i, tensor := t.tensor, rows := rows, k0 := k0, kext := t.kext, fmt := t.fmt,
          base := a, scale := f.scale, aux := f.aux, len := pageUp4K len }
      let u := u.writeCells (cs.map (fun c => (looseAt z a c.1, c.2)))
      some (u.setHall g { u.hall g with stages := (u.hall g).stages ++ [x] }, x)
    | _, _ => none

/-- The staged tile of a Gallery that holds some rows and elements of a tensor. -/
def HallSt.staged (x : HallSt) (job : Half) (tensor fmt : Nat) (rows : TileRows) (k0 kext : Nat) : Option StageTile :=
  x.stages.find? (fun t => decide (t.job = job ∧ t.tensor = tensor ∧ t.fmt = fmt ∧ t.rows = rows ∧ t.k0 = k0 ∧ t.kext = kext))

/-! Quarantine (R24, R239). -/

/-- Whether a device address lies in memory that is in quarantine. -/
def State.inQuarantine (s : State) (a : Nat) : Bool :=
  if memSel a = 0 then
    let p := s.page (pageOf a)
    decide (p.job ≠ 0) && ((Assoc.find s.scrubs p.job.toNat).isSome ||
      (match s.job p.job.toNat with | some j => decide (j.phase = .ended) | none => false))
  else
    let t := tableOf a
    (regionFind (fun r => r.valid && r.quar && r.covers t.2 1) (s.regionTable t.1)).isSome

/-- The Hall of a device address. -/
def hallOf (a : Nat) : Nat := if memSel a = 0 then hbmHall a else if memSel a = 1 then galHall a else salonCore a / 64

/-- A Curator meets quarantined memory: the access returns zero data, is recorded, and counts as a fault of the Curator (R239). -/
def State.curatorMeets (s : State) (n a : Nat) : State :=
  let hall := hallOf a
  let s := s.postFault codeQuarantine 1 hall 0 0 (BitVec.ofNat 16 hall) (kindCode a) 0 [BitVec.ofNat 64 a]
  s.beginRecovery (.cluster (Fin.ofNat 32 (n / 8))) codeQuarantine 0

/-! Staging. -/

/-- What comes of staging: done; a tag keeps a line waiting (R224); no grant covers a host address (R354); a record faults (R163); or
the memory is in quarantine (R239). -/
inductive Staged where
  | done (s : State)
  | waits
  | gap (a : Nat)
  | bad (code aux : Half)
  | quarantined (a : Nat)
  deriving DecidableEq, Repr

/-- Whether a descriptor names a tile buffer in the Salon of core `n`, below the Curator's area (R208, R324). -/
def stagedIn (n : Nat) (t : Td) : Bool := decide (salonBase n ≤ t.base ∧ t.base < salonBase n + 0x3F0000)

/-- The bytes of a tensor that staging a tile reads, or writing one back writes, as ranges within it. -/
def Td.homeRanges (t h : Td) (whole : Nat) (l : TileRows) (k0 : Nat) : List (Nat × Nat) :=
  if h.spf = 0 then (List.range t.mdim).flatMap (fun r => h.winRanges (homeRow l r) 1 k0 (k0 + t.kext)) else [(0, whole)]

/-- The first byte of each line of a tensor's ranges, as device addresses. -/
def Job.tensorLines (j : Job) (x : Tensor) (rs : List (Nat × Nat)) : List Nat :=
  rs.flatMap (fun r => (List.range ((r.1 + r.2 + 63) / 64 - r.1 / 64)).map (fun i => j.tensorAt x (64 * (r.1 / 64 + i))))

/-- What stands in the way of reading a tile of a tensor at home. -/
def State.homeBar (s : State) (j : Job) (x : Tensor) (rs : List (Nat × Nat)) : Option Staged :=
  if x.mem = 3 then (rs.findSome? (fun r => s.grantGap j.domain.toNat false (x.off + r.1) r.2)).map Staged.gap
  else
    let ls := j.tensorLines x rs
    match ls.find? s.inQuarantine with
    | some a => some (.quarantined a)
    | none => if x.mem = 2 ∧ x.circ = true ∧ ls.any (fun a => !(s.lineFree false a)) = true then some .waits else none

/-- Puts the cells of a tile into the Salon of core `n`, below the Curator's area; a full slot keeps them waiting (R224). -/
def State.toSalon (s : State) (n : Nat) (cs : List (Nat × Byte)) : Staged :=
  let own := cs.filter (fun c => decide (salonBase n ≤ c.1 ∧ c.1 < salonBase n + 0x3F0000))
  if own.any (fun c => !(s.lineFree true c.1)) then .waits else .done (s.writeCells own)

/-- A stored tile enters a Salon: as it lies, or expanded by the Quadrille where the descriptor asks for dense planes (R162 to R164). -/
def State.enterSalon (s : State) (n : Nat) (t h : Td) (rd : Nat → Byte) : Staged :=
  if t.spf = h.spf then s.toSalon n (t.stored h rd (rowsFrom 0 t.mdim) 0)
  else
    match h.expandCheck rd with
    | some f => .bad f.1 f.2
    | none =>
      match s.toSalon n (t.expand h rd) with
      | .done u =>
        let u := (u.bump (coreReg n 0x138) 1).quadDrops n (h.expandDrops rd)
        .done (if t.fm = .xb1 then u.setCore n { u.core n with maskOf := t.tensor, masked := t.expandMask h rd } else u)
      | r => r

/-- Stages the tile that descriptor `t` of core `n` names, with the home rows `l` from element `k0` on (R267, R327): a weight tile, and an
activation tile that is not in a Gallery, through a Gallery stage of the core's Hall; where a stage cannot take it, straight. -/
def State.stage (s : State) (h n : Nat) (j : Job) (x : Tensor) (weight : Bool) (t home : Td) (l : TileRows) (k0 : Nat) : Staged :=
  let g := n / 64
  let job := BitVec.ofNat 16 h
  let loose := home.loose l.length t.kext t.trans
  match (s.hall g).staged job t.tensor home.fmt l k0 t.kext with
  | some y => s.enterSalon n t { loose with base := y.base, scale := y.scale, aux := y.aux } s.readByte
  | none =>
    match s.homeBar j x (t.homeRanges home x.bytes l k0) with
    | some b => b
    | none =>
      let cs := loose.stored home (s.homeByte j x) l k0
      let lost := if home.spf = 6 then foldOver (fun n r => n + (loose.feTile home (s.homeByte j x) r k0).2) 0 l else 0
      let s := s.quadDrops n lost
      match (if weight || decide (x.mem ≠ 2) then s.putStage g h j weight loose l k0 cs else none) with
      | some (u, y) => u.enterSalon n t { loose with base := y.base, scale := y.scale, aux := y.aux } u.readByte
      | none =>
        let img := foldOver (fun (m : Assoc Byte) c => Assoc.insert m c.1 c.2) [] cs
        s.enterSalon n t loose (fun a => (Assoc.find img a).getD 0)

/-! Results in host memory. -/

/-- In a byte that a row of `bits` bits covers only in part, the bits beyond it are 0 (R510). -/
def maskLast (bits : Nat) (bs : List Byte) : List Byte :=
  match bs.reverse with
  | [] => []
  | b :: r => if bits % 8 = 0 then bs else (r.reverse) ++ [BitVec.ofNat 8 (b.toNat % 2 ^ (bits % 8))]

/-- The descriptor of what follows element (r0, k0) of a dense tensor (R249). -/
def Td.window (h : Td) (r0 k0 : Nat) : Td :=
  if h.grouped then
    let g := h.group r0 k0
    { h with base := h.base + g / 16 * h.d, scale := h.scale + 32 * (g / 16), seq0 := (h.seq0 + g / 16) % 16, goff := g % 16 }
  else { h with base := h.base + 8 * h.rstride * r0 + h.width * k0 / 8 }

/-- The descriptor of the part of a grouped host tensor that a tile covers. -/
def Tensor.part (x : Tensor) (t h : Td) (r0 k0 : Nat) : Td :=
  let u := h.window r0 k0
  { u with base := x.off + u.base, scale := x.off + u.scale, rows := t.rows, kext := t.kext }

/-- Whether a tile covers a block of its tensor: every group of the block that the tensor has, of which `left` remain from the tile's
first block on. -/
def Td.coversBlock (t : Td) (left j : Nat) : Bool :=
  (List.range 16).all (fun i => decide (left ≤ 16 * j + i) || (t.groupAt (16 * j + i)).isSome)

/-- Writes a grouped tile to host memory: whole blocks with both headers and the padding (R47, R510); of a block that another tile
covers too, the groups of this one and the headers. -/
def State.writeGroups (s : State) (x : Tensor) (t h : Td) (r0 k0 : Nat) : State :=
  let u := x.part t h r0 k0
  let n := t.g * t.width / 8
  let left := h.mdim * h.pitch - h.group r0 k0 / 16 * 16
  foldOver (fun (s : State) j =>
    let data := u.copyBlock t s.readByte (rowsFrom 0 t.mdim) 0 j
    let scale := u.copyScale t s.readByte (rowsFrom 0 t.mdim) 0 j
    let mine := fun (c : Nat × Byte) => (List.range 16).any (fun i => (u.groupAt (16 * j + i)).isSome &&
      (decide (u.base + j * u.d + 8 + i * n ≤ c.1 ∧ c.1 < u.base + j * u.d + 8 + (i + 1) * n) || decide (c.1 = u.scale + 32 * j + i)))
    let cs := if u.coversBlock left j then data ++ scale
      else data.filter (fun c => mine c || decide (c.1 < u.base + j * u.d + 8)) ++
        scale.filter (fun c => mine c || decide (u.scale + 32 * j + 16 ≤ c.1 ∧ c.1 < u.scale + 32 * j + 24))
    foldOver (fun (v : State) (c : Nat × Byte) => v.hostWrite c.1 [c.2]) s cs) s u.blocks

/-- Writes a result tile to its tensor in host memory (R267, R510). -/
def State.writeOut (s : State) (j : Job) (x : Tensor) (t h : Td) (r0 k0 : Nat) : Except Nat State :=
  let rs := if h.spf = 0 then h.winRanges r0 t.mdim k0 (k0 + t.kext) else [(0, x.bytes)]
  match rs.findSome? (fun r => s.grantGap j.domain.toNat true (x.off + r.1) r.2) with
  | some a => .error a
  | none =>
    if h.spf = 0 ∧ h.grouped = true then .ok (s.writeGroups x t h r0 k0)
    else if h.spf = 0 then
      .ok (foldOver (fun (u : State) (r : (Nat × Nat) × Nat × Nat) =>
        u.hostWrite (x.off + r.2.1) (maskLast (t.width * (t.kext + 1)) (u.readBytes r.1.1 (min r.1.2 r.2.2)))) s
        ((t.winRanges 0 t.mdim 0 t.kext).zip rs))
    else
      .ok (foldOver (fun (u : State) r =>
        u.hostWrite (x.off + h.base + ((r0 + r / t.strips) * h.strips + k0 / 512 + r % t.strips) * (32 * h.width))
          (u.readBytes (t.base + r * (32 * t.width)) (32 * t.width))) s (List.range (t.mdim * t.strips)))

end Sys2Proof.Machine
end

