-- ==== Sys2Proof/Machine/Curator.lean ====
section
/-! DEFINITION. The Curators (11_curator_tiling R320 to R332, R337; 09_nupor_model R248, R266, R267; 01_five_levels R18;
05_tempo R118, R125, R127, R128, R130; 06_folnil_sparsity R156, R164 to R166; 07_docent_catalogue R180 to R189, R200): the start of
a layer, the dispatch of tile invocations and epilogues, and the reports that end a step. -/

namespace Sys2Proof.Machine

/-! Widths and scales for readers (R125, R128). -/

/-- The width − 1 and the scale with which a governed tensor is read: PROD, else NEXT, else the tensor table's FMT and 1.0. -/
def State.readForce (s : State) (r : TempoRec) (t : Tensor) : Nat × Word :=
  if (s.tempoX r.tensor).prodValid then
    (s.fld (tempoSlot r.tensor 0x20) 8 3, BitVec.ofNat 32 (s.fld (tempoSlot r.tensor 0x20) 32 32))
  else if s.nextValid r.tensor then
    (s.fld (tempoSlot r.tensor 0x20) 11 3, BitVec.ofNat 32 (s.fld (tempoSlot r.tensor 0x28) 0 32))
  else (t.fm.width - 1, 0x3F800000#32)

/-- The format code in which a tensor of a job is read. -/
def State.fmtInForce (s : State) (j : Job) (id : Nat) : Nat :=
  let t := (j.tensors[id]?).getD {}
  match jobTempo j id with
  | some r =>
    let w := (s.readForce r t).1 + 1
    if jobWide j id ≠ 0 then t.fmt else if r.signed then 0x10 + w else w
  | none => t.fmt

/-- The scale of a governed tensor; `d` for another. -/
def State.scaleFor (s : State) (j : Job) (id : Nat) (d : Word) : Word :=
  match jobTempo j id with
  | some r => if jobWide j id ≠ 0 then r.pinS else (s.readForce r ((j.tensors[id]?).getD {})).2
  | none => d

/-! The work of a layer. -/

/-- The shape of layer `li` at the widths in force (R325). -/
def State.shapeNow (s : State) (j : Job) (li : Nat) (l : Layer) : Shape :=
  let w := (j.tensors[l.w]?).getD {}
  let a := (j.tensors[l.a]?).getD {}
  let width := fun (id : Nat) => ((Fmt.ofCode (s.fmtInForce j id)).getD (.xu 8)).width
  { w := w, a := a, ww := width l.w, wa := if l.passes = 0 then width l.a else 8, sparse := j.sparsePath li l,
    passes := l.passes + 1,
    outl := match jobTempo j l.a with | some r => (if r.outliers = 0 then 0 else (s.tempoX l.a).list.length) | none => 0 }

def Job.lens (j : Job) : List Nat := (j.jd.map (fun d => d.lens)).getD []

/-- The slot on whose prediction the present layer of a job runs: none without a Docent record, or while its step runs dense (R188). -/
def State.predicts (s : State) (j : Job) : Option Nat :=
  match j.docentOf j.layer with
  | some (slot, _) => if (s.docX slot).dense then none else some slot
  | none => none

/-- Which weight rows the tiles of the present layer take (R156, R181, R326). -/
def State.rowSource (s : State) (j : Job) (l : Layer) : RowSource :=
  let w := (j.tensors[l.w]?).getD {}
  if w.spf = 6 ∧ j.sparsePath j.layer l = true then
    let es := sortItems (s.homeByte j w) 0
    .bins ((List.range 26).map (fun b => es.filter (fun e => binOf e.2.2 == b)))
  else
    match s.predicts j with
    | some slot => .unions (s.docX slot).union
    | none => .blocks

/-- The enumeration that every Curator of the job computes (R326). -/
def State.workNow (s : State) (j : Job) (l : Layer) : List Item :=
  l.work (s.rowSource j l) (s.shapeNow j j.layer l) j.lens j.cores.length

/-- The Tempo records of the tensors that a layer produces: those that it does not read as an operand. -/
def Layer.produced (l : Layer) : List TempoRec :=
  l.tempos.filter (fun r => decide (r.tensor = l.y) || decide (r.tensor ≠ l.a ∧ r.tensor ≠ l.w))

/-! The start of a layer. -/

/-- Whether a finished measure pass is followed by the real production of the same layer (R127), or where the job goes
next: layer, step. -/
def Job.nextLayer (j : Job) : Option (Nat × Nat) :=
  if !j.started then some (0, 0)
  else if j.layerDone ≠ j.mapped then none
  else if j.measure then some (j.layer, j.step)
  else if j.layer + 1 < j.layers.length then some (j.layer + 1, j.step)
  else
    match j.jd with
    | some d => if j.step + 1 < d.reps then some (0, j.step + 1) else none
    | none => none

/-- Zero-fills the split buffer and, in a real production, the Annexes of a layer (R200, R330). -/
def State.zeroLayer (s : State) (j : Job) (li : Nat) (l : Layer) (measure : Bool) : State :=
  let s := if l.split = 0 ∨ l.op = 2 then s
    else s.writeCells (cellsAt (Assoc.get 0 j.splitAddr li)
      (List.replicate (l.splitBytes ((j.tensors[l.w]?).getD {}) j.lens) 0))
  if measure then s
  else
    foldOver (fun (t : State) (c : CatRec) =>
      let x := (j.tensors[c.atensor]?).getD {}
      t.writeCells (cellsAt (x.addr + c.aoffset) (List.replicate (4 * (c.extent + 1)) 0))) s l.cats

/-- The path of a layer under PATH = 0 (R165, R166): the choice and the event of a change. -/
def State.choosePath (s : State) (h : Nat) (j : Job) (li : Nat) (l : Layer) : State × Job :=
  let w := (j.tensors[l.w]?).getD {}
  if l.op = 2 ∨ (fixedPath l w).isSome = true then (s, j)
  else
    let d := w.density (w.homeTd l.w w.fmt) (s.homeByte j w)
    let p := pathOf d.1 d.2 (s.breakeven w.spf)
    let old := Assoc.get 0 j.paths li
    let s := if old = 0 ∨ old = p then s
      else s.post 0x1022 2 ((clustersOf j.mapped).headD 0) (BitVec.ofNat 16 h) [BitVec.ofNat 64 l.w, BitVec.ofNat 64 p]
    (s, { j with paths := Assoc.put 0 j.paths li p })

/-- Places U and V of a Docent record in the Gallery of Hall `g` when its layer is first dispatched (R180). Where the Gallery has no
space for them, Docent goes on reading the model (DESIGN CHOICE, notes/assumptions/174.md). -/
def State.placeDocent (s : State) (h g : Nat) (j : Job) (slot d : Nat) (r : DocRec) : State :=
  let x := s.docX slot
  let bu := ceilDiv (d * (r.rank + 1)) 2
  let bv := ceilDiv ((r.rank + 1) * (r.neurons + 1)) 2
  if (Assoc.find x.placed g).isSome then s
  else
    match s.galRegion g { valid := true, owner := 0, job := BitVec.ofNat 16 h, clsW := j.clsStage,
                          len := pageUp4K (lineUp bu + bv) } 4096 with
    | none => s
    | some (u, a) =>
      let bytes := fun (off n : Nat) => (List.range n).map (fun i => s.readByte (j.modelAt (off + i)))
      let u := u.writeCells (cellsAt a (bytes r.uAddr bu) ++ cellsAt (a + lineUp bu) (bytes r.vAddr bv))
      u.setDocX slot { x with placed := Assoc.insert x.placed g (a, a + lineUp bu) }

/-- The active neurons at row `row` of the input of a job's present layer (R177 to R179), in Hall `g`. -/
def State.activeAt (s : State) (g : Nat) (j : Job) (slot : Nat) (r : DocRec) (tau : Word) (row : Nat) : List Nat :=
  let a := (j.tensors[r.inTensor]?).getD {}
  let sc := match jobTempo j r.inTensor with
    | some q => scaleOf (s.readForce q a).2
    | none => (1, 0)
  r.active (s.predictor j slot g r) (j.docDim j.layer) tau (a.homeTd r.inTensor (s.fmtInForce j r.inTensor)) (s.homeByte j a) sc.1
    sc.2 row

/-- The positions that the clusters of a job score for a Docent layer: cluster, row of A (R177). -/
def scoredRows (work : List Item) (cores : List Nat) : List (Nat × Nat) :=
  ((indexed work).flatMap (fun x =>
    if x.2.skip then []
    else (List.range x.2.nl).map (fun i => ((cores[x.1 % cores.length]?).getD 0 / 8, x.2.p.aRow + x.2.n0 + i)))).eraseDups

/-- The Curators take tau, DENSE and the active sets for a step (R189), and Docent scores every in-bound position once in each cluster
that computes it (R177, R180). -/
def State.beginDocent (s : State) (h : Nat) (j : Job) (l : Layer) : State :=
  match j.docentOf j.layer with
  | none => s
  | some (slot, r) =>
    let halls := hallsOf j.mapped
    let s := foldOver (fun (t : State) g => t.placeDocent h g j slot (l.k + 1) r) s halls
    let tau := BitVec.ofNat 32 (s.fld (docentSlot slot 0) 0 32)
    let rows := (l.grid j.lens).flatMap (fun p => (List.range (l.actual j.lens p).2.1).map (fun i => p.aRow + i))
    let sets := foldOver (fun (m : Assoc (List Nat)) row => Assoc.insert m row (s.activeAt (halls.headD 0) j slot r tau row)) []
      (dedupNat rows)
    let x := { s.docX slot with tau := tau, dense := decide (s.fld (docentSlot slot 0) 40 1 = 1), sets := sets, begun := s.hclk }
    let s := s.setDocX slot x
    let order := scoredRows (s.workNow j l) j.cores
    foldOver (fun (t : State) (e : Nat × Nat) =>
      (t.bump (cluReg e.1 0x20) 1).bump (cluReg e.1 0x28) ((Assoc.find sets e.2).getD []).length)
      (s.setDocX slot { x with order := order }) order

/-- The Curators of a job begin layer `li` of step `st`. The Gallery stages begin empty. -/
def State.beginLayer (s : State) (h : Nat) (j : Job) (li st : Nat) (l : Layer) : State :=
  let f : State × Bool := if j.started && j.measure then (s, false) else s.firstUse h l.produced
  let p := f.1.choosePath h j li l
  let j := { p.2 with layer := li, step := st, started := true, measure := f.2, layerDone := 0, closed := [], splitDone := [],
                      splitStage := [] }
  let s := (p.1.setJob h j).zeroLayer j li l f.2
  let s := foldOver (fun (t : State) g => t.dropStages g (fun x => decide (x.job = BitVec.ofNat 16 h))) s (hallsOf j.mapped)
  let s := foldOver (fun (t : State) (x : Nat × Nat) => t.setCore x.2 { t.core x.2 with nextItem := x.1 }) s (indexed j.cores)
  let s := foldOver (fun (t : State) c =>
    ((t.setFld (cluReg c 0x50) 0 12 li).setFld (cluReg c 0x50) 12 32 st).bump (cluReg c 0x60) (l.folded j.lens)) s
    (clustersOf j.mapped)
  s.beginDocent h j l

/-- Whether the slot of layer `li` still waits for the decision of a window that has closed (R189). -/
def State.windowOpen (s : State) (j : Job) (li : Nat) : Bool :=
  match j.docentOf li with
  | some (slot, _) => decide ((s.docX slot).window ≤ s.fld (docentSlot slot 0x10) 32 8)
  | none => false

/-- LAYER_START: every cluster has reported the previous layer done, and the first dispatch of the next begins; the Curators
wait for a Docent decision that is due (R189, R321). -/
def execLayerStart (handle : Half) (s : State) : Host.Outcome State Fault Refusal :=
  let h := handle.toNat
  match s.job h with
  | none => .next s
  | some j =>
    if j.phase ≠ .running then .next s
    else
      match j.nextLayer with
      | none => .next s
      | some (li, st) =>
        match j.layers[li]? with
        | none => .next s
        | some l =>
          if s.windowOpen j li then
            .next (foldOver (fun (t : State) c => t.bump (cluReg c 0x48) 4) s (clustersOf j.mapped))
          else .next (s.beginLayer h j li st l)

/-! The end of an invocation. -/

/-- The Hall DMA of a core's Hall meets no grant: the job faults (R354, R489). -/
def State.dmaFault (s : State) (h n a : Nat) : State :=
  (s.bump 0x1008 1).report
    { job := BitVec.ofNat 16 h, code := codeGrant, iaddr := 0, unit := BitVec.ofNat 16 (n / 8), aux := BitVec.ofNat 16 (a / 4096),
      extra := [BitVec.ofNat 64 a] }

/-- Writes the result tiles of an invocation to host memory (R267); nothing in a measure pass (R130). -/
def State.writeOuts (s : State) (h n : Nat) (j : Job) (outs : List (TileReg × Nat × Nat)) : State :=
  if (s.core n).measuring then s
  else
    (foldOver (fun (a : State × Bool) (o : TileReg × Nat × Nat) =>
      if a.2 then a
      else
        let t := Td.of o.1
        let x := (j.tensors[t.tensor]?).getD {}
        let f := (a.1.inForce n t 1 0).td
        match a.1.writeOut j x f (x.homeTd t.tensor f.fmt) o.2.1 o.2.2 with
        | .ok u => (u, false)
        | .error g => (a.1.dmaFault h n g, true)) (s, false) outs).1

/-- The place of an item in its layer's split buffer, and the bytes from one position to the next (R330). -/
def Job.splitPlace (j : Job) (l : Layer) (i : Item) : Nat × Nat :=
  let w := (j.tensors[l.w]?).getD {}
  (Assoc.get 0 j.splitAddr j.layer + foldOver (fun n (p : Problem) => n + p.rawBytes w) 0 ((l.grid j.lens).take i.pi) + 8192 * i.mi,
   i.p.rawBlocks w * 8192)

/-- The raw sums of an item, position by position: index (position, Floor row) of the Salon's raw-sum buffer (R324). -/
def rawAt (i : Item) : List (Nat × Nat) := (List.range i.nl).flatMap (fun p => (List.range i.ml).map (fun r => (p, r)))

def State.word (s : State) (a : Nat) : Word := BitVec.ofNat 32 (leNat (s.readBytes a 4))

/-- The parts of an item that carry work. -/
def partsOf (work : List Item) (item : Nat) : Nat := (work.filter (fun i => i.item == item && !i.skip)).length

/-- The Hall DMA adds the raw sums of a part into the split buffer, or stages them for the ORDERED combination (R330). -/
def State.landPart (s : State) (h n : Nat) (j : Job) (l : Layer) (i : Item) (parts : Nat) : State :=
  let place := j.splitPlace l i
  let at_ := fun (x : Nat × Nat) => place.1 + (i.n0 + x.1) * place.2 + 4 * x.2
  let raw := (rawAt i).map (fun x => s.word (salonBase n + 0x300000 + 4 * (2048 * x.1 + x.2)))
  let done := Assoc.get 0 j.splitDone i.item + 1
  let j := { j with splitDone := Assoc.put 0 j.splitDone i.item done }
  if l.split = 3 then
    let stage := j.splitStage ++ [(i.item, i.part, raw)]
    let mine := stage.filter (fun e => e.1 == i.item)
    let s := s.setJob h { j with splitStage := stage }
    if done < parts then s
    else
      let ftz := (s.core n).ftz
      foldOver (fun (t : State) (x : Nat × Nat × Nat) =>
        let vs := (List.range i.parts).filterMap (fun k =>
          ((mine.find? (fun e => e.2.1 == k)).bind (fun e => e.2.2[x.1]?)))
        let a := at_ x.2
        t.writeCells (cellsAt a (leBytes 4 (f32AddF ftz (t.word a) (ordSum ftz vs)).1.toNat))) s (indexed (rawAt i))
  else
    let s := s.setJob h j
    let r := foldOver (fun (t : State × AddFlags) (x : (Nat × Nat) × Word) =>
      let q := t.1.atomicAdd (at_ x.1) (l.split == 2) (s.core n).ftz x.2
      (q.1, t.2.or q.2)) (s, {}) ((rawAt i).zip raw)
    let ctx : Ctx := ⟨n, (s.core n).kbase, 0, (s.core n).s, (s.core n).td⟩
    match r.1.addOutcome ctx l.y r.2 with
    | .done t => t
    | .wait t _ => t
    | .fail t code aux => t.coreFault n ctx.iaddr code aux

/-- A dense run's samples of the tile that core `n` has finished count in this step (R186); a part's wait for the epilogue. -/
def State.settleTile (s : State) (n : Nat) (j : Job) (run : TileRun) (part : Bool) : State :=
  match j.docentOf run.layer with
  | some (slot, _) => s.settleSamples slot (fun d => run.epilogue || d.core == n) (!part && !run.epilogue)
  | none => s

/-- What remains of the invocation that core `n` has halted: its samples count, result tiles and split parts land. -/
def State.finishTile (s : State) (n : Nat) : State :=
  let c := s.core n
  if c.running || c.halting || c.stopped then s
  else
    match c.tile, s.job c.job.toNat with
    | some run, some j =>
      let h := c.job.toNat
      let s := s.setCore n { c with tile := none }
      match j.layers[run.layer]? with
      | some l =>
        let work := s.workNow j l
        let part := work.find? (fun i => i.item == run.item && i.part == run.part && i.split && !run.epilogue)
        let s := (s.settleTile n j run part.isSome).writeOuts h n j run.outs
        match part with
        | some i => s.landPart h n j l i (partsOf work run.item)
        | none => s
      | none => s.writeOuts h n j run.outs
    | _, _ => s

/-! Dispatch (R266, R267). -/

/-- The byte range of a kernel: from its entry to the next entry that a layer names, or KLEN (R248). -/
def Job.kernelLen (j : Job) (entry : Nat) : Nat :=
  let es := (j.layers.flatMap (fun l => [l.kentry, l.eentry])).filter (fun e => decide (entry < e))
  let stop := foldOver (fun m e => min m e) ((j.jd.map (fun d => d.klen)).getD 0) es
  stop - entry

/-- The words of a kernel in the image region of a Hall. -/
def State.kernelWords (s : State) (a len : Nat) : Assoc InstrWord :=
  foldOver (fun (m : Assoc InstrWord) i => Assoc.put 0 m i (BitVec.ofNat 128 (leNat (s.readBytes (a + 16 * i) 16)))) []
    (List.range (len / 16))

/-- A descriptor register from its fields (R249). -/
def Td.reg (t : Td) : TileReg :=
  let flag := fun (b : Bool) (i : Nat) => if b then 2 ^ i else 0
  BitVec.ofNat 256 (t.base % 2 ^ 48 + t.fmt % 64 * 2 ^ 48 + t.spf % 16 * 2 ^ 54 + t.gsize % 4 * 2 ^ 58 + flag t.trans 60 +
    flag t.gov 61 + flag t.map 62 + t.scale % 2 ^ 48 * 2 ^ 64 + t.tensor % 4096 * 2 ^ 112 + t.seq0 % 16 * 2 ^ 124 +
    t.aux % 2 ^ 48 * 2 ^ 128 + t.region % 1024 * 2 ^ 176 + t.goff % 16 * 2 ^ 186 + t.rows % 65536 * 2 ^ 192 +
    t.kext % 2 ^ 24 * 2 ^ 208 + t.rstride % 2 ^ 24 * 2 ^ 232)

/-- The limbs above the lowest with which a layer reads a tensor as a wide operand: its PASSES code (R69, R128). -/
def Job.limbsOf (j : Job) (l : Layer) (id : Nat) : Nat := if id = l.a ∧ l.op = 1 ∧ l.passes ≠ 0 then l.passes else jobWide j id

/-- The descriptor of a whole tensor at home, as a layer reads it: in the format in force (R125); of a wide operand limb `p`, in its
format of R69, behind the limbs below it (R128; DESIGN CHOICE, notes/assumptions/175.md). -/
def State.homeOf (s : State) (j : Job) (l : Layer) (id p : Nat) : Td :=
  let x := (j.tensors[id]?).getD {}
  let top := j.limbsOf l id
  if top = 0 then x.homeTd id (s.fmtInForce j id)
  else
    let signed := match jobTempo j id with | some r => r.signed | none => x.fm.signed
    let limb := { x with fmt := if p = top ∧ signed = true then 0x18 else 8 }
    let size := foldOver (fun m (r : Nat × Nat) => max m (r.1 + r.2)) 0 (limb.streams none)
    let h := limb.homeTd id limb.fmt
    { h with base := p * size, scale := if h.grouped then p * size + h.scale else 0 }

/-- The part of tensor `id` that an item takes: its rows at home, first element, and elements (R267, R323). A tile with nothing to
gather names one row, which its row map leaves out. -/
def Item.window (i : Item) (j : Job) (l : Layer) (id : Nat) : TileRows × Nat × Nat :=
  let x := (j.tensors[id]?).getD {}
  if id = l.w ∧ l.op = 1 then
    (match i.rows with
     | some [] => rowsFrom i.p.wRow 1
     | some rs => rs.map (fun e => (e.1, if x.spf = 6 then some e.2 else none))
     | none => rowsFrom (i.p.wRow + i.m0) i.ml, i.k0, i.kl)
  else if id = l.a then (rowsFrom (i.p.aRow + i.n0) i.nl, i.k0, i.kl)
  else if id = l.y then (rowsFrom (i.p.yRow + i.n0) i.nl, i.chan, i.cl)
  else if l.ctv = true ∧ id = l.ct ∧ i.chan + i.cl ≤ x.kext + 1 then (rowsFrom 0 1, i.chan, i.cl)
  else (rowsFrom 0 (x.rows + 1), 0, x.kext + 1)

/-- Whether a descriptor names the raw-sum buffer of core `n` (R324). -/
def rawBuffer (n : Nat) (t : Td) : Bool := decide (salonBase n + 0x300000 ≤ t.base ∧ t.base < salonBase n + 0x380000)

/-- A descriptor that the Curator has filled, the tensor at home, and the part of it that the tile takes. -/
structure Filled where
  td : Td
  home : Td
  rows : TileRows
  k0 : Nat
  deriving DecidableEq, Repr

/-- Clips a descriptor to some rows and elements (R323). -/
def Td.clip (t : Td) (rows ext : Nat) : Td := { t with rows := min t.rows (rows - 1), kext := min t.kext (ext - 1) }

/-- Fills descriptor `v` of an item for core `n` (R125, R128, R267, R323). What it names decides the rest: an input takes the format in
force, a governed one GOV, a weight the form of the layer's path; a tensor at a device address takes BASE, SCALE, SEQ0, GOFF and
RSTRIDE of the tile, a governed output at the width that it will be stored in; the split buffer, the item's place in it. `p` is the limb of a wide operand. -/
def State.fillTd (s : State) (n : Nat) (j : Job) (l : Layer) (i : Item) (p : Nat) (v : TileReg) : Filled :=
  let t := Td.of v
  let x := (j.tensors[t.tensor]?).getD {}
  let gov := (jobTempo j t.tensor).isSome
  let made := t.gov && gov && decide (t.tensor = l.y ∧ t.tensor ≠ l.a)
  let home := if made then x.homeTd t.tensor (s.inForce n t 1 0).td.fmt else s.homeOf j l t.tensor p
  let w := i.window j l t.tensor
  let raw := Assoc.get 0 j.splitAddr j.layer
  let place := j.splitPlace l i
  if i.split ∧ raw ≤ t.base ∧ t.base < raw + l.splitBytes ((j.tensors[l.w]?).getD {}) j.lens then
    ⟨{ t.clip i.nl i.ml with base := place.1 + i.n0 * place.2, rstride := place.2 / 8 }, home, [], 0⟩
  else if rawBuffer n t ∧ t.tensor ≠ l.y then ⟨t, home, [], 0⟩
  else
    let c := t.clip w.1.length w.2.2
    let f := if t.tensor = l.y then { c with fmt := if t.gov && gov then s.fmtInForce j l.y else t.fmt }
      else { c with fmt := home.fmt, gsize := x.gsize, gov := gov && decide (j.limbsOf l t.tensor = 0)
                    spf := if t.tensor = l.w ∧ j.sparsePath j.layer l = false then 0 else x.spf }
    let u := home.window (homeRow w.1 0) w.2.1
    let g := if stagedIn n t = true ∨ x.mem = 3 ∨ x.circ = true ∨ x.spf ≠ 0 ∨ (f.fmt ≠ home.fmt ∧ made = false) then f
      else { f with base := j.tensorAt x u.base, scale := if u.grouped then j.tensorAt x u.scale else 0, seq0 := u.seq0, goff := u.goff,
                    rstride := u.rstride }
    ⟨g, home, w.1.take (g.rows + 1), w.2.1⟩

/-- The descriptors of an item: those that name one wide operand are its limbs in order. -/
def State.fillTds (s : State) (n : Nat) (j : Job) (l : Layer) (i : Item) (tds : List TileReg) : List (Option Filled) :=
  (indexed (tds.take 16)).map (fun v =>
    if v.2 = 0 then none
    else
      let id := (Td.of v.2).tensor
      let nth := ((tds.take v.1).filter (fun u => decide (u ≠ 0) && (Td.of u).tensor == id)).length
      some (s.fillTd n j l i (nth % (j.limbsOf l id + 1)) v.2))

/-- Stages the inputs among the descriptors that name Salon buffers. -/
def State.stageAll (s : State) (h n : Nat) (j : Job) (l : Layer) (fs : List (Option Filled)) : Staged :=
  foldOver (fun (a : Staged) f =>
    match a, f with
    | .done u, some f =>
      let x := (j.tensors[f.td.tensor]?).getD {}
      if f.td.tensor = l.y ∨ f.rows.isEmpty = true ∨ stagedIn n f.td = false then .done u
      else u.stage h n j x (f.td.tensor == l.w && l.op == 1) f.td f.home f.rows f.k0
    | _, _ => a) (.done s) fs

/-- The row map of an item (R181, R250): channels counted from its first, and where it holds none a channel that no row computes. -/
def Item.rowMap (i : Item) (l : Layer) : List Byte :=
  let cs := match i.rows with
    | some rs => rs.map (fun e => e.1 - i.p.wRow - i.m0)
    | none => List.range i.ml
  let none_ := if l.m < 0xFFFF then 0xFFFF else ((List.range 0x10000).find? (fun c => !(cs.contains c))).getD 0xFFFF
  (cs ++ List.replicate (2048 - cs.length) none_).flatMap (leBytes 2)

/-- Writes the row map for the descriptors that ask for one in the Salon of core `n`. -/
def State.putMaps (s : State) (n : Nat) (l : Layer) (i : Item) (fs : List (Option Filled)) : State :=
  foldOver (fun (t : State) f =>
    match f with
    | some f =>
      if f.td.map = true ∧ salonBase n ≤ f.td.aux ∧ f.td.aux + 4096 ≤ salonBase n + 0x3F0000 then
        t.writeCells (cellsAt f.td.aux (i.rowMap l))
      else t
    | none => t) s fs

/-- The two tensor scales of a dispatch: s4 and s5 (R125, R128, R267). -/
def State.scales (s : State) (j : Job) (l : Layer) (weight : Word) : Word × Word :=
  (s.scaleFor j l.a 0x3F800000#32, s.scaleFor j l.w weight)

/-- The scalar registers of a dispatch (R267). -/
def State.fillS (s : State) (j : Job) (l : Layer) (i : Item) (weight : Word) : Assoc DWord :=
  let n := selected j.lens l.lenN (i.p.pn + 1)
  let sc := s.scales j l weight
  let vs : List DWord :=
    [BitVec.ofNat 64 i.chan, BitVec.ofNat 64 (i.p.yRow + i.n0), BitVec.ofNat 64 i.k0, BitVec.ofNat 64 n, wide sc.1, wide sc.2,
     BitVec.ofNat 64 j.layer, BitVec.ofNat 64 j.step] ++ l.args
  foldOver (fun m x => Assoc.put 0 m x.1 x.2) [] (indexed vs)

/-- The elements of an item at which Docent predicts the neuron inactive, position by position: position, channel (R183, R184). -/
def DocX.inactive (x : DocX) (i : Item) : List (Nat × Nat) :=
  (List.range i.nl).flatMap (fun k =>
    let act := (Assoc.find x.sets (i.p.aRow + i.n0 + k)).getD []
    ((List.range i.cl).map (fun c => (i.p.yRow + i.n0 + k, i.chan + c))).filter (fun e => !(act.contains e.2)))

/-- The Curator counts the predicted-inactive elements of an item that it dispatches (R184): once, in its first part, and in no measure
pass (R186). -/
def State.countInactive (s : State) (n : Nat) (j : Job) (i : Item) (run : TileRun) : State :=
  match j.docentOf j.layer with
  | none => s
  | some (slot, _) =>
    let x := s.docX slot
    if j.measure || run.epilogue || decide (run.part ≠ 0) then s
    else
      s.setDocX slot { x with
        periods := Assoc.put {} x.periods (n / 8) ((Assoc.get {} x.periods (n / 8)).add s.docPeriod (x.inactive i).length) }

/-- The Caller of core `n` starts an invocation at kernel entry `entry` (R267). -/
def State.startTile (s : State) (h n : Nat) (j : Job) (l : Layer) (i : Item) (entry : Nat) (weight : Word)
    (fs : List (Option Filled)) (run : TileRun) : State :=
  let s := (s.putMaps n l i fs).countInactive n j i run
  let s := if (s.core n).dispatched then s else s.setFld (coreReg n 0x100) 63 1 0
  let pred := s.predicts j
  let sets := match pred with
    | some slot => (List.range i.nl).filterMap (fun k =>
        (Assoc.find (s.docX slot).sets (i.p.aRow + i.n0 + k)).map (fun a => (i.p.yRow + i.n0 + k, a)))
    | none => []
  let outs := fs.filterMap (fun f => f.bind (fun f =>
    if f.td.tensor = l.y ∧ ((j.tensors[l.y]?).getD {}).mem = 3 ∧ stagedIn n f.td = true ∧ rawBuffer n f.td = false then
      some (f.td.reg, homeRow f.rows 0, f.k0) else none))
  let base := match j.docentOf j.layer with
    | some (slot, _) => (Assoc.get {} (s.docX slot).periods (n / 8)).count - ((s.docX slot).inactive i).length
    | none => 0
  let c := s.core n
  let len := j.kernelLen entry
  let sc := s.scales j l weight
  let s := s.setCore n { c with
    running := true, halting := false, stopped := false, s := s.fillS j l i weight
    td := foldOver (fun (m : Assoc TileReg) x => match x.2 with | some f => Assoc.put 0 m x.1 f.td.reg | none => m) [] (indexed fs)
    p := 0, lcCount := [], lcStart := [], pc := 0
    kbase := BitVec.ofNat 32 entry, klen := len, kbuf := s.kernelWords (Assoc.get 0 j.kaddr (n / 64) + entry) len
    ftz := j.mode 0, satNan := j.mode 1, intTrap := j.mode 2, nanTrap := j.mode 3, salonFault := j.salonFault
    galFault := j.galFault, job := BitVec.ofNat 16 h, dispatched := true, invoc := if c.dispatched then c.invoc + 1 else 0
    tileM := i.chan, tileN := i.p.yRow + i.n0, ccycle := 0, ccAt := s.hclk
    measuring := j.measure, docY := if pred.isSome then some l.y else none, active := sets, docBase := base
    tile := some { run with outs := outs, t := f32Mul sc.1 sc.2 } }
  s.bump (coreReg n 0x190) 1

/-- Dispatches an invocation at kernel entry `entry` to core `n`: the kernel and the inputs come first (R266, R267). -/
def State.dispatch (s : State) (h n : Nat) (j : Job) (l : Layer) (i : Item) (entry : Nat) (weight : Word) (tds : List TileReg)
    (run : TileRun) : Staged :=
  let fs := s.fillTds n j l i tds
  let kernel := Assoc.get 0 j.kaddr (n / 64) + entry
  if s.inQuarantine kernel then .quarantined kernel
  else
    match s.stageAll h n j l fs with
    | .done u => .done (u.startTile h n j l i entry weight fs run)
    | r => r

/-- A dispatch as it turned out: `f` follows one that was made; one that waits changes nothing. -/
def State.dispatched (s : State) (h n : Nat) (r : Staged) (f : State → State) : State :=
  match r with
  | .done u => f u
  | .waits => s
  | .gap a => s.dmaFault h n a
  | .bad code aux => s.report { job := BitVec.ofNat 16 h, code := code, iaddr := 0, unit := BitVec.ofNat 16 n, aux := aux }
  | .quarantined a => s.curatorMeets n a

/-- Whether an Inventory slice tests core `n` or its cluster's units, or is held for (R444, R445). -/
def State.underTest (s : State) (n : Nat) : Bool :=
  [n, 256 + n, 768 + n / 8].any (fun t => s.invRun.contains t || s.invHeld.contains t)

/-- Whether core `n` can take an invocation of its job now (R266, R445). -/
def State.coreReady (s : State) (n : Nat) (j : Job) : Bool :=
  let c := s.core n
  !c.running && !c.halting && !c.stopped && !(coreFenced s n) && clusterServing s (n / 8) && decide (j.phase = .running) &&
    j.started && !(bitAt j.layerDone.toNat (n / 8)) && !(s.underTest n)

/-- Whether Docent has scored the positions of an item in cluster `c` (R180). -/
def State.scored (s : State) (c : Nat) (j : Job) (i : Item) : Bool :=
  match j.docentOf j.layer with
  | none => true
  | some (slot, _) =>
    (List.range i.nl).all (fun k =>
      decide ((s.docX slot).scoredAt (j.docDim j.layer) c (i.p.aRow + i.n0 + k) ≤ s.hclk))

/-- TILE_DISPATCH: the Curator of core `n` dispatches the core's next item, or retires it as a skip record (R266, R267,
R322, R326). While the scores of its positions are not complete it waits (R180). -/
def execTileDispatch (core : Fin 256) (item : Nat) (weightScale : Word) (tds : List TileReg) (s : State) :
    Host.Outcome State Fault Refusal :=
  let n := core.val
  let s0 := s
  let s := s.finishTile n
  let h := (s.core n).job.toNat
  match s.job h with
  | none => .next s0
  | some j =>
    match j.layers[j.layer]? with
    | none => .next s0
    | some l =>
      if !(s.coreReady n j) || decide ((s.core n).nextItem ≠ item) || !(j.cores.contains n) then .next s0
      else
        match (s.workNow j l)[item]? with
        | none => .next s0
        | some i =>
          let taken := fun (t : State) => t.setCore n { t.core n with nextItem := item + j.cores.length }
          if i.skip then .next ((taken s).bump (cluReg (n / 8) 0x58) 1)
          else if !(s.scored (n / 8) j i) then .next (s.bump (cluReg (n / 8) 0x48) 4)
          else
            let r := s.dispatch h n j l i l.kentry weightScale tds { layer := j.layer, item := i.item, part := i.part }
            .next (s.dispatched h n r (fun u => if i.split then (taken u).bump (cluReg (n / 8) 0x68) 1 else taken u))

/-- The mark of an item whose epilogue has been dispatched. -/
def epilogueMark : Nat := 256

/-- The whole of an item of which `i` is a part, for its epilogue. -/
def Item.whole (i : Item) (j : Job) (l : Layer) : Item := { i with part := 0, k0 := 0, kl := selected j.lens l.lenK (i.p.pk + 1) }

/-- EPILOGUE_DISPATCH: every part of an item has landed, and the Curator dispatches its epilogue at EENTRY (R330). -/
def execEpilogueDispatch (core : Fin 256) (item : Nat) (weightScale : Word) (tds : List TileReg) (s : State) :
    Host.Outcome State Fault Refusal :=
  let n := core.val
  let h := (s.core n).job.toNat
  match s.job h with
  | none => .next s
  | some j =>
    let s := foldOver (fun (t : State) m => t.finishTile m) s j.cores
    match s.job h, j.layers[j.layer]? with
    | some j, some l =>
      let work := s.workNow j l
      match work.find? (fun i => i.item == item && i.split && !i.skip) with
      | none => .next s
      | some i =>
        if s.coreReady n j && decide (Assoc.get 0 j.splitDone item = partsOf work item) && j.cores.contains n then
          let r := s.dispatch h n j l (i.whole j l) l.eentry weightScale tds
            { layer := j.layer, item := item, part := 0, epilogue := true }
          .next (s.dispatched h n r (fun u =>
            match u.job h with
            | some k => u.setJob h { k with splitDone := Assoc.put 0 k.splitDone item epilogueMark }
            | none => u))
        else .next s
    | _, _ => .next s

/-! Reports (R118, R187, R321). -/

/-- A cluster's report of a governed tensor; the last one closes the step. A tensor of the layer that needs no measuring is stored in
the measure pass too, and that pass closes a step of it like any production (DESIGN CHOICE, notes/assumptions/168.md). -/
def State.reportTensor (s : State) (h c : Nat) (j : Job) (r : TempoRec) : State :=
  match s.job h with
  | none => s
  | some k =>
    if k.closed.contains r.tensor then s
    else
      let x := s.tempoX r.tensor
      let bits := x.reported ||| BitVec.ofNat 32 (2 ^ c)
      let s := s.setTempoX r.tensor { x with reported := bits }
      if bits &&& j.mapped = j.mapped then (s.closeTempo c h j r).setJob h { k with closed := r.tensor :: k.closed } else s

/-- A step of a Docent layer closes (R187, R188, R190); a measure pass is no production. -/
def State.closeDocent (s : State) (j : Job) : State :=
  match (if j.measure then none else j.docentOf j.layer) with
  | none => s
  | some (slot, r) =>
    let s := s.settleSamples slot (fun _ => true) true
    let s := if (s.docX slot).dense then s.bump (foy 0x98) 1 else s
    let first := decide (s.fld (docentSlot slot 0x10) 0 32 = 0)
    let s := (s.bumpFld (docentSlot slot 0x10) 0 32 1).bumpFld (docentSlot slot 0x10) 32 8 1
    if first && r.uncal then s.setFld (docentSlot slot 0) 40 1 0 else s

/-- Whether cluster `c` has finished its part of the layer: every item of its cores has been dispatched and has halted,
and every epilogue that is its to wait for has been dispatched. -/
def State.clusterDone (s : State) (c : Nat) (j : Job) (work : List Item) : Bool :=
  let cores := j.cores.filter (fun n => n / 8 == c)
  cores.all (fun n =>
    let k := s.core n
    !k.running && !k.halting && !k.stopped && k.tile.isNone && decide (work.length ≤ k.nextItem)) &&
    (decide (popBits 32 j.layerDone.toNat + 1 < popBits 32 j.mapped.toNat) ||
      work.all (fun i => !i.split || decide (partsOf work i.item = 0) || decide (Assoc.get 0 j.splitDone i.item = epilogueMark)))

/-- STEP_DONE: a Curator reports a governed tensor, or its part of the layer (R118, R321). -/
def execStepDone (cluster : Fin 32) (tensor : Option (BitVec 12)) (s : State) : Host.Outcome State Fault Refusal :=
  let c := cluster.val
  let h := (s.cluster c).job.toNat
  match s.job h with
  | none => .next s
  | some j =>
    match j.layers[j.layer]? with
    | none => .next s
    | some l =>
      if j.phase ≠ .running ∨ j.started = false ∨ bitAt j.layerDone.toNat c = true ∨ bitAt j.mapped.toNat c = false then .next s
      else
        match tensor with
        | some t =>
          match l.produced.find? (fun r => r.tensor == t.toNat) with
          | some r => .next (s.reportTensor h c j r)
          | none => .next s
        | none =>
          let t := foldOver (fun (u : State) n => u.finishTile n) s (j.cores.filter (fun n => n / 8 == c))
          match t.job h with
          | none => .next t
          | some j =>
            if t.clusterDone c j (t.workNow j l) then
              let t := foldOver (fun (u : State) r => u.reportTensor h c j r) t l.produced
              match t.job h with
              | none => .next t
              | some k =>
                let k := { k with layerDone := k.layerDone ||| BitVec.ofNat 32 (2 ^ c) }
                let t := t.setJob h k
                .next (if k.layerDone = k.mapped then t.closeDocent k else t)
            else .next t

end Sys2Proof.Machine
end

