-- ==== Sys2Proof/Machine/DocentEvents.lean ====
section
/-! DEFINITION. Docent's samples and windows (07_docent_catalogue R184 to R188; 03_bit_serial_engine R80). -/

namespace Sys2Proof.Machine

/-- The predicted-inactive elements of the invocation that core `n` runs, its item, and the layer: none of a part after the first and
of an epilogue. -/
def State.tileInactive (s : State) (n : Nat) (j : Job) (x : DocX) : Option (Item × Layer × List (Nat × Nat)) :=
  match (s.core n).tile, j.layers[j.layer]? with
  | some run, some l =>
    if run.part ≠ 0 ∨ run.epilogue = true then none
    else ((s.workNow j l).find? (fun i => i.item == run.item && i.part == 0)).map (fun i => (i, l, x.inactive i))
  | _, _ => none

/-- The entry of output channel `ch` in the channel table of a layer, if it has one (R131). -/
def State.channelEntry (s : State) (j : Job) (l : Layer) (ch : Nat) : Option Word :=
  if l.ctv then
    let x := (j.tensors[l.ct]?).getD {}
    let h := x.homeTd l.ct x.fmt
    some (BitVec.ofNat 32 (h.code (s.homeByte j x) (ch / h.kdim) (ch % h.kdim)))
  else none

/-- DOCENT_SAMPLE_DRAW: the Curator draws one of the predicted-inactive elements of a period: element `element`, in order,
of those of the tile that core `core` runs. On the predicted path the request goes to the core's check engine, and is
dropped at a full queue; on the dense path the sample's y comes from the computed result (R184, R185). -/
def execDocentSampleDraw (slot : BitVec 10) (core : Fin 256) (element : Nat) (s : State) : Host.Outcome State Fault Refusal :=
  let n := core.val
  let k := slot.toNat
  let x := s.docX k
  let c := s.core n
  match s.job c.job.toNat with
  | none => .next s
  | some j =>
    let held := match j.docentOf j.layer with | some (m, _) => m == k | none => false
    if !held || !c.running || c.stopped || j.measure || decide (j.phase ≠ .running) then .next s
    else
      match s.tileInactive n j x with
      | none => .next s
      | some (i, l, es) =>
        match es[element]? with
        | none => .next s
        | some e =>
          let p := Assoc.get {} x.periods (n / 8)
          let first := p.periodOf (c.docBase + element)
          if p.drawn.contains first then .next s
          else
            let x := { x with periods := Assoc.put {} x.periods (n / 8) { p with drawn := first :: p.drawn } }
            if x.dense then .next (s.setDocX k { x with due := x.due ++ [{ core := n, pos := e.1, ch := e.2 }] })
            else
              let s := s.setDocX k x
              let t := match c.tile with | some run => run.t | none => 0
              let q : Sample := { slot := k, layer := j.layer, aRow := i.p.aRow + (e.1 - i.p.yRow), wRow := i.p.wRow + (e.2 - i.p.yCol),
                                  kl := selected j.lens l.lenK (i.p.pk + 1), t := t, ct := s.channelEntry j l e.2 }
              match c.request (.sample q) with
              | some d => .next (s.setCore n d)
              | none => .next (s.bump (cluReg (n / 8) 0x40) 1)

/-! What the check engine computes of a sample (R185). -/

/-- A tile of one row of an operand, from element 0 on: its descriptor and bytes. -/
def State.oneRow (s : State) (j : Job) (l : Layer) (id row kl : Nat) (expanded : Bool) : Td × (Nat → Byte) :=
  let x := (j.tensors[id]?).getD {}
  let h := s.homeOf j l id 0
  let t := h.loose 1 (kl - 1) false
  let image := fun (cs : List (Nat × Byte)) => fun a => (Assoc.find (foldOver (fun (m : Assoc Byte) c => Assoc.insert m c.1 c.2) [] cs) a).getD 0
  let stored := image (t.stored h (s.homeByte j x) (rowsFrom row 1) 0)
  if expanded && decide (h.spf ≠ 0) then
    let d := { h with spf := 0 }.loose 1 (kl - 1) false
    (d, image (d.expand t stored))
  else (t, stored)

/-- The raw sum of one row of weights and one position, chunk by chunk: R92 to R97, or R89 in integer mode. -/
def rawOf (ks : List (ChunkCtx × CoreSt)) (ftz float : Bool) : Word :=
  if float then
    let r := foldOver (fun (a : Assoc Word × Nat × Bool) (k : ChunkCtx × CoreSt) =>
      let t := treeSum ftz 4 ((List.range k.1.slots).map (fun g => (k.1.scaleStep k.2 0 0 g).1))
      let u := cascade ftz a.2.1 a.2.2 (fun i => i) 8 0 t.1 a.1
      (u.1, nextLevels a.2.1 a.2.2)) ([], 0, false) ks
    drainElem ftz r.2.1 r.2.2 (fun i => Assoc.get 0 r.1 i)
  else foldOver (fun (a : Word) (k : ChunkCtx × CoreSt) => (intEnter a (k.1.slotValue k.2 0 0 0 0)).1) 0 ks

/-- y of a sample (R131, R185), without the outlier contribution. -/
def State.sampleY (s : State) (n : Nat) (j : Job) (l : Layer) (q : Sample) : Word :=
  let dense := !(j.sparsePath q.layer l)
  let w := s.oneRow j l l.w q.wRow q.kl dense
  let a := s.oneRow j l l.a q.aRow q.kl true
  let f : ArrayFields :=
    { tdw := 0, tda := 0, tile := 0, vw := 0, va := 0, wa := 0, ww := 0, passes := 0, g := BitVec.ofNat 2 l.g, acc := false,
      mode := BitVec.ofNat 2 l.mode, sparse := if w.1.is24 then 1 else 0 }
  let float := isFloat f
  let ftz := (s.core n).ftz
  let ks := (List.range (ceilDiv q.kl (arrSpan f))).map (fun i =>
    (({ f := f, w := w.1, a := a.1, planes := actPlanes a.1.width 0, j := i, sw := 0, sa := 0, signA := a.1.fm.signed } : ChunkCtx),
     ((({ ftz := ftz } : CoreSt).fillWeights w.1 w.2 0 i false).fillActs [a.1] a.2 0 i 0 (is24 f))))
  (rescaleElem ftz (!float) (rawOf ks ftz float) q.t q.ct).1

/-- The sample of a slot that the check engine of core `n` serves. -/
def State.sampleOn (s : State) (slot n : Nat) : Option Sample :=
  match (s.core n).checkNow with
  | some (.sample q) => if q.slot = slot then some q else none
  | _ => none

/-- DOCENT_SAMPLE_RESULT: the check engine of core `engine` of the cluster has formed the y of the sample that it serves, or, for none, a
dense run has stored the y of one; the sample counts (R185, R186). -/
def execDocentSampleResult (slot : BitVec 10) (cluster : Fin 32) (engine : Option (Fin 8)) (s : State) : Host.Outcome State Fault Refusal :=
  let k := slot.toNat
  let c := cluster.val
  match (s.docX k).rc with
  | none => .next s
  | some r =>
    match engine with
    | none => .next (s.settleSamples k (fun d => d.core / 8 == c) false)
    | some i =>
    let n := 8 * c + i.val
    match s.sampleOn k n with
    | none => .next s
    | some q =>
      let t := s.setCore n (s.core n).nextCheck
      .next (match s.job (s.core n).job.toNat with
        | some j =>
          (match j.layers[q.layer]? with
           | some l => (t.countSample k c r (s.sampleY n j l q)).tryHalt n
           | none => t.tryHalt n)
        | none => t.tryHalt n)

/-- window_close of R187. -/
def State.closeWindowOf (s : State) (k : Nat) (x : DocX) (r : DocRec) : State :=
  let w := s.rget (docentSlot k 8)
  let miss := fget w 0 32
  let samples := fget w 32 32
  let above := decide (x.limit * samples < miss * 10000)
  let high := decide (4 * x.limit * samples < miss * 10000)
  let s :=
    if samples = 0 then s
    else
      let s := if above && r.adapt then
          let tau := f32Max (f32Sub (BitVec.ofNat 32 (s.fld (docentSlot k 0) 0 32)) r.tauStep) r.tauMin
          let s := (s.setFld (docentSlot k 0) 0 32 tau.toNat).bump (foy 0x90) 1
          s.setFld (docentSlot k 0) 32 8 (min 255 (s.fld (docentSlot k 0) 32 8 + 1))
        else s
      if high then
        let s := s.jobFlags x.job flagPredMiss
        if r.adapt then s.setFld (docentSlot k 0) 40 1 1 else s
      else if above then s
      else s.setFld (docentSlot k 0) 40 1 0
  let s := (s.rput (docentSlot k 8) 0).setFld (docentSlot k 0x10) 32 8 0
  s.setDocX k { x with window := s.docWindow, limit := s.docLimit }

/-- DOCENT_WINDOW_CLOSE: the Foyer acts on a slot at the close of every WINDOW-th step (R187). -/
def execDocentWindowClose (slot : BitVec 10) (s : State) : Host.Outcome State Fault Refusal :=
  let k := slot.toNat
  let x := s.docX k
  match x.rc with
  | none => .next s
  | some r => if x.window ≤ s.fld (docentSlot k 0x10) 32 8 then .next (s.closeWindowOf k x r) else .next s

end Sys2Proof.Machine
end

