-- ==== Sys2Proof/Machine/Security.lean ====
section
/-! DEFINITION. Security (14_security R410 to R431): SPDM sessions and measurements, the key vault, attestation reports,
firmware updates and test access. -/

namespace Sys2Proof.Machine

/-! SPDM (R415, R430). -/

/-- Whether the device answers SPDM: it has its identity key, and no test mode was entered (R416, R430). -/
def State.spdm (s : State) : Bool := s.identity && decide (s.fld (foy 0x0200) 3 1 = 0)

/-- SPDM_SESSION_START: a key exchange opens a session. -/
def execSpdmSessionStart (session : Fin 4) (s : State) : Host.Outcome State Fault Refusal :=
  if s.spdm then .next { s with sessions := BitVec.ofNat 4 (bitsPut s.sessions.toNat session.val 1 1) } else .next s

/-- Word `j` of measurement `i` (R431). -/
def measReg (i j : Nat) : Nat := foy (0x0300 + 0x40 * (i - 1) + 8 * j)

def State.measBytes (s : State) (i : Nat) : List Byte := (List.range 8).flatMap (fun j => leBytes 8 (s.rget (measReg i j)).toNat)

def State.setMeas (s : State) (i : Nat) (d : BitVec 512) : State :=
  foldOver (fun (t : State) j => t.rput (measReg i j) (BitVec.ofNat 64 (bitsOf d.toNat (64 * j) 64))) s (List.range 8)

/-- The device identity signs bytes (R416). -/
def signed (l : List Byte) : List Byte := l ++ leBytes 64 (Config.sign l).toNat

/-- GET_MEASUREMENTS: the five digests, signed with the nonce. -/
def execGetMeasurements (nonce : BitVec 256) (s : State) : Host.Outcome State Fault Refusal :=
  if s.spdm then
    .next (s.give (.response 0 (signed ([1, 2, 3, 4, 5].flatMap (fun i => s.measBytes i) ++ leBytes 32 nonce.toNat))))
  else .next s

/-- CHALLENGE: the summary of the measurements, signed with the nonce. -/
def execChallenge (nonce : BitVec 256) (s : State) : Host.Outcome State Fault Refusal :=
  if s.spdm then .next (s.give (.response 0 (signed (s.measBytes 5 ++ leBytes 32 nonce.toNat)))) else .next s

/-! Requests carried by SPDM (R419 to R421). -/

/-- The response to a request: OP with bit 15 set, the status, and what follows. -/
def State.respond (s : State) (op status : Nat) (more : List Byte) : State :=
  s.give (.response (BitVec.ofNat 16 status) (leBytes 2 (op + 0x8000) ++ leBytes 2 status ++ more))

/-- Whether a request came inside an open secured session. -/
def State.inSession (s : State) (session : Fin 4) (secured : Bool) : Bool := secured && s.sessions.getLsbD session.val

/-- The status of KEY_INSTALL (R420). -/
def State.installStatus (s : State) (r : KeyReq) : Nat :=
  if r.reserved ≠ 0 ∨ r.flags.toNat / 2 ≠ 0 ∨ r.handle = 0 then 1
  else if (s.vaultKey r.handle r.domain).isSome then 2
  else if 4096 ≤ s.keys.length then 3
  else if bitsOf r.material.toNat 0 256 = bitsOf r.material.toNat 256 256 then 6
  else 0

/-- KEY_INSTALL. -/
def execKeyInstall (req : KeyReq) (session : Fin 4) (secured : Bool) (s : State) : Host.Outcome State Fault Refusal :=
  if !s.spdm then .next s
  else if !(s.inSession session secured) then .next (s.respond 1 4 [])
  else
    let st := s.installStatus req
    let k : VKey := { handle := req.handle, domain := req.domain, once := req.flags.getLsbD 0, material := req.material }
    .next ((if st = 0 then { s with keys := s.keys ++ [k] } else s).respond 1 st [])

/-- KEY_REMOVE. -/
def execKeyRemove (domain : Half) (handle : BitVec 32) (session : Fin 4) (secured : Bool) (s : State) :
    Host.Outcome State Fault Refusal :=
  if !s.spdm then .next s
  else if !(s.inSession session secured) then .next (s.respond 2 4 [])
  else if handle = 0 then .next (s.respond 2 1 [])
  else
    match s.vaultKey handle domain with
    | none => .next (s.respond 2 2 [])
    | some k => .next ({ s with keys := s.keys.erase k }.respond 2 0 [])

/-! Attestation reports (R417, R418). -/

/-- The most recent match: the job, its handle, whether it is complete, its status and code. -/
def State.reportedJob (s : State) (ring : Half) (id : DWord) : Option (Half × Job × Bool × Half × Half) :=
  let live := (s.jobs.filter (fun j => decide (j.2.ring = ring.toNat ∧ j.2.jobId = id ∧ j.2.phase ≠ .ended))).map
    (fun j => (BitVec.ofNat 16 j.1, j.2, false, (0 : Half), (0 : Half)))
  let past := (s.ended.filter (fun e => decide (e.job.ring = ring.toNat ∧ e.job.jobId = id))).map
    (fun e => (e.handle, e.job, true, e.status, e.code))
  match past ++ live with
  | [] => none
  | x :: l => some (foldOver (fun (b : Half × Job × Bool × Half × Half) c => if b.2.1.order < c.2.1.order then c else b) x l)

/-- Bytes 0 to 511 of a report. -/
def State.reportBytes (s : State) (h : Half) (j : Job) (complete : Bool) (status code : Half) (nonce : BitVec 256) : List Byte :=
  let flag := fun (b : Bool) (i : Nat) => if b then 2 ^ i else 0
  let flags := flag complete 0 + flag (decide (s.fld (foy 0x0200) 2 1 = 1)) 1 + flag (decide (s.fld 0x1000 0 1 = 1)) 2 +
    flag Config.isLD 3 + flag j.keyOnce 4
  leBytes 2 1 ++ leBytes 2 flags ++ leBytes 4 0 ++ leBytes 8 Config.serial.toNat ++ leBytes 8 j.jobId.toNat ++ leBytes 2 h.toNat ++
    leBytes 2 j.domain.toNat ++ leBytes 2 j.ring ++ leBytes 2 0 ++ leBytes 4 j.key.toNat ++ leBytes 4 j.mapped.toNat ++
    leBytes 32 nonce.toNat ++ leBytes 64 j.jdigest.toNat ++ leBytes 64 j.mdigest.toNat ++
    [1, 2, 3, 4].flatMap (fun i => s.measBytes i) ++ leBytes 4 (s.fld 0x0010 0 32) ++ leBytes 4 (s.fld (foy 0x0200) 40 8) ++
    leBytes 2 status.toNat ++ leBytes 2 code.toNat ++ leBytes 4 j.peerset.toNat ++ leBytes 4 j.epoch.toNat ++ leBytes 36 0

/-- JOB_REPORT: a signed report of a job of a ring. -/
def execJobReport (ring : Half) (jobId : BitVec 64) (reserved : BitVec 32) (nonce : BitVec 256) (session : Fin 4) (secured : Bool)
    (s : State) : Host.Outcome State Fault Refusal :=
  if !s.spdm then .next s
  else if !(s.inSession session secured) then .next (s.respond 3 4 [])
  else if reserved ≠ 0 then .next (s.respond 3 1 [])
  else
    match s.reportedJob ring jobId with
    | none => .next (s.respond 3 5 [])
    | some (h, j, c, st, code) => .next (s.respond 3 0 (signed (s.reportBytes h j c st code nonce)))

/-! Firmware updates (R412, R413). -/

/-- SEC.FWUPD_STATUS.RESULT. -/
def State.fwResult (s : State) (r : Nat) : State := s.setFld (foy 0x0218) 8 8 r

/-- The running slot: true for B. -/
def State.runningB (s : State) : Bool := decide (s.fld (foy 0x0200) 0 1 = 1)

/-- FWUPD_WRITE: the image is read under the grants of DOMAIN, checked, and written into the slot that is not running. -/
def execFwupdWrite (cmd : BitVec 64) (check : ImageCheck) (flashOk : Bool) (s : State) : Host.Outcome State Fault Refusal :=
  if !(s.hostOpen (foy 0x0210)) then .next s
  else
    let len := fget cmd 32 32
    if 2 ^ 25 < len ∨ len % 64 ≠ 0 then .next (s.fwResult 1)
    else if (s.grantGap (fget cmd 16 16) false (s.rget (foy 0x0208)).toNat len).isSome then .next (s.fwResult 4)
    else if check.fail.isSome then .next (s.fwResult 2)
    else if check.svn < s.flash.svnFused then .next (s.fwResult 3)
    else if !flashOk then .next (s.fwResult 5)
    else
      let img : Image := { svn := check.svn, version := check.version, digest := check.digest }
      let fl := if s.runningB then { s.flash with slotA := img, preferB := false } else { s.flash with slotB := img, preferB := true }
      .next ({ s with flash := { fl with trial := true, tried := false } }.fwResult 0)

/-- SVN_COMMIT: the fuses rise to the SVN of the running image, unless its slot is on trial. -/
def execSvnCommit (s : State) : Host.Outcome State Fault Refusal :=
  if !(s.hostOpen (foy 0x0210)) then .next s
  else if s.flash.trial && decide (s.runningB = s.flash.preferB) then .next (s.fwResult 6)
  else
    let run : BitVec 8 := BitVec.ofNat 8 (s.fld (foy 0x0200) 40 8)
    let s := if s.flash.svnFused < run then { s with flash := { s.flash with svnFused := run } } else s
    .next (s.fwResult 0)

/-! Test access (R427 to R430). -/

/-- The device draws SEC.TEST_NONCE. -/
def State.drawNonce (s : State) : State :=
  let n := (Config.nonce s.fresh).toNat
  ((s.rput (foy 0x0230) (BitVec.ofNat 64 (bitsOf n 0 64))).rput (foy 0x0238) (BitVec.ofNat 64 (bitsOf n 64 64))).draw

/-- SEC.TEST_STATUS.RESULT. -/
def State.testResult (s : State) (r : Nat) : State := s.setFld (foy 0x0228) 4 4 r

/-- A failed attempt. -/
def State.testFailed (s : State) (r : Nat) : State := ((s.bumpFld (foy 0x0228) 8 4 1).testResult r).drawNonce

/-- The sequence of R429: jobs end, secrets go, every SRAM is zero, the latch is set. -/
def State.enterTest (s : State) (scope : BitVec 2) : State :=
  let s := (s.setFld 0x0008 0 1 0).endAll .skip
  let s := s.dropKeys.dropMailboxes.dropSlots.dropPins
  let s := foldOver (fun (t : State) n => t.resetCore n) s (List.range 256)
  let s := foldOver (fun (t : State) c => t.setCluster c { t.cluster c with events := [], skipped := [] }) s (List.range 32)
  let s := { s with
    identity := false, sessions := 0, keySlots := [], hbm := [], sram := []
    testScope := s.testScope ||| scope, phase := .test, pins := { s.pins with testEn := true } }
  ((s.setFld (foy 0x0200) 3 1 1).testResult 1).draw

/-- A write of SEC.TEST_CMD with GO = 1. -/
def State.testCommand (s : State) (scope : BitVec 2) (testEn good : Bool) : State :=
  let s := { s with pins := { s.pins with testEn := testEn } }
  if Config.isLD = false then s.testResult 4
  else if 8 ≤ s.fld (foy 0x0228) 8 4 then s.testResult 5
  else if !testEn then s.testFailed 2
  else if !good then s.testFailed 3
  else s.enterTest scope

/-- Whether a writer reaches a register that the host writes once open, and the endpoint while powered. -/
def State.writerOpen (s : State) (w : Writer) (off : Nat) : Bool :=
  match w with
  | .host => s.hostOpen off
  | .endpoint => s.powered
  | .firmware => false

/-- TEST_GO: the host or the endpoint has the token verified. -/
def execTestGo (writer : Writer) (scope : BitVec 2) (testEn good : Bool) (s : State) : Host.Outcome State Fault Refusal :=
  .next (if s.writerOpen writer (foy 0x0220) then s.testCommand scope testEn good else s)

end Sys2Proof.Machine
end

