-- ==== Sys2Proof/Machine/Startup.lean ====
section
/-! DEFINITION. Start-up and the Profile (18_startup_defaults R498 to R509; 14_security R410, R414; 15_faults_inventory R448;
17_module R476, R478): power-up, the resets, the boot, the Profile image and its commit, READY. -/

namespace Sys2Proof.Machine

/-! The Profile image (R503 to R505). -/

/-- The `n` bytes from `lo` as a number. -/
def fieldAt (l : List Byte) (lo n : Nat) : Nat := leNat ((l.drop lo).take n)

def profileCount (l : List Byte) : Nat := fieldAt l 2 2

/-- The entries: offset, flags byte with the reserved bytes, mask, value. -/
def profileEntries (l : List Byte) : List (Nat × Nat × DWord × DWord) :=
  (List.range (profileCount l)).map (fun i =>
    (fieldAt l (64 + 24 * i) 4, fieldAt l (68 + 24 * i) 4, BitVec.ofNat 64 (fieldAt l (72 + 24 * i) 8),
     BitVec.ofNat 64 (fieldAt l (80 + 24 * i) 8)))

/-- An entry names a register with RWL fields and stays within them. -/
def entryAllowed (e : Nat × Nat × DWord × DWord) : Bool :=
  let rwl := (regInfo e.1).rwl
  decide (e.1 % 8 = 0 ∧ rwl ≠ 0 ∧ e.2.2.1 &&& ~~~rwl = 0)

/-- RESULT of PROFILE.STATUS for an image (R503, R506): its signature's verification is given, and the SEQ of the stored
Profile where a commit must exceed it. -/
def profileResult (l : List Byte) (sigOk owner : Bool) (stored : Option Nat) : Nat :=
  let es := profileEntries l
  if l.length < 128 ∨ fieldAt l 0 2 ≠ 1 ∨ 1024 < profileCount l ∨ l.length ≠ 128 + 24 * profileCount l ∨ fieldAt l 16 48 ≠ 0 ∨
      (es.any (fun e => decide (1 < e.2.1))) = true then 1
  else if !owner || !sigOk then 2
  else if fieldAt l 8 8 ≠ 0 ∧ fieldAt l 8 8 ≠ Config.serial.toNat then 3
  else if (match stored with | some q => decide (fieldAt l 4 4 ≤ q) | none => false) = true then 4
  else if es.all entryAllowed then 0 else 5

/-- Applies one entry: the register's own rules hold (R138, R495, R505); LOCK locks the fields that the mask touches. -/
def State.applyEntry (s : State) (e : Nat × Nat × DWord × DWord) : State :=
  let r := regMerge e.1 (s.rget e.1) e.2.2.2 e.2.2.1
  let rec_ := fun (t : State) => t.post 0x1050 0 0 0 [BitVec.ofNat 64 e.1, e.2.2.2]
  let s :=
    if e.1 = vbReg 0x20 then
      let h := min 8192 (max 1 (fget r.1 0 14))
      let l := fget r.1 16 14
      if h ≤ l then rec_ s else s.rput e.1 (BitVec.ofNat 64 (h + l * 2 ^ 16))
    else if r.2 then rec_ (s.rput e.1 r.1) else s.rput e.1 r.1
  if e.2.1 % 2 = 1 then
    { s with locks := Assoc.put 0 s.locks e.1 (Assoc.get 0 s.locks e.1 ||| touchedFields e.1 e.2.2.1) }
  else s

/-- Layers 2 and 3 (R501): the factory defaults, then the stored Profile where it passes; one that fails is recorded. -/
def State.applyLayers (s : State) (sigOk : Bool) : State :=
  let s := foldOver (fun (t : State) (f : Nat × Nat × Nat × Nat) => t.setFld f.1 f.2.1 f.2.2.1 f.2.2.2) s factoryDefaults
  let l := s.flash.profile
  let s :=
    if l.isEmpty then s
    else
      let r := profileResult l sigOk s.flash.ownerKey none
      if r = 0 then
        ((foldOver (fun (t : State) e => t.applyEntry e) s (profileEntries l)).setFld (foy 0x0200) 2 1 1).setFld (foy 0x0808) 9 1 1
      else s.post 0x10F0 0 0 0 [2, BitVec.ofNat 64 r]
  { s with profiled := s.reg.filter (fun e => decide ((regInfo e.1).mask ≠ 0)), defaultsOn := true }

/-- The staging window's bytes: as many as the staged header says (R504, R509). -/
def State.stagedImage (s : State) : List Byte :=
  let head := leBytes 8 (Assoc.get 0 s.staging 0).toNat
  let n := 128 + 24 * min 1025 (profileCount head)
  ((List.range (ceilDiv n 8)).flatMap (fun i => leBytes 8 (Assoc.get 0 s.staging i).toNat)).take n

/-- COMMIT (R506): the checks of R503 and the SEQ rule; then the image goes to flash and becomes current. -/
def State.commitProfile (s : State) (sigOk flashOk : Bool) : State :=
  let l := s.stagedImage
  let r := profileResult l sigOk s.flash.ownerKey (if s.flash.profile.isEmpty then none else some s.flash.profileSeq.toNat)
  let r := if r = 0 ∧ flashOk = false then 6 else r
  let s := if r = 0 then
      { s with flash := { s.flash with profile := l, profileSeq := BitVec.ofNat 32 (fieldAt l 4 4) } }
    else s
  s.setFld (foy 0x0808) 4 4 r

/-- PROFILE_COMMIT: the host or the endpoint commits the staged Profile; of two in one HCLK the host's takes effect (R506). -/
def execProfileCommit (writer : Writer) (sigOk flashOk : Bool) (s : State) : Host.Outcome State Fault Refusal :=
  let off := foy 0x0800
  .next (if s.writerOpen writer off && decide (s.claimed off writer = 0) then
      (s.claim off 3 writer).commitProfile sigOk flashOk else s)

/-! Power-up and the resets (R470, R476, R478, R498, R500). -/

/-- What every reset of the package leaves: flash, the test latch and its scopes, the input stage, the tray's pins, and the pages
retired since the last power cycle (R234). -/
def State.packageReset (s : State) : State :=
  let t := { s.powerOff with
    hclk := s.hclk
    testScope := s.testScope
    pages := (List.filter (fun (e : Nat × Page) => e.2.retired) s.pages).map (fun (e : Nat × Page) => (e.1, { retired := true }))
    pins := { s.powerOff.pins with pwrGood := true }
    phase := .powered }
  (t.setFld (foy 0x0200) 3 1 (s.fld (foy 0x0200) 3 1)).setFld (foy 0x0728) 0 4 s.latchCause.toNat

/-- Only a power cycle leaves the safe state (R449). -/
def State.staySafe (s : State) (was : Phase) : State := if was = .safe then s.safeState.holdLinks else s

/-- POWER_UP: the input is in range and PWR_EN is high; the regulators sequence and PWR_GOOD rises, which samples MOD_ADDR. A
latched input stage stays off; a cause of a turn-off is read and recorded. -/
def execPowerUp (modAddr : BitVec 3) (s : State) : Host.Outcome State Fault Refusal :=
  if s.phase ≠ .off ∨ s.latched = true then .next s
  else
    let s := { s with
      phase := .powered, latchNews := false
      pins := { s.pins with pwrEn := true, pwrGood := true, modAddr := modAddr } }.inputCause s.latchCause
      |> fun t => if s.latchNews then t.postFault codePowerInput 7 0 0 0 0 (s.latchCause.setWidth 16) 0 [] else t
    .next s

/-- POWER_LOSS: PWR_EN falls or the input is lost: every job is lost without a record, and a latch ends. -/
def execPowerLoss (s : State) : Host.Outcome State Fault Refusal :=
  .next { s.powerOff with latched := false, pins := { s.powerOff.pins with pwrEn := false } }

/-- MOD_RESET: MOD_RESET_N has been low for 10 µs: the package restarts from the end of regulator sequencing. -/
def execModReset (s : State) : Host.Outcome State Fault Refusal :=
  .next (if s.powered then s.packageReset.staySafe s.phase else s)

/-- What PERST keeps besides: the Visitor Book with its pointers and counters, and MGMT.TIME (R494, R500). -/
def State.keepBook (t s : State) : State :=
  let t := { t with vbWait := s.vbWait, vb := s.vb, vbLast := s.vbLast, vbSource := s.vbSource, ppsAt := s.ppsAt
                    pins := { t.pins with vbAttnN := s.pins.vbAttnN } }
  let t := foldOver (fun (u : State) o => u.rput o (s.rget o)) t [vbReg 0x08, vbReg 0x10, vbReg 0x28, vbReg 0x30, foy 0x0708]
  t.vbAttention

/-- PERST: PERST_N low, or a conventional reset: the device restarts from tp. -/
def execPerst (s : State) : Host.Outcome State Fault Refusal :=
  .next (if s.powered then (s.packageReset.keepBook s).staySafe s.phase else s)

/-! The boot (R410, R414, R448, R498). -/

/-- The device stays in reset-hold (R410, R448, R501). -/
def State.bootFailed (s : State) : State :=
  { s.setFld 0x0008 1 1 1 with phase := .bootFail, pins := { s.pins with faultN := false } }

/-- The first check of R410 that a slot's image fails, if any. -/
def imageFault (fail : Option (Fin 3)) (img : Image) (fused : BitVec 8) : Option Nat :=
  match fail with
  | some k => some (k.val + 1)
  | none => if img.svn < fused then some 4 else none

/-- A slot's failed check (R410). -/
def State.slotEvent (s : State) (b : Bool) (check : Nat) : State := s.post 0x10F0 0 0 0 [if b then 1 else 0, BitVec.ofNat 64 check]

/-- The image of a slot runs: SEC.STATUS, HOST.FWVER and the measurements (R414). -/
def State.bootImage (s : State) (b fallback : Bool) : State :=
  let img := if b then s.flash.slotB else s.flash.slotA
  let n := fun (x : Bool) => if x then 1 else 0
  let s := ((s.setFld (foy 0x0200) 0 1 (n b)).setFld (foy 0x0200) 1 1 (n fallback)).setFld (foy 0x0200) 40 8 img.svn.toNat
  let s := s.rput 0x0010 (BitVec.ofNat 64 (img.version.toNat + n b * 2 ^ 32))
  let s := ((s.setMeas 1 Config.romDigest).setMeas 2 img.digest).setMeas 3 Config.factoryDigest
  let s := s.setMeas 4 (Config.sha512 s.flash.profile)
  s.setMeas 5 (Config.sha512 ([1, 2, 3, 4].flatMap (fun i => s.measBytes i)))

/-- The retirement list is applied (R234, R243, R452). -/
def State.applyRetired (s : State) : State :=
  let ps := s.flash.retired
  let s := foldOver (fun (t : State) p => t.setPage p { t.page p with retired := true }) s ps
  let inHall := fun (h : Nat) => (ps.filter (fun p => hbmHall (p * 2 ^ 21) == h)).length
  let s := foldOver (fun (t : State) h => t.setFld (hallMem h 0x020) 0 13 (inHall h)) s [0, 1, 2, 3]
  let s := s.setFld (foy 0x00C0) 0 13 ps.length
  let full := decide (4096 ≤ ps.length)
  let s := s.setFld (foy 0x00C0) 16 1 (if full then 1 else 0)
  if full || [0, 1, 2, 3].any (fun h => decide (512 ≤ inHall h)) then
    ((s.setFld (foy 0x00C0) 17 1 1).setFld (foy 0x0500) 3 1 1).replaceMe
  else s

/-- The firmware's own regions: 4 MiB of each Gallery and 64 KiB of each Salon (R209, R235, R324). -/
def State.firmwareRegions (s : State) : State :=
  let s := foldOver (fun (t : State) h => t.setRegion (256 + h) 0 { valid := true, owner := 2, base := 0, len := 0x400000 }) s [0, 1, 2, 3]
  foldOver (fun (t : State) n => t.setRegion n 0 { valid := true, owner := 2, base := 0x3F0000, len := 0x10000 }) s (List.range 256)

/-- The sources of R454 are locked, and PCIe has trained (R344, R471). -/
def State.bootClocks (s : State) : State :=
  let s := ((s.setFld (foy 0x0600) 2 1 1).setFld (foy 0x0600) 3 1 1).setFld (foy 0x0600) 4 8 0xFF
  (s.setFld 0x0008 8 5 Config.pcieWidth.toNat).setFld 0x0008 16 4 Config.pcieRate.toNat

/-- The cluster among whose slices a target's is (R14, R444): that of a core, an engine's core or a cluster target. -/
def targetCluster (t : Nat) : Option Nat :=
  match targetScope t with
  | some (.core n) => some (n.val / 8)
  | some (.cluster c) => some c.val
  | _ => none

/-- The boot Inventory (R448): every target runs once; INSERVICE shows the clusters whose slices have passed (R14); a failure keeps
the device in reset-hold. -/
def State.bootInventory (s : State) (fails : List (BitVec 11 × Word)) : State :=
  let s := { s with invStart := s.hclk }.bump (foy 0x0580) 1045
  let s := foldOver (fun (t : State) f => t.latchFail f.1.toNat (f.2.setWidth 64)) s fails
  let s := foldOver (fun (t : State) c => setService t c (fails.all (fun f => targetCluster f.1.toNat != some c))) s (List.range 32)
  if fails.isEmpty then
    let s := s.setFld (foy 0x0570) 32 1 1
    let s := foldOver (fun (t : State) c => t.setCluster c { t.cluster c with startup := false }) s (List.range 32)
    { s with phase := .booting }.updateLinks
  else s.bootFailed

/-- From the verified image on: settings, retirement list, identity, firmware key, boot Inventory. -/
def State.bootRest (s : State) (profileOk : Bool) (fails : List (BitVec 11 × Word)) : State :=
  let s := (s.applyLayers profileOk).applyRetired
  let s := { s with identity := decide (s.fld (foy 0x0200) 3 1 = 0) }
  let s := { s with keySlots := [(0, 0xFFFF#16), (64, 0xFFFF#16), (128, 0xFFFF#16), (192, 0xFFFF#16)] }
  (s.drawNonce.firmwareRegions).bootInventory fails

/-- The flash's trial state at a boot (R412): the trial slot gets one boot; after it the other slot is preferred. -/
def Flash.atBoot (f : Flash) : Flash :=
  if f.trial then
    if f.tried then { f with preferB := !f.preferB, trial := false, tried := false } else { f with tried := true }
  else f

/-- BOOT_START: at tp the boot ROM checks the image slots, applies the settings, and runs the boot Inventory. -/
def execBootStart (slotA slotB : Option (Fin 3)) (factoryOk profileOk : Bool) (fails : List (BitVec 11 × BitVec 32)) (s : State) :
    Host.Outcome State Fault Refusal :=
  if s.phase ≠ .powered then .next s
  else
    let s := { s with flash := s.flash.atBoot }.bootClocks
    let check := fun (b : Bool) =>
      imageFault (if b then slotB else slotA) (if b then s.flash.slotB else s.flash.slotA) s.flash.svnFused
    let first := s.flash.preferB
    let go := fun (t : State) (b fallback : Bool) =>
      let t := t.bootImage b fallback
      if factoryOk then t.bootRest profileOk fails else t.bootFailed
    match check first with
    | none => .next (go s first false)
    | some c =>
      let s := s.slotEvent first c
      match check (!first) with
      | none => .next (go s (!first) true)
      | some d => .next (s.slotEvent (!first) d).bootFailed

/-- READY: start-up completes; a trial slot that ran leaves trial; test mode and a device recovery hold READY at 0 (R412, R430,
R438, R498). -/
def execReady (s : State) : Host.Outcome State Fault Refusal :=
  if s.phase ≠ .booting ∨ s.fld (foy 0x0200) 3 1 = 1 ∨
      s.recoveries.any (fun (r : Recovery) => decide (r.scope = .device)) = true then .next s
  else
    let fl := s.flash
    let s := if fl.trial && decide (s.runningB = fl.preferB) then { s with flash := { fl with trial := false, tried := false } } else s
    let s := { s with phase := .service, pins := { s.pins with faultN := true } }
    .next ((s.setFld 0x0008 0 1 1).event 0)

end Sys2Proof.Machine
end

