-- ==== Sys2Proof/Machine/Registers.lean ====
section
/-! DEFINITION. Reads and writes of BAR0 registers (00_scope R6 to R9; 12_host_interface R341 to R361; 13_tabey_links R380, R397, R405,
R406, R408; 14_security R431; 17_module R495, R496; 18_startup_defaults R505, R509): the views that other fields give, and what
a write of each kind of register does. -/

namespace Sys2Proof.Machine

/-! Views. -/

def b2n (b : Bool) : Nat := if b then 1 else 0

/-- A region-table entry as 256 bits (R221). -/
def Region.bits (r : Region) : Nat :=
  b2n r.valid + b2n r.circ * 2 + b2n r.clsW * 4 + b2n r.quar * 8 + r.slot % 16 * 2 ^ 4 + r.owner % 4 * 2 ^ 8 + r.job.toNat * 2 ^ 16 +
    r.base % 2 ^ 32 * 2 ^ 32 + r.len % 2 ^ 32 * 2 ^ 64 + r.head.toNat * 2 ^ 96 + r.tail.toNat * 2 ^ 128

/-- A window-table entry as 256 bits (R311, R408). -/
def Window.bits (w : Window) : Nat :=
  w.base % 2 ^ 48 + w.len % 2 ^ 40 * 2 ^ 48 + w.rights.toNat * 2 ^ 88 + b2n w.clsW * 2 ^ 91 + w.spf % 16 * 2 ^ 92 + w.fmt % 64 * 2 ^ 96 +
    b2n w.isOpen * 2 ^ 102 + b2n w.isStatic * 2 ^ 103 + w.number % 1024 * 2 ^ 104 + w.gen % 16 * 2 ^ 114 + w.job.toNat * 2 ^ 118 +
    w.epoch.toNat * 2 ^ 134 + w.peerset.toNat * 2 ^ 166 + w.refused.toNat * 2 ^ 198

/-- Word `j` of a 256-bit entry. -/
def wordView (v j : Nat) : DWord := BitVec.ofNat 64 (bitsOf v (64 * j) 64)

/-- STATE of CORE.CALLER_STATE (R273). -/
def State.callerState (s : State) (n : Nat) : Nat :=
  let c := s.core n
  if coreFenced s n then 4 else if c.halting then 3 else if !c.running then 0 else if c.waits.isEmpty then 1 else 2

/-- The core registers that are views: FLOOR (R82), ACM_BUSY (R108), CALLER_STATE (R273). -/
def State.coreView (s : State) (n off : Nat) : DWord :=
  let c := s.core n
  match off with
  | 0x0C0 => fput (s.rget (coreReg n off)) 8 6 (fusedFloor (s.fld (foy 0x0600) 0 2))
  | 0x0D0 => BitVec.ofNat 64 (foldOver (fun (u : Word) (q : QEntry) => if q.issued then u ||| q.units else u) 0 c.queue).toNat
  | 0x160 => BitVec.ofNat 64 (c.pc.toNat + s.callerState n * 2 ^ 16 + c.job.toNat * 2 ^ 32)
  | _ => s.rget (coreReg n off)

/-- HALL.SCRUB (R245). -/
def State.scrubView (s : State) (h : Nat) : DWord :=
  match (s.hall h).scrub with
  | [] => 0
  | e :: t => BitVec.ofNat 64 (1 + e.1.toNat % 2 ^ 15 * 2 + (foldOver (fun n x => n + x.2) e.2 t) % 2 ^ 32 * 2 ^ 16)

/-- A word of the Hall register block of Hall `h`. -/
def State.hallView (s : State) (h o : Nat) : DWord :=
  if 0x80000 ≤ o ∧ o < 0x82000 ∧ o % 0x400 = 0 then
    let f := s.frozen (8 * h + (o - 0x80000) / 0x400)
    BitVec.ofNat 64 (b2n (decide (f ≠ 0)) + f * 2)
  else if 0x100000 ≤ o ∧ o < 0x110000 then s.coreView (64 * h + (o - 0x100000) / 0x400) (o % 0x400)
  else if o = 0x3038 then s.scrubView h
  else if 0x200000 ≤ o ∧ o < 0x208000 then wordView (s.regionAt (256 + h) ((o - 0x200000) / 32)).bits (o % 32 / 8)
  else if 0x300000 ≤ o ∧ o < 0x380000 then
    wordView (s.regionAt (64 * h + (o - 0x300000) / 0x2000) ((o - 0x300000) % 0x2000 / 32)).bits (o % 32 / 8)
  else if 0x380000 ≤ o ∧ o < 0x388000 then wordView (Assoc.get {} (s.hall h).windows ((o - 0x380000) / 32)).bits (o % 32 / 8)
  else s.rget (hallBlock h + o)

/-- INV.STAT: the lowest target now due, how many are past their time, and whether the boot Inventory passed (R452). -/
def State.invView (s : State) : DWord :=
  let late := if s.fld (foy 0x0570) 32 1 = 1 then (List.range 1045).filter (fun t => s.due t) else []
  BitVec.ofNat 64 (late.headD 0 + late.length * 2 ^ 16 + s.fld (foy 0x0570) 32 1 * 2 ^ 32)

/-- A word of the Foyer register block, from its offset in the block. -/
def State.foyerView (s : State) (o : Nat) : DWord :=
  let r := (s.rget (foy o)).toNat
  let fl := s.flash
  if 0x0240 ≤ o ∧ o < 0x0280 then 0
  else if 0x180000 ≤ o ∧ o < 0x190000 ∧ o % 16 = 0 then
    fput (s.rget (foy o)) 32 3 (match s.route ((o - 0x180000) / 16) 0 with | some (k, _) => k | none => 7)
  else if 0x200000 ≤ o ∧ o < 0x210000 then Assoc.get 0 s.staging ((o - 0x200000) / 8)
  else
    match o with
    | 0x0000 => BitVec.ofNat 64 (0x4 + 0x8 * 2 ^ 4 + 0x8 * 2 ^ 8 + 0x10 * 2 ^ 12 + 0x8 * 2 ^ 20 + 0x20 * 2 ^ 24 + 0x60 * 2 ^ 32)
    | 0x0050 => BitVec.ofNat 64 (fusedFloor 0 + fusedFloor 1 * 2 ^ 8 + fusedFloor 2 * 2 ^ 16 + fusedFloor 3 * 2 ^ 24)
    | 0x0200 => BitVec.ofNat 64 (r + b2n (!Config.isLD) * 2 ^ 4 + Config.romVersion.toNat * 2 ^ 8 + s.keys.length % 2 ^ 16 * 2 ^ 16 +
        fl.svnFused.toNat * 2 ^ 32)
    | 0x0218 => BitVec.ofNat 64 (r + b2n fl.trial * 2 + b2n fl.preferB * 4)
    | 0x0570 => s.invView
    | 0x0618 => BitVec.ofNat 64 (Config.sustainedW.toNat + Config.transientW.toNat * 2 ^ 16 + Config.currentA.toNat * 2 ^ 32)
    | 0x0620 => fput (s.rget (foy o)) 48 2 s.powerState
    | 0x0700 => BitVec.ofNat 64 (r + 0x40 + s.pins.modAddr.toNat)
    | 0x0808 => BitVec.ofNat 64 (r + b2n (!fl.profile.isEmpty) * 2 ^ 8 + b2n fl.ownerKey * 2 ^ 10 + fl.profileSeq.toNat * 2 ^ 16)
    | _ => BitVec.ofNat 64 r

/-- The 64-bit word at a BAR0 offset that is a multiple of 8; VB.DATA is read by `vbRead`. -/
def State.regView (s : State) (off : Nat) : DWord :=
  if off = 0 then BitVec.ofNat 64 (0x1FE7 + (if Config.isLD then 0x0A05 else 0x0A04) * 2 ^ 16 + Config.rev.toNat * 2 ^ 32)
  else if off = 0x18 then Config.serial
  else if 0x01000000 ≤ off ∧ off < 0x02000000 then s.hallView ((off - 0x01000000) / 0x400000) (off % 0x400000)
  else if 0x02000000 ≤ off then s.foyerView (off - 0x02000000)
  else s.rget off

/-! Writes. -/

/-- The bits that a write of `size` bytes at `off` names, in the 64-bit word that holds it (R342). -/
def writeMask (off size : Nat) : DWord :=
  if size = 8 then BitVec.allOnes 64 else if off % 8 = 0 then 0x00000000FFFFFFFF#64 else 0xFFFFFFFF00000000#64

/-- Whether only the PCIe function writes at an offset (R343, R405, R406, R431). -/
def pcieOnly (off : Nat) : Bool :=
  (regInfo off).pcie || decide (0x1000 ≤ off ∧ off < 0x2000) || decide (0x100000 ≤ off ∧ off < 0x400000)

/-- The registers that the management endpoint may write (R484, R506). -/
def endpointMay (off : Nat) : Bool :=
  [0x00400018, 0x00400020, 0x00400028, 0x00400038, 0x02000220, 0x02000710, 0x02000720, 0x02000738, 0x02000800].contains off ||
    decide (0x02000240 ≤ off ∧ off < 0x02000280) || decide (0x02200000 ≤ off ∧ off < 0x02210000)

/-- Whether the endpoint writes there now: RWL fields only once layers 2 and 3 have been applied (R502). -/
def State.endpointOpen (s : State) (off : Nat) : Bool :=
  s.powered && endpointMay off && (s.defaultsOn || decide ((regInfo off).rwl = 0))

/-- A write to a register without behaviour of its own (R8, R505): locked fields keep their value and the write is recorded;
a NaN for HEADROOM is recorded too (R138). -/
def State.plainWrite (s : State) (off : Nat) (v wm : DWord) : State :=
  let i := regInfo off
  let lock := Assoc.get 0 s.locks off &&& i.rwl
  let r := regMerge off (s.rget off) v (i.mask &&& ~~~lock &&& wm)
  let s := s.rput off (r.1 &&& ~~~(v &&& i.w1c &&& wm))
  if r.2 || decide (lock &&& wm ≠ 0) then s.post 0x1050 0 0 0 [BitVec.ofNat 64 off, v] else s

/-- A doorbell page (R353): pointers by 4 or 8 bytes at offset 0, kills by 8 bytes at offset 8. -/
def State.doorbellWrite (s : State) (off : Nat) (v : DWord) (size : Nat) : State :=
  let r := (off - 0x200000) / 0x40
  if s.doorbellOpen r then
    match off % 0x40 with
    | 0 => s.doorbell r (v.setWidth 32)
    | 8 => if size = 8 then s.kill r v else s
    | _ => s
  else s

/-- A ring's configuration (R347, R348). -/
def State.ringWrite (s : State) (off : Nat) (v wm : DWord) : State :=
  let r := (off - 0x100000) / 0x40
  let on := decide (s.fld (ringReg r 0x08) 0 1 = 1)
  match off % 0x40 with
  | 0x00 => if on then s else s.plainWrite off v wm
  | 0x08 =>
    let w := (v &&& wm) ||| (s.rget off &&& ~~~wm)
    if fget wm 0 1 = 0 then (if on then s else s.plainWrite off v wm)
    else if fget v 0 1 = 1 then s.ringOn r w else s.ringOff r w
  | _ => s.plainWrite off v wm

/-- The word of a peer-set entry that holds ID and VALID: a write with VALID = 1 clears LAST_EPOCH (R397). -/
def State.peerWrite (s : State) (off : Nat) (v wm : DWord) : State :=
  let s := s.plainWrite off v wm
  if off % 0x400 = 0 ∧ fget (v &&& wm) 32 1 = 1 then s.setFld (off + 8) 0 32 0 else s

/-- A write of the bits `wm` of the 64-bit word at `at_`; `off` and `size` are those of the access. -/
def State.wordWrite (s : State) (off at_ : Nat) (v wm : DWord) (size : Nat) : State :=
  let w := v &&& wm
  if 0x200000 ≤ off ∧ off < 0x300000 then s.doorbellWrite off v size
  else if 0x100000 ≤ off ∧ off < 0x200000 then s.ringWrite at_ v wm
  else if 0x02100000 ≤ off ∧ off < 0x02140000 then
    (if at_ % 0x40 = 0x30 then s.pinSet at_ (w ||| (s.rget at_ &&& ~~~wm)) else s)
  else if 0x02190000 ≤ off ∧ off < 0x021A0000 then s.peerWrite at_ v wm
  else if 0x02200000 ≤ off ∧ off < 0x02210000 then
    let k := (at_ - 0x02200000) / 8
    { s with staging := Assoc.put 0 s.staging k (w ||| (Assoc.get 0 s.staging k &&& ~~~wm)) }
  else if 0x02000240 ≤ off ∧ off < 0x02000280 then s.rput at_ (w ||| (s.rget at_ &&& ~~~wm))
  else
    match at_ with
    | 0x00001010 => s.mbxCommand w
    | 0x00400018 => if fget w 0 1 = 1 then s.vbDrop else s
    | 0x00400020 => s.vbWm v wm
    | 0x02000210 => if fget wm 0 1 = 1 ∧ (fget w 0 2 = 0 ∨ fget w 0 2 = 3) then s.fwResult 1 else s
    | 0x02000710 => if fget wm 0 1 = 1 then s.timeWrite (w.setWidth 32) else s
    | 0x02000108 => (s.plainWrite at_ v wm).updateLinks
    | 0x02000720 => (s.plainWrite at_ v wm).alertPin
    | 0x02000738 => (s.plainWrite at_ v wm).coolAlerts
    | _ => s.plainWrite at_ v wm

/-- A write of `size` bytes at `off`, `v` being the 64-bit word with the written half in its place. The bits that a writer of a
higher rank has written in this HCLK stay (R9, R484). -/
def State.regWrite (s : State) (off : Nat) (v : DWord) (size : Nat) (w : Writer) : State :=
  let at_ := off / 8 * 8
  let m := writeMask off size &&& ~~~(s.claimed at_ w &&& ~~~(regInfo at_).w1c)
  if m = 0 then s else (s.wordWrite off at_ v m size).claim at_ (writeMask off size) w

/-- A write of BAR4 (R341, R365): the MSI-X table takes it; a vector that is no longer masked sends its pending interrupt. The
pending bits are read only. -/
def State.msixWrite (s : State) (off : Nat) (v : DWord) (size : Nat) : State :=
  if 0x8000 ≤ off then s
  else
    let k := off / 8
    let wm := writeMask off size
    let w := (v &&& wm) ||| (Assoc.get 0 s.msixTable k &&& ~~~wm)
    let s := { s with msixTable := Assoc.put 0 s.msixTable k w }
    let n := k / 2
    let pend := Assoc.get 0 s.msixTable (4096 + n / 64)
    if k % 2 = 1 ∧ fget w 32 1 = 0 ∧ fget pend (n % 64) 1 = 1 then
      { s with msixTable := Assoc.put 0 s.msixTable (4096 + n / 64) (fput pend (n % 64) 1 0) }.give (.msix n)
    else s

/-- A write of configuration space (R339, R341, R342, R368): the sizes that the function supports, and a BAR2 of 4 MiB to
1 GiB. -/
def State.cfgWrite (s : State) (w : CfgWrite) : State :=
  match w with
  | .deviceControl relaxed ido mps mrrs =>
    { s with cfg := { s.cfg with relaxed := relaxed, ido := ido,
                                 mps := if mps.toNat ≤ 2 then mps else s.cfg.mps, mrrs := if mrrs.toNat ≤ 5 then mrrs else s.cfg.mrrs } }
  | .bar2Size k => if 22 ≤ k ∧ k ≤ 30 then { s with bar2Size := 2 ^ k } else s
  | .aerClear => { s with cfg := { s.cfg with aerUr := false } }
  | .ideBar i bar base len =>
    if i.val = 0 ∨ (bar ≠ 0 ∧ bar ≠ 2 ∧ bar ≠ 4) then s
    else { s with cfg := { s.cfg with ideBars := s.cfg.ideBars.filter (fun e => !(decide (e.1 = i.val ∧ e.2.1 = bar))) ++
                                        (if len = 0 then [] else [(i.val, bar, base, len)]) } }
  | .ideHost i base len =>
    if i.val = 0 then s
    else { s with cfg := { s.cfg with ideHost := s.cfg.ideHost.filter (fun e => e.1 != i.val) ++
                                        (if len = 0 then [] else [(i.val, base, len)]) } }

/-- What a host read of 4 or 8 bytes of BAR0 returns where the register has no behaviour of its own: the value of R8, 0 until READY
beyond the identity and status block (R346), and for an access that no secure stream carried (R369); Unsupported Request off the
natural alignment (R342). -/
def State.hostRead (s : State) (off size : Nat) : Out :=
  if (size ≠ 4 ∧ size ≠ 8) ∨ off % size ≠ 0 ∨ 2 ^ 26 < off + size then .unsupported
  else if s.hostOpen off then .data (((leBytes 8 (s.regView (off / 8 * 8)).toNat).drop (off % 8)).take size)
  else .data (leBytes size 0)

/-- What a host read of BAR4 returns: the MSI-X table and the pending bits (R341). -/
def State.msixRead (s : State) (off : Nat) : DWord :=
  Assoc.get 0 s.msixTable (if off < 0x8000 then off / 8 else 4096 + (off - 0x8000) / 8)

/-- GRANT_SYNC_READ: every host-memory request before it has completed, for the model performs each as it issues it (R355). -/
def execGrantSyncRead (s : State) : Host.Outcome State Fault Refusal := .next (s.give (s.hostRead 0x1008 8))

/-- REGISTER_WRITE: a write of BAR0 by a writer: the host through PCIe, the endpoint where it may, firmware where no rule bars
it; or of BAR4 or configuration space by the host, which waits while an FLR is in progress (R8, R9, R341 to R343, R346, R367,
R484). -/
def execRegisterWrite (at_ : RegSpace) (value : BitVec 64) (size : Nat) (writer : Writer) (s : State) :
    Host.Outcome State Fault Refusal :=
  let v := fun (off : Nat) => if off % 8 = 4 then value <<< (32 : Nat) else value
  let odd := fun (off : Nat) => decide ((size ≠ 4 ∧ size ≠ 8) ∨ off % size ≠ 0)
  match at_, writer with
  | .config w, .host => .next (if s.fld 0x0008 4 1 = 1 then s.give .retry else s.cfgWrite w)
  | .bar4 off, .host =>
    if odd off ∨ 2 ^ 16 < off + size then .next s.giveUnsupported
    else .next (if s.carried 4 off then s.msixWrite off (v off) size else s)
  | .bar0 off, .host =>
    if odd off ∨ 2 ^ 26 < off + size then .next s.giveUnsupported
    else .next (if s.hostOpen off then s.regWrite off (v off) size .host else s)
  | .bar0 off, .endpoint =>
    .next (if !(odd off) && decide (off + size ≤ 2 ^ 26) && s.endpointOpen (off / 8 * 8) then s.regWrite off (v off) size .endpoint else s)
  | .bar0 off, .firmware =>
    .next (if !(odd off) && decide (off + size ≤ 2 ^ 26) && decide (s.phase = .service ∨ s.phase = .booting) && !(pcieOnly (off / 8 * 8)) then
      s.regWrite off (v off) size .firmware else s)
  | _, _ => .next s

end Sys2Proof.Machine
end

