-- ==== Sys2Proof/Machine/Endpoint.lean ====
section
/-! DEFINITION. The management endpoint (17_module R483, R484; 18_startup_defaults R502, R506): the transfers of MGMT_ACCESS. -/

namespace Sys2Proof.Machine

/-- CRC-8 with polynomial 0x07 and initial value 0 (R483): one byte of eight steps. -/
def crcByte (c : Nat) : Nat → Nat
  | 0 => c
  | n + 1 => crcByte (if 128 ≤ c then (2 * c % 256) ^^^ 0x07 else 2 * c) n

def crc8 (l : List Byte) : Byte := BitVec.ofNat 8 (foldOver (fun c (b : Byte) => crcByte (c ^^^ b.toNat) 8) 0 l)

/-- The read transfer: STATUS, data, CRC-8. -/
def State.mgmtReply (s : State) (status : Nat) (data : List Byte) : State :=
  let l := BitVec.ofNat 8 status :: data
  s.give (.data (l ++ [crc8 l]))

/-- The areas that the endpoint reads (R484). -/
def endpointReads (off : Nat) : Bool :=
  decide (off < 0x1000) || decide (0x00400000 ≤ off ∧ off < 0x04000000)

/-- One word read, a read of VB.DATA being a consumer's (R483, R492). -/
def State.mgmtRead (s : State) (off : Nat) : State × List Byte :=
  if off = vbReg 0 then
    let r := s.vbRead
    (r.1, leBytes 8 r.2.toNat)
  else (s, leBytes 8 (s.regView off).toNat)

/-- One word written: the commands of the test port and the Profile are taken here (R428, R506). -/
def State.mgmtWrite (s : State) (off : Nat) (v : DWord) (sigOk testEn flashOk : Bool) : State :=
  if off = foy 0x0220 then (if fget v 8 1 = 1 then s.testCommand (BitVec.ofNat 2 (fget v 0 2)) testEn sigOk else s)
  else if off = foy 0x0800 then (if fget v 0 2 = 1 then s.commitProfile sigOk flashOk else s)
  else s.regWrite off v 8 .endpoint

/-- MGMT_ACCESS: a write transfer with its bytes as sent, and the read transfer that answers it; with no power nothing answers.
`sigOk` is what a signature check that the access starts finds. -/
def execMgmtAccess (bytes : List Byte) (sigOk testEn flashOk : Bool) (s : State) : Host.Outcome State Fault Refusal :=
  if !s.powered then .next (s.give .nakTransfer)
  else
    let body := bytes.dropLast
    let op := fieldAt bytes 0 1
    let off := fieldAt bytes 1 4
    let n := fieldAt bytes 5 1
    let words := (List.range n).map (fun i => off + 8 * i)
    if bytes.length < 7 ∨ bytes.getLast? ≠ some (crc8 body) ∨ n = 0 ∨ 16 < n ∨ (op ≠ 1 ∧ op ≠ 2) ∨
        bytes.length ≠ (if op = 1 then 7 else 7 + 8 * n) then .next (s.mgmtReply 1 [])
    else if off % 8 ≠ 0 then .next (s.mgmtReply 2 [])
    else if op = 1 then
      if words.all endpointReads then
        let r := foldOver (fun (a : State × List Byte) o => let q := a.1.mgmtRead o; (q.1, a.2 ++ q.2)) (s, []) words
        .next (r.1.mgmtReply 0 r.2)
      else .next (s.mgmtReply 2 [])
    else if !(words.all endpointReads) then .next (s.mgmtReply 2 [])
    else if !(words.all (fun o => s.endpointOpen o)) then .next (s.mgmtReply 3 [])
    else
      let t := foldOver (fun (u : State) i =>
        u.mgmtWrite (off + 8 * i) (BitVec.ofNat 64 (fieldAt bytes (6 + 8 * i) 8)) sigOk testEn flashOk) s (List.range n)
      .next (t.mgmtReply 0 [])

end Sys2Proof.Machine
end

