-- ==== Sys2Proof/Machine/Scalar.lean ====
section
/-! DEFINITION. The control and system instructions (10_nupor_reference R276 to R281, R314): they execute at
acceptance in the scalar part of the Caller. -/

namespace Sys2Proof.Machine

def workNop : Work := { opcode := 0x00, queue := .scalar }

/-- NOP changes nothing (R276). -/
def execNop (h : NHdr) (s : State) : Host.Outcome State Fault Refusal := workNop.meets h (.nop h) s

def workHalt : Work := { opcode := 0x01, queue := .scalar }

/-- HALT ends the invocation once earlier work has retired and the checks are compared (R268, R276). -/
def execHalt (h : NHdr) (s : State) : Host.Outcome State Fault Refusal := workHalt.meets h (.halt h) s

def workJmp (a : BitVec 5) : Work :=
  { opcode := 0x02, queue := .scalar, sR := [a.toNat], target := fun x _ => (x.sreg a).toNat }

/-- JMP sets PC := s[A] (R276). -/
def execJmp (h : NHdr) (a : BitVec 5) (s : State) : Host.Outcome State Fault Refusal :=
  (workJmp a).meets h (.jmp h a) s

/-- PC plus a signed offset; a target below 0 lies outside every kernel. -/
def branchTarget (pc : Nat) (off : Int) : Nat := if (pc : Int) + off < 0 then 2 ^ 32 else ((pc : Int) + off).toNat

def workBr (off : BitVec 32) : Work :=
  { opcode := 0x03, queue := .scalar, target := fun _ c => branchTarget c.pc.toNat off.toInt }

/-- BR adds a signed offset to PC (R276). -/
def execBr (h : NHdr) (off : BitVec 32) (s : State) : Host.Outcome State Fault Refusal :=
  (workBr off).meets h (.br h off) s

/-- The count that LOOP takes (R277). -/
def loopCount (x : Ctx) (b : BitVec 5) (src : Bool) (count : BitVec 32) : Word :=
  if src then lowWord (x.sreg b) else count

def workLoop (lc b : BitVec 5) (src : Bool) (count exit : BitVec 32) : Work :=
  { opcode := 0x04, queue := .scalar, sR := if src then [b.toNat] else [], reserved := decide (3 < lc.toNat),
    target := fun x c => if loopCount x b src count = 0 then c.pc.toNat + exit.toNat else c.pc.toNat + 16,
    run := fun x s =>
      let c := s.core x.n
      let k := loopCount x b src count
      if k = 0 then .done s
      else .done (s.setCore x.n { c with
        lcCount := Assoc.put 0 c.lcCount lc.toNat k, lcStart := Assoc.put 0 c.lcStart lc.toNat (c.pc + 16) }) }

/-- LOOP starts a counted loop, or jumps past the matching ENDL when the count is 0 (R264, R277). -/
def execLoop (h : NHdr) (lc b : BitVec 5) (src : Bool) (count exit : BitVec 32) (s : State) :
    Host.Outcome State Fault Refusal :=
  (workLoop lc b src count exit).meets h (.loop h lc b src count exit) s

def workEndl (lc : BitVec 5) : Work :=
  { opcode := 0x05, queue := .scalar, reserved := decide (3 < lc.toNat),
    target := fun _ c =>
      if 1 < (Assoc.get 0 c.lcCount lc.toNat).toNat then (Assoc.get 0 c.lcStart lc.toNat).toNat else c.pc.toNat + 16,
    run := fun x s =>
      let c := s.core x.n
      let k := Assoc.get 0 c.lcCount lc.toNat
      .done (s.setCore x.n { c with lcCount := Assoc.put 0 c.lcCount lc.toNat (if 1 < k.toNat then k - 1 else 0) }) }

/-- ENDL closes a counted loop (R264, R277). -/
def execEndl (h : NHdr) (lc : BitVec 5) (s : State) : Host.Outcome State Fault Refusal :=
  (workEndl lc).meets h (.endl h lc) s

/-- The value that SETP writes (R278). -/
def setpValue (x : Ctx) (p : BitVec 16) (b c : BitVec 5) (cmp : BitVec 4) (src : Bool) (imm : BitVec 64) : Bool :=
  match compareOp cmp (x.sreg b) (if src then imm else x.sreg c) with
  | some v => v
  | none => (predicateOp cmp (readPred p b.toNat) (readPred p c.toNat)).getD false

def workSetp (a b c : BitVec 5) (cmp : BitVec 4) (src : Bool) (imm : BitVec 64) : Work :=
  { opcode := 0x06, queue := .scalar, reserved := !(cmpKnown cmp),
    sR := if decide (cmp.toNat ≤ 0xA) then (if src then [b.toNat] else [b.toNat, c.toNat]) else [],
    run := fun x s =>
      let k := s.core x.n
      .done (s.setCore x.n { k with p := writePred k.p a.toNat (setpValue x k.p b c cmp src imm) }) }

/-- SETP writes a predicate from a comparison (R278). -/
def execSetp (h : NHdr) (a b c : BitVec 5) (cmp : BitVec 4) (src : Bool) (imm : BitVec 64) (s : State) :
    Host.Outcome State Fault Refusal :=
  (workSetp a b c cmp src imm).meets h (.setp h a b c cmp src imm) s

def workMovi (a : BitVec 5) (imm : BitVec 64) : Work :=
  { opcode := 0x07, queue := .scalar, sW := [a.toNat], run := fun x s => .done (s.setS x.n a imm) }

/-- MOVI writes s[A] := IMM (R279). -/
def execMovi (h : NHdr) (a : BitVec 5) (imm : BitVec 64) (s : State) : Host.Outcome State Fault Refusal :=
  (workMovi a imm).meets h (.movi h a imm) s

def workAlu (a b c : BitVec 5) (op : BitVec 6) (src : Bool) (imm : BitVec 64) : Work :=
  { opcode := 0x08, queue := .scalar, sR := if src then [b.toNat] else [b.toNat, c.toNat], sW := [a.toNat],
    reserved := !(aluKnown op),
    run := fun x s => .done (s.setS x.n a ((aluOp op (x.sreg b) (if src then imm else x.sreg c)).getD 0)) }

/-- ALU writes s[A] := s[B] OP r (R279). -/
def execAlu (h : NHdr) (a b c : BitVec 5) (op : BitVec 6) (src : Bool) (imm : BitVec 64) (s : State) :
    Host.Outcome State Fault Refusal :=
  (workAlu a b c op src imm).meets h (.alu h a b c op src imm) s

/-- Whether `len` bytes from `a` lie in the Salon of core `n`. -/
def inSalon (n a len : Nat) : Bool := decide (salonBase n ≤ a ∧ a + len ≤ salonBase n + 2 ^ 22)

def workLdtd (a b : BitVec 5) (off : BitVec 48) : Work :=
  { opcode := 0x09, queue := .scalar, late := true, sR := [a.toNat], tW := [b.toNat],
    reads := fun x => [(x.addr a off, 32)],
    run := fun x s =>
      let p := x.addr a off
      if !(inSalon x.n p 32) then .fail s codeRegionBounds (kindCode p)
      else s.transfer x { reads := [(p, 32)], writes := [], groups := some [] } (fun _ => [])
        (fun rd t => .done (t.setTd x.n b.toNat (BitVec.ofNat 256 (rdNat rd p 32)))) }

/-- LDTD loads a tile descriptor from the core's Salon and retires after its acceptance (R260, R280). -/
def execLdtd (h : NHdr) (a b : BitVec 5) (off : BitVec 48) (s : State) : Host.Outcome State Fault Refusal :=
  (workLdtd a b off).meets h (.ldtd h a b off) s

/-- A descriptor with one field replaced. -/
def tdPut (v : TileReg) (lo w x : Nat) : TileReg := BitVec.ofNat 256 (bitsPut v.toNat lo w x)

/-- The plain fields of TDMOD (R281): position and width. -/
def tdField (f : Nat) : Option (Nat × Nat) :=
  match f with
  | 0 => some (0, 48)
  | 1 => some (64, 48)
  | 2 => some (128, 48)
  | 3 => some (192, 16)
  | 4 => some (208, 24)
  | 5 => some (232, 24)
  | 6 => some (112, 12)
  | _ => none

/-- GROUPS: advances a grouped descriptor by `n` groups (R281). -/
def tdGroups (v : TileReg) (n : Nat) : TileReg :=
  let t := Td.of v
  let g := t.goff + n
  let v := tdPut v 0 48 (t.base + g / 16 * t.d)
  let v := tdPut v 64 48 (t.scale + 32 * (g / 16))
  let v := tdPut v 124 4 (t.seq0 + g / 16)
  tdPut v 186 4 (g % 16)

/-- The descriptor that TDMOD leaves (R281). -/
def tdmodValue (v : TileReg) (field : BitVec 4) (x : DWord) : TileReg :=
  match tdField field.toNat with
  | some (lo, w) => tdPut v lo w (bitsOf v.toNat lo w + x.toNat)
  | none => tdGroups v (lowWord x).toNat

def workTdmod (a b : BitVec 5) (field : BitVec 4) (src : Bool) (imm : BitVec 64) : Work :=
  { opcode := 0x0A, queue := .scalar, sR := if src then [] else [b.toNat], tR := [a.toNat], tW := [a.toNat],
    reserved := decide (7 < field.toNat),
    illegal := fun x _ =>
      let t := Td.of (x.tdreg a.toNat)
      if field.toNat = 7 ∧ (t.scale = 0 ∨ t.format = none ∨ t.gsize = 3) then some 0x0007 else none,
    run := fun x s =>
      .done (s.setTd x.n a.toNat (tdmodValue (x.tdreg a.toNat) field (if src then imm else x.sreg b))) }

/-- TDMOD adds a value to one field of a descriptor (R281). -/
def execTdmod (h : NHdr) (a b : BitVec 5) (field : BitVec 4) (src : Bool) (imm : BitVec 64) (s : State) :
    Host.Outcome State Fault Refusal :=
  (workTdmod a b field src imm).meets h (.tdmod h a b field src imm) s

/-- The CCLK since dispatch at an acceptance (R272, R314): at least one per instruction and four per HCLK since the count
was last set or read, and a free number more (notes/assumptions/6.md). -/
def State.cclk (s : State) (n : Nat) : Nat :=
  let c := s.core n
  c.ccycle + max 1 (4 * (s.hclk - c.ccAt) - 3) + (Config.ccycle s.fresh).toNat

/-- The CSRs of R272; a reserved number and the write-only KEVENT read 0. -/
def readCsr (s : State) (n : Nat) (csr : BitVec 12) : DWord :=
  let c := s.core n
  match csr.toNat with
  | 0x000 => BitVec.ofNat 64 (n % 256 + n / 8 % 32 * 2 ^ 8)
  | 0x001 => c.job.setWidth 64
  | 0x002 => c.invoc.setWidth 64
  | 0x003 => BitVec.ofNat 64 (s.cclk n % 2 ^ 48)
  | 0x004 => c.kbase.setWidth 64
  | 0x008 => BitVec.ofNat 64 ((if c.intTrap then 1 else 0) + (if c.nanTrap then 2 else 0))
  | 0x009 => c.flags.setWidth 64
  | _ => 0

def workCsrr (a : BitVec 5) (csr : BitVec 12) : Work :=
  { opcode := 0xF0, queue := .scalar, sW := [a.toNat], run := fun x s =>
      let c := s.core x.n
      let t := if csr.toNat = 0x003 then s.setCore x.n { c with ccycle := s.cclk x.n, ccAt := s.hclk } else s
      .done (t.setS x.n a (readCsr s x.n csr)) }

/-- CSRR reads a CSR (R314). -/
def execCsrr (h : NHdr) (a : BitVec 5) (csr : BitVec 12) (s : State) : Host.Outcome State Fault Refusal :=
  (workCsrr a csr).meets h (.csrr h a csr) s

def workCsrw (a : BitVec 5) (csr : BitVec 12) : Work :=
  { opcode := 0xF1, queue := .scalar, sR := [a.toNat],
    illegal := fun _ _ => if csr.toNat = 0x040 then none else some 0x000A,
    run := fun x s => .done (s.post 0x1060 3 x.n (s.core x.n).job [wide (lowWord (x.sreg a))]) }

/-- CSRW posts s[A] as a kernel event; no other CSR is writable (R272, R314). -/
def execCsrw (h : NHdr) (a : BitVec 5) (csr : BitVec 12) (s : State) : Host.Outcome State Fault Refusal :=
  (workCsrw a csr).meets h (.csrw h a csr) s

def workTrapcfg (int nan : Bool) : Work :=
  { opcode := 0xF2, queue := .scalar,
    run := fun x s =>
      let c := s.core x.n
      .done (s.setCore x.n { c with intTrap := c.intTrap || int, nanTrap := c.nanTrap || nan }) }

/-- TRAPCFG raises trap enables for the rest of the invocation (R271). -/
def execTrapcfg (h : NHdr) (int nan : Bool) (s : State) : Host.Outcome State Fault Refusal :=
  (workTrapcfg int nan).meets h (.trapcfg h int nan) s

end Sys2Proof.Machine
end

