-- ==== Sys2Proof/Machine/Queue.lean ====
section
/-! DEFINITION. The instruction queues (09_nupor_model R246, R259 to R263): acceptance of the next instruction of a
kernel buffer, and the work and retirement of the instructions of a queue. -/

namespace Sys2Proof.Machine

/-- The header of an instruction. -/
def headerOf (i : Instr) : Option NHdr :=
  match i with
  | .nop h => some h
  | .halt h => some h
  | .jmp h _ => some h
  | .br h _ => some h
  | .loop h _ _ _ _ _ => some h
  | .endl h _ => some h
  | .setp h _ _ _ _ _ _ => some h
  | .movi h _ _ => some h
  | .alu h _ _ _ _ _ _ => some h
  | .ldtd h _ _ _ => some h
  | .tdmod h _ _ _ _ _ => some h
  | .xload h _ _ _ _ _ _ => some h
  | .xstore h _ _ _ _ _ _ => some h
  | .xcopy h _ _ _ _ _ _ => some h
  | .xfill h _ _ _ _ _ => some h
  | .vload h _ _ _ _ _ _ _ => some h
  | .bsmm h _ => some h
  | .bsmm2 h _ => some h
  | .bsmmb h _ => some h
  | .bxnor h _ => some h
  | .azero h _ => some h
  | .adrain h _ _ _ _ _ => some h
  | .rescale h _ _ _ _ _ _ _ => some h
  | .range h _ _ => some h
  | .tempo h _ _ _ => some h
  | .outsplit h _ _ _ _ => some h
  | .qprep h _ _ _ _ => some h
  | .docent h _ _ _ => some h
  | .gathera h _ _ _ => some h
  | .catadd h _ _ _ _ => some h
  | .catflush h _ => some h
  | .sortnnz h _ _ _ => some h
  | .deacc h _ _ _ _ => some h
  | .cvec h _ _ _ _ _ _ => some h
  | .cred h _ _ _ => some h
  | .cmm h _ _ _ _ _ => some h
  | .cfunc h _ _ _ => some h
  | .cconv h _ _ _ _ => some h
  | .waitf h _ _ => some h
  | .waite h _ _ => some h
  | .setf h _ _ _ => some h
  | .barrier h _ _ => some h
  | .signal h _ _ => some h
  | .wopen h _ _ _ => some h
  | .wclose h _ => some h
  | .cput h _ _ _ => some h
  | .cget h _ _ _ => some h
  | .cadd h _ _ _ => some h
  | .ralloc h _ _ => some h
  | .rfree h _ => some h
  | .csrr h _ _ => some h
  | .csrw h _ _ => some h
  | .trapcfg h _ _ => some h
  | _ => none

/-- What the Caller and the units do with an instruction; none for an event. -/
def workOf (i : Instr) : Option Work :=
  match i with
  | .nop _ => some workNop
  | .halt _ => some workHalt
  | .jmp _ a => some (workJmp a)
  | .br _ off => some (workBr off)
  | .loop _ lc b src count exit => some (workLoop lc b src count exit)
  | .endl _ lc => some (workEndl lc)
  | .setp _ a b c cmp src imm => some (workSetp a b c cmp src imm)
  | .movi _ a imm => some (workMovi a imm)
  | .alu _ a b c op src imm => some (workAlu a b c op src imm)
  | .ldtd _ a b off => some (workLdtd a b off)
  | .tdmod _ a b field src imm => some (workTdmod a b field src imm)
  | .xload _ a b c setFull setEmpty scl => some (workXload a b c setFull setEmpty scl)
  | .xstore _ a b c setFull setEmpty scl => some (workXstore a b c setFull setEmpty scl)
  | .xcopy _ a b c setFull setEmpty off => some (workXcopy a b c setFull setEmpty off)
  | .xfill _ a b c setFull off => some (workXfill a b c setFull off)
  | .vload _ a c kind slot passes d512 off => some (workVload a c kind slot passes d512 off)
  | .bsmm _ f => some (workProduct 0x30 f)
  | .bsmm2 _ f => some (workProduct 0x31 f)
  | .bsmmb _ f => some (workProduct 0x32 f)
  | .bxnor _ f => some (workProduct 0x33 f)
  | .azero _ units => some (workAzero units)
  | .adrain _ a b tile oatt mode => some (workAdrain a b tile oatt mode)
  | .rescale _ a b c tbl int setFull table => some (workRescale a b c tbl int setFull table)
  | .range _ a b => some (workRange a b)
  | .tempo _ a sel tensor => some (workTempo a sel tensor)
  | .outsplit _ a b c setFull => some (workOutsplit a b c setFull)
  | .qprep _ a b first count => some (workQprep a b first count)
  | .docent _ a b slot => some (workDocent a b slot)
  | .gathera _ a b c => some (workGathera a b c)
  | .catadd _ a b tensor stride => some (workCatadd a b tensor stride)
  | .catflush _ tensor => some (workCatflush tensor)
  | .sortnnz _ a b off => some (workSortnnz a b off)
  | .deacc _ a b c mask => some (workDeacc a b c mask)
  | .cvec _ a b c op src imm => some (workCvec a b c op src imm)
  | .cred _ a b op => some (workCred a b op)
  | .cmm _ a b c out list => some (workCmm a b c out list)
  | .cfunc _ a b fn => some (workCfunc a b fn)
  | .cconv _ a b c scl => some (workCconv a b c scl)
  | .waitf _ a off => some (workWaitf a off)
  | .waite _ a off => some (workWaite a off)
  | .setf _ a state off => some (workSetf a state off)
  | .barrier _ id mask => some (workBarrier id mask)
  | .signal _ a event => some (workSignal a event)
  | .wopen _ a b off => some (workWopen a b off)
  | .wclose _ a => some (workWclose a)
  | .cput _ a b off => some (workXfer 0x77 a b off)
  | .cget _ a b off => some (workXfer 0x78 a b off)
  | .cadd _ a b off => some (workXfer 0x79 a b off)
  | .ralloc _ a b => some (workRalloc a b)
  | .rfree _ a => some (workRfree a)
  | .csrr _ a csr => some (workCsrr a csr)
  | .csrw _ a csr => some (workCsrw a csr)
  | .trapcfg _ int nan => some (workTrapcfg int nan)
  | _ => none

/-- INSTRUCTION_ACCEPT: the Caller meets the next word of its kernel (R246, R248, R260). -/
def execInstructionAccept (core : Fin 256) (s : State) : Host.Outcome State Fault Refusal :=
  let c := s.core core.val
  if !c.running || c.halting || c.stopped then .next s
  else
    match Nupor.decodeWord core (Assoc.get 0 c.kbuf (c.pc.toNat / 16)) with
    | none =>
      .next (if c.queue.any QEntry.holds then s.bump (coreReg core.val Stall.sync.counter) 1 else s.illegal core.val c.iaddr 0x0001)
    | some i =>
      match headerOf i, workOf i with
      | some h, some w => .next (s.meet h i w false)
      | _, _ => .next s

/-- What an entry of a queue does when it runs: the chunks that are left of an issued product, or the instruction's work. -/
def State.runEntry (s : State) (n : Nat) (q : QEntry) (w : Work) : Res :=
  let x := q.ctx n w.opcode
  match productOf q.instr with
  | some (_, f) =>
    foldOver (fun r j => match r with | .done u => if j < q.chunk then .done u else runChunk f x j u | e => e)
      (.done s) (List.range q.chunks)
  | none => w.run x s

def State.setQueue (s : State) (n : Nat) (l : List QEntry) : State :=
  let c := s.core n
  s.setCore n { c with queue := l }

/-- Whether an entry can run: its array instruction has issued (R103), and no earlier run of the same instruction is under way. -/
def QEntry.canRun (q : QEntry) (kind : QKind) (seen : List QEntry) : Bool :=
  q.queue == kind && (kind != .array || q.issued) && !(seen.any (fun e => e.queue == kind && e.iaddr == q.iaddr))

/-- The start of an entry, if it has not started. -/
def State.startEntry (s : State) (n : Nat) (q : QEntry) (w : Work) : Res :=
  if q.issued then .done s else w.issue (q.ctx n w.opcode) s

/-- The entries of a queue start in the order in which they were accepted: one that cannot start holds back those behind it. One
that has started and waits lets them run beside it; the first that completes retires (R219, R260). `seen` holds the entries passed. -/
def State.retireFrom (n : Nat) (kind : QKind) : List QEntry → List QEntry → State → State
  | seen, [], s => s.setQueue n seen
  | seen, q :: rest, s =>
    match (if q.canRun kind seen then workOf q.instr else none) with
    | none => State.retireFrom n kind (seen ++ [q]) rest s
    | some w =>
      match (s.setQueue n (seen ++ q :: rest)).startEntry n q w with
      | .wait t _ => t
      | .fail t code aux => t.coreFault n q.iaddr code aux
      | .done s =>
        match s.runEntry n q w with
        | .done t => (((t.endWait n q.iaddr w.opcode).setQueue n (seen ++ rest)).draw.issueAll n).tryHalt n
        | .wait t y => State.retireFrom n kind (seen ++ [{ q with issued := true }]) rest (t.addWait n y)
        | .fail t code aux => t.coreFault n q.iaddr code aux

/-- INSTRUCTION_RETIRE: the instructions of a queue do their work, and one retires (R102, R228, R260). -/
def execInstructionRetire (core : Fin 256) (queue : QKind) (ecc : List EccHit) (s : State) :
    Host.Outcome State Fault Refusal :=
  let n := core.val
  let s := s.issueAll n
  let c := s.core n
  if c.stopped then .next s
  else
    match c.queue.find? (fun q => q.queue == queue) with
    | none => .next s
    | some q =>
      let e := s.eccMeet n ecc
      match e.2 with
      | some hit => .next (e.1.eccFault n q.iaddr hit)
      | none => .next (State.retireFrom n queue [] (e.1.core n).queue e.1)

end Sys2Proof.Machine
end

