-- ==== Sys2Proof/Machine/Dispatch.lean ====
section
/-! DEFINITION. The meaning of each command: one arm per row of the command table. -/

namespace Sys2Proof.Machine

def exec (i : Instr) (s : State) : Host.Outcome State Fault Refusal :=
  match i with
  | .nop h => Sys2Proof.Machine.execNop h s
  | .halt h => Sys2Proof.Machine.execHalt h s
  | .jmp h a => Sys2Proof.Machine.execJmp h a s
  | .br h off => Sys2Proof.Machine.execBr h off s
  | .loop h lc b src count exit => Sys2Proof.Machine.execLoop h lc b src count exit s
  | .endl h lc => Sys2Proof.Machine.execEndl h lc s
  | .setp h a b c cmp src imm => Sys2Proof.Machine.execSetp h a b c cmp src imm s
  | .movi h a imm => Sys2Proof.Machine.execMovi h a imm s
  | .alu h a b c op src imm => Sys2Proof.Machine.execAlu h a b c op src imm s
  | .ldtd h a b off => Sys2Proof.Machine.execLdtd h a b off s
  | .tdmod h a b field src imm => Sys2Proof.Machine.execTdmod h a b field src imm s
  | .xload h a b c setFull setEmpty scl => Sys2Proof.Machine.execXload h a b c setFull setEmpty scl s
  | .xstore h a b c setFull setEmpty scl => Sys2Proof.Machine.execXstore h a b c setFull setEmpty scl s
  | .xcopy h a b c setFull setEmpty off => Sys2Proof.Machine.execXcopy h a b c setFull setEmpty off s
  | .xfill h a b c setFull off => Sys2Proof.Machine.execXfill h a b c setFull off s
  | .vload h a c kind slot passes d512 off => Sys2Proof.Machine.execVload h a c kind slot passes d512 off s
  | .bsmm h f => Sys2Proof.Machine.execBsmm h f s
  | .bsmm2 h f => Sys2Proof.Machine.execBsmm2 h f s
  | .bsmmb h f => Sys2Proof.Machine.execBsmmb h f s
  | .bxnor h f => Sys2Proof.Machine.execBxnor h f s
  | .azero h units => Sys2Proof.Machine.execAzero h units s
  | .adrain h a b tile oatt mode => Sys2Proof.Machine.execAdrain h a b tile oatt mode s
  | .rescale h a b c tbl int setFull table => Sys2Proof.Machine.execRescale h a b c tbl int setFull table s
  | .range h a b => Sys2Proof.Machine.execRange h a b s
  | .tempo h a sel tensor => Sys2Proof.Machine.execTempo h a sel tensor s
  | .outsplit h a b c setFull => Sys2Proof.Machine.execOutsplit h a b c setFull s
  | .qprep h a b first count => Sys2Proof.Machine.execQprep h a b first count s
  | .docent h a b slot => Sys2Proof.Machine.execDocent h a b slot s
  | .gathera h a b c => Sys2Proof.Machine.execGathera h a b c s
  | .catadd h a b tensor stride => Sys2Proof.Machine.execCatadd h a b tensor stride s
  | .catflush h tensor => Sys2Proof.Machine.execCatflush h tensor s
  | .sortnnz h a b off => Sys2Proof.Machine.execSortnnz h a b off s
  | .deacc h a b c mask => Sys2Proof.Machine.execDeacc h a b c mask s
  | .cvec h a b c op src imm => Sys2Proof.Machine.execCvec h a b c op src imm s
  | .cred h a b op => Sys2Proof.Machine.execCred h a b op s
  | .cmm h a b c out list => Sys2Proof.Machine.execCmm h a b c out list s
  | .cfunc h a b fn => Sys2Proof.Machine.execCfunc h a b fn s
  | .cconv h a b c scl => Sys2Proof.Machine.execCconv h a b c scl s
  | .waitf h a off => Sys2Proof.Machine.execWaitf h a off s
  | .waite h a off => Sys2Proof.Machine.execWaite h a off s
  | .setf h a state off => Sys2Proof.Machine.execSetf h a state off s
  | .barrier h id mask => Sys2Proof.Machine.execBarrier h id mask s
  | .signal h a event => Sys2Proof.Machine.execSignal h a event s
  | .wopen h a b off => Sys2Proof.Machine.execWopen h a b off s
  | .wclose h a => Sys2Proof.Machine.execWclose h a s
  | .cput h a b off => Sys2Proof.Machine.execCput h a b off s
  | .cget h a b off => Sys2Proof.Machine.execCget h a b off s
  | .cadd h a b off => Sys2Proof.Machine.execCadd h a b off s
  | .ralloc h a b => Sys2Proof.Machine.execRalloc h a b s
  | .rfree h a => Sys2Proof.Machine.execRfree h a s
  | .csrr h a csr => Sys2Proof.Machine.execCsrr h a csr s
  | .csrw h a csr => Sys2Proof.Machine.execCsrw h a csr s
  | .trapcfg h int nan => Sys2Proof.Machine.execTrapcfg h int nan s
  | .instructionAccept core => Sys2Proof.Machine.execInstructionAccept core s
  | .instructionRetire core queue ecc => Sys2Proof.Machine.execInstructionRetire core queue ecc s
  | .arrayRetire core => Sys2Proof.Machine.execArrayRetire core s
  | .chunkEnter core => Sys2Proof.Machine.execChunkEnter core s
  | .timingErrorReplay core engines fails => Sys2Proof.Machine.execTimingErrorReplay core engines fails s
  | .provenanceSampleDraw core chunk engine quarter => Sys2Proof.Machine.execProvenanceSampleDraw core chunk engine quarter s
  | .checkSliceCompare core diff => Sys2Proof.Machine.execCheckSliceCompare core diff s
  | .tileDispatch core item weightScale tds => Sys2Proof.Machine.execTileDispatch core item weightScale tds s
  | .epilogueDispatch core item weightScale tds => Sys2Proof.Machine.execEpilogueDispatch core item weightScale tds s
  | .layerStart handle => Sys2Proof.Machine.execLayerStart handle s
  | .stepDone cluster tensor => Sys2Proof.Machine.execStepDone cluster tensor s
  | .tempoPinWrite slot value writer => Sys2Proof.Machine.execTempoPinWrite slot value writer s
  | .docentSampleDraw slot core element => Sys2Proof.Machine.execDocentSampleDraw slot core element s
  | .docentSampleResult slot cluster engine => Sys2Proof.Machine.execDocentSampleResult slot cluster engine s
  | .docentWindowClose slot => Sys2Proof.Machine.execDocentWindowClose slot s
  | .tagTimeout core => Sys2Proof.Machine.execTagTimeout core s
  | .ceLogWindow hall => Sys2Proof.Machine.execCeLogWindow hall s
  | .unitPowerUp unit => Sys2Proof.Machine.execUnitPowerUp unit s
  | .idleGate unit => Sys2Proof.Machine.execIdleGate unit s
  | .doorbellPointer ring pointer => Sys2Proof.Machine.execDoorbellPointer ring pointer s
  | .doorbellKill ring jobId => Sys2Proof.Machine.execDoorbellKill ring jobId s
  | .ringEnable ring ctl => Sys2Proof.Machine.execRingEnable ring ctl s
  | .ringDisable ring ctl => Sys2Proof.Machine.execRingDisable ring ctl s
  | .jobFetch ring hm => Sys2Proof.Machine.execJobFetch ring hm s
  | .loaderStaticPhase handle hm => Sys2Proof.Machine.execLoaderStaticPhase handle hm s
  | .keySlotLoad handle => Sys2Proof.Machine.execKeySlotLoad handle s
  | .loaderCopyPhase handle hm => Sys2Proof.Machine.execLoaderCopyPhase handle hm s
  | .jobStart handle => Sys2Proof.Machine.execJobStart handle s
  | .jobComplete handle => Sys2Proof.Machine.execJobComplete handle s
  | .faultReport count => Sys2Proof.Machine.execFaultReport count s
  | .coalesceTimeout ring => Sys2Proof.Machine.execCoalesceTimeout ring s
  | .scrubComplete handle => Sys2Proof.Machine.execScrubComplete handle s
  | .hbmPageScrubDone page => Sys2Proof.Machine.execHbmPageScrubDone page s
  | .grantSyncRead => Sys2Proof.Machine.execGrantSyncRead s
  | .mbxOpen cmd => Sys2Proof.Machine.execMbxOpen cmd s
  | .mbxRelease cmd => Sys2Proof.Machine.execMbxRelease cmd s
  | .mbxCmdDone => Sys2Proof.Machine.execMbxCmdDone s
  | .mailboxRead off read => Sys2Proof.Machine.execMailboxRead off read s
  | .bar2Write off => Sys2Proof.Machine.execBar2Write off s
  | .registerWrite at_ value size writer => Sys2Proof.Machine.execRegisterWrite at_ value size writer s
  | .flr => Sys2Proof.Machine.execFlr s
  | .flrComplete => Sys2Proof.Machine.execFlrComplete s
  | .d3hotReturn => Sys2Proof.Machine.execD3hotReturn s
  | .ideLost stream => Sys2Proof.Machine.execIdeLost stream s
  | .ideSecure keys => Sys2Proof.Machine.execIdeSecure keys s
  | .keyInstall req session secured => Sys2Proof.Machine.execKeyInstall req session secured s
  | .keyRemove domain handle session secured => Sys2Proof.Machine.execKeyRemove domain handle session secured s
  | .jobReport ring jobId reserved nonce session secured => Sys2Proof.Machine.execJobReport ring jobId reserved nonce session secured s
  | .getMeasurements nonce => Sys2Proof.Machine.execGetMeasurements nonce s
  | .challenge nonce => Sys2Proof.Machine.execChallenge nonce s
  | .fwupdWrite cmd check flashOk => Sys2Proof.Machine.execFwupdWrite cmd check flashOk s
  | .svnCommit => Sys2Proof.Machine.execSvnCommit s
  | .testGo writer scope testEn good => Sys2Proof.Machine.execTestGo writer scope testEn good s
  | .profileCommit writer sigOk flashOk => Sys2Proof.Machine.execProfileCommit writer sigOk flashOk s
  | .powerUp modAddr => Sys2Proof.Machine.execPowerUp modAddr s
  | .powerLoss => Sys2Proof.Machine.execPowerLoss s
  | .modReset => Sys2Proof.Machine.execModReset s
  | .perst => Sys2Proof.Machine.execPerst s
  | .bootStart slotA slotB factoryOk profileOk fails => Sys2Proof.Machine.execBootStart slotA slotB factoryOk profileOk fails s
  | .ready => Sys2Proof.Machine.execReady s
  | .controllerEvaluation samples diodes => Sys2Proof.Machine.execControllerEvaluation samples diodes s
  | .voltageLoopWindow core => Sys2Proof.Machine.execVoltageLoopWindow core s
  | .powerClamp => Sys2Proof.Machine.execPowerClamp s
  | .clampRelease => Sys2Proof.Machine.execClampRelease s
  | .thermalTrip diode => Sys2Proof.Machine.execThermalTrip diode s
  | .thermalTripClear => Sys2Proof.Machine.execThermalTripClear s
  | .refclkLoss => Sys2Proof.Machine.execRefclkLoss s
  | .inputLatchOff cause => Sys2Proof.Machine.execInputLatchOff cause s
  | .powerInput cause => Sys2Proof.Machine.execPowerInput cause s
  | .inputRestored => Sys2Proof.Machine.execInputRestored s
  | .watchdogExpiry cluster => Sys2Proof.Machine.execWatchdogExpiry cluster s
  | .recoveryStart scope => Sys2Proof.Machine.execRecoveryStart scope s
  | .recoveryEnd scope passed => Sys2Proof.Machine.execRecoveryEnd scope passed s
  | .inventorySliceDue target => Sys2Proof.Machine.execInventorySliceDue target s
  | .inventoryForce target => Sys2Proof.Machine.execInventoryForce target s
  | .inventorySliceEnd target signature => Sys2Proof.Machine.execInventorySliceEnd target signature s
  | .cablePresent cable => Sys2Proof.Machine.execCablePresent cable s
  | .cableMemoryRead cable medium => Sys2Proof.Machine.execCableMemoryRead cable medium s
  | .cableRemoved cable => Sys2Proof.Machine.execCableRemoved cable s
  | .efuseTrip cable => Sys2Proof.Machine.execEfuseTrip cable s
  | .efuseRetry cable holds => Sys2Proof.Machine.execEfuseRetry cable holds s
  | .linkTrainingDone link lanes polarity => Sys2Proof.Machine.execLinkTrainingDone link lanes polarity s
  | .linkAuthenticate link peer => Sys2Proof.Machine.execLinkAuthenticate link peer s
  | .linkSoakEnd link => Sys2Proof.Machine.execLinkSoakEnd link s
  | .linkDownEvent link cause => Sys2Proof.Machine.execLinkDownEvent link cause s
  | .linkRetrain link => Sys2Proof.Machine.execLinkRetrain link s
  | .linkRekey link tx => Sys2Proof.Machine.execLinkRekey link tx s
  | .flitReceive link fseq fecOk tagOk => Sys2Proof.Machine.execFlitReceive link fseq fecOk tagOk s
  | .nakResend link fseq => Sys2Proof.Machine.execNakResend link fseq s
  | .packetArrival link hdr data => Sys2Proof.Machine.execPacketArrival link hdr data s
  | .packetForward link hdr data => Sys2Proof.Machine.execPacketForward link hdr data s
  | .completionReceive hall hdr => Sys2Proof.Machine.execCompletionReceive hall hdr s
  | .noRouteReceive hall hdr => Sys2Proof.Machine.execNoRouteReceive hall hdr s
  | .e2eTimeout hall => Sys2Proof.Machine.execE2eTimeout hall s
  | .heartbeatSend => Sys2Proof.Machine.execHeartbeatSend s
  | .reachabilityTest => Sys2Proof.Machine.execReachabilityTest s
  | .timePps => Sys2Proof.Machine.execTimePps s
  | .ppsSyncLost => Sys2Proof.Machine.execPpsSyncLost s
  | .timeSet value => Sys2Proof.Machine.execTimeSet value s
  | .coolantSample state reading => Sys2Proof.Machine.execCoolantSample state reading s
  | .leakSample a b => Sys2Proof.Machine.execLeakSample a b s
  | .mgmtAccess bytes sigOk testEn flashOk => Sys2Proof.Machine.execMgmtAccess bytes sigOk testEn flashOk s
  | .vbCommit => Sys2Proof.Machine.execVbCommit s
  | .vbDataRead wide => Sys2Proof.Machine.execVbDataRead wide s
  | .dropPacket => Sys2Proof.Machine.execDropPacket s
  | .vbWmWrite value => Sys2Proof.Machine.execVbWmWrite value s
  | .heartbeatReceive link hdr data => Sys2Proof.Machine.execHeartbeatReceive link hdr data s
  | .getDataReceive hall hdr data => Sys2Proof.Machine.execGetDataReceive hall hdr data s
  | .refclkRestored => Sys2Proof.Machine.execRefclkRestored s
  | .deviceRecoveryTimeout => Sys2Proof.Machine.execDeviceRecoveryTimeout s
  | .inputWarn warn => Sys2Proof.Machine.execInputWarn warn s
  | .spdmSessionStart session => Sys2Proof.Machine.execSpdmSessionStart session s
  | .dynamicAddressAssign addr => Sys2Proof.Machine.execDynamicAddressAssign addr s
  | .dynamicAddressReset => Sys2Proof.Machine.execDynamicAddressReset s

end Sys2Proof.Machine
end

