-- ==== Sys2Proof/Safety.lean ====
section
/-! DEFINITION. What claims call safe: the canonical form of the tables and memories, the bounds that the manual sets on the
block's stores, and runs; and the words in which claims say when a command takes effect and what it leaves alone. -/

namespace Sys2Proof.Machine

/-- The canonical form of the block's memories: addresses strictly rising, and no SRAM entry equal to the 0 that an unlisted address
reads as (an unlisted HBM byte is a free value, R241, so that every byte written is listed). -/
def Memory.wf (sram hbm : List Host.Cell) : Bool := Assoc.wf 0 sram && Assoc.sorted none hbm

/-- The canonical form of the memories, of the register file and of the known host memory. -/
def State.memOk (s : State) : Bool :=
  Assoc.wf 0 s.reg && Memory.wf s.sram s.hbm && Assoc.sorted none s.hostMem

/-- The bounds of the stores that the manual sizes: the Visitor Book with its packets and the four that a source may have waiting
(R488, R490), the vault (R419), the active jobs under rising handles (R350), the ended jobs (R418), the retirement list (R234). -/
def State.storesOk (s : State) : Bool :=
  decide (s.vb.length ≤ 8192) && s.vbWait.all (fun p => decide (p.payload.length ≤ 15) &&
      decide ((s.vbWait.filter (fun q => q.kind == p.kind && q.num == p.num)).length ≤ 4)) &&
    s.reports.all (fun r => decide (r.extra.length ≤ 13)) && decide (s.keys.length ≤ 4096) && Assoc.sorted none s.jobs &&
    s.jobs.all (fun e => decide (1 ≤ e.1 ∧ e.1 ≤ 32767)) && decide (s.ended.length ≤ 1024) && decide (s.flash.retired.length ≤ 4096)

/-- A well-formed state. -/
def State.Inv (s : State) : Prop := s.memOk = true ∧ s.storesOk = true

/-- `n` steps, ending at the first fault or refusal. -/
def State.runs : Nat → State → Option State
  | 0, s => some s
  | n + 1, s => match step s with | .next t => State.runs n t | _ => none

/-- The commands that a state has still to take all answer a next state. -/
def State.safeFor (n : Nat) (s : State) : Prop := (State.runs n s).isSome = true

/-! When an instruction takes effect. -/

/-- The Caller of the header's core takes the instruction that needs `w`: the core runs, the predicate holds (R253), nothing holds
acceptance back (R260 to R263), no cause of illegality applies (R269), the next PC lies in the kernel (R265), and its reads meet
no memory error. -/
def State.accepts (s : State) (h : NHdr) (w : Work) : Bool :=
  let c := s.core h.core.val
  let x := c.ctx h.core.val w.opcode
  c.running && !c.halting && !c.stopped && !(c.queue.any QEntry.holds) && !w.reserved && c.runs h && (s.stall c h w x).isNone && (w.cause x c).isNone &&
    !(c.leaves (w.target x c)) && h.ecc.isEmpty

/-- The instruction is taken, and nothing before it in its queue keeps it from starting at once (R103, R219, R260). -/
def State.takes (s : State) (h : NHdr) (w : Work) : Bool :=
  s.accepts h w && (s.core h.core.val).starts w.queue w.product &&
    (match w.issue ((s.core h.core.val).ctx h.core.val w.opcode) s with | .done _ => true | _ => false)

/-- The instruction is taken, and nothing of it is under way. -/
def State.starts (s : State) (h : NHdr) (w : Work) : Bool :=
  s.takes h w && ((s.core h.core.val).waitOf (s.core h.core.val).iaddr w.opcode).isNone

/-- The state after core `n` has retired an instruction with opcode `op`: its record is `c` but for the PC and the wait that ends,
CORE.ISSUED counts one more, and the model's count of free values advances. -/
def State.retired (s : State) (n op : Nat) (c : CoreSt) (pc : Nat) : State :=
  let i := (s.core n).iaddr
  let r := s.rget (coreReg n 0x168)
  { s with
    cores := Assoc.put {} s.cores n
      { c with pc := BitVec.ofNat 16 pc, waits := c.waits.filter (fun w => !(decide (w.iaddr = i ∧ w.opcode = op))) }
    reg := Assoc.put 0 s.reg (coreReg n 0x168) (fput r 0 48 (fget r 0 48 + 1))
    fresh := s.fresh + 1 }

/-- The state after core `n` has retired the instruction at its PC, and goes on with the next one. -/
def State.retires (s : State) (n op : Nat) : State := s.retired n op (s.core n) ((s.core n).pc.toNat + 16)

/-- The state after core `n` has stopped accepting with a fault of the instruction at its PC, which it reports (R269, R270). -/
def State.faulted (s : State) (n : Nat) (code aux : Half) : State :=
  { s with
    cores := Assoc.put {} s.cores n { s.core n with stopped := true, waits := [] }
    reports := s.reports ++ [⟨(s.core n).job, code, (s.core n).iaddr, BitVec.ofNat 16 n, aux, [], s.hclk⟩] }

/-- The byte that a device address holds; none in HBM that nothing has written. -/
def State.memAt (s : State) (a : Nat) : Option Byte :=
  if memSel a = 0 then Assoc.find s.hbm a else some (Assoc.get 0 s.sram a)

/-- Core `n` reaches the memory that `w` names and stores `cells`: every line may be accessed (R207, R210, R223), no line and no
stored byte lies in a circular region, no two lines of an issue group share a bank (R216, R218), and the data that it reads passes
its check (R45, R158). -/
def State.reaches (s : State) (n : Nat) (w : MemWork) (cells : List (Nat × Byte)) : Prop :=
  let rl := dedupNat (w.reads.flatMap (fun r => linesOf r.1 r.2))
  let wl := dedupNat (w.writes.flatMap (fun r => linesOf r.1 r.2))
  s.accessFault n false w.reads = none ∧ s.accessFault n true w.writes = none ∧
    (∀ a ∈ rl ++ wl, s.slotOf a = none) ∧ (∀ c ∈ cells, s.slotOf c.1 = none) ∧
    conflictScan (w.groups.getD (portGroups rl ++ portGroups wl)) = [] ∧ w.check s.readByte = none

end Sys2Proof.Machine
end

