-- ==== Sys2Proof/Certificates/Slice0/Obligations.lean ====
section
/-! DEFINITION. The statements about the block that are to be proved: each says which rules it follows. `Assoc.get`, `Assoc.find`
and `Assoc.put` read and write tables; `State.retired` and `State.accepts` stand in Safety. -/

open Sys2Proof Sys2Proof.Machine

/-! The queue and the clock. -/

/-- A step runs the command at the front of the queue on the state with the queue's rest (log entry 1: the queue is the model's). -/
def Obligations.StepRunsTheFrontCommand : Prop :=
  ∀ (c : Instr) (rest : List Instr) (s : State), step { s with pending := c :: rest } = exec c { s with pending := rest }

/-- On an empty queue a clocked block passes one HCLK (log entry 1, the model's choice): the clock counts, every Curator takes its
oldest event (R310; in a table of Curators in its canonical form), MGMT.TIME alone among the registers can change and moves every third HCLK by 5 ns (R485); a block without
its clock stays as it is. -/
def Obligations.EmptyQueuePassesOneClock : Prop :=
  ∀ s : State, s.pending = [] →
    ((s.phase = .off ∨ s.phase = .powered) → step s = .next s) ∧
    ((s.phase ≠ .off ∧ s.phase ≠ .powered) →
      ∃ t, step s = .next t ∧ t = { s with hclk := s.hclk + 1, reg := t.reg, clusters := t.clusters } ∧
        (Assoc.sorted none s.clusters = true → ∀ k, t.cluster k = { s.cluster k with events := (s.cluster k).events.drop 1 }) ∧
        (∀ off, off ≠ foy 0x0708 → t.rget off = s.rget off) ∧
        (s.hclk % 3 ≠ 2 → t.reg = s.reg) ∧
        (s.hclk % 3 = 2 → s.fld (foy 0x0708) 0 30 + 5 < 1000000000 →
          t.fld (foy 0x0708) 0 30 = s.fld (foy 0x0708) 0 30 + 5 ∧ t.fld (foy 0x0708) 30 32 = s.fld (foy 0x0708) 30 32) ∧
        (s.hclk % 3 = 2 → 1000000000 ≤ s.fld (foy 0x0708) 0 30 + 5 →
          t.fld (foy 0x0708) 0 30 = s.fld (foy 0x0708) 0 30 + 5 - 1000000000 ∧
          t.fld (foy 0x0708) 30 32 = (s.fld (foy 0x0708) 30 32 + 1) % 2 ^ 32))

/-! Acceptance by the Callers. -/

/-- A core that runs nothing, that waits in HALT, or that has stopped accepting takes no instruction: nothing changes. R253: an
instruction whose predicate evaluates to false is squashed: it counts in CORE.ISSUED and CORE.SQUASHED, the PC moves on, and nothing
else changes; at the kernel's end it is illegal with auxiliary 0x0008, and the PC has moved past the kernel (R265). R260 to R263:
what holds acceptance back counts in its own counter and nothing else happens: an unretired WAITF, WAITE or BARRIER and a FENCE bit
in CORE.STALL_SYNC, a register of an unretired instruction in CORE.STALL_REG, a full queue in CORE.STALL_QUEUE. -/
def Obligations.CallerHoldsSquashesAndIdles : Prop :=
  (∀ (i : Instr) (h : NHdr) (s : State), headerOf i = some h →
     ((s.core h.core.val).running = false ∨ (s.core h.core.val).halting = true ∨ (s.core h.core.val).stopped = true) →
     exec i s = .next s) ∧
  (∀ (i : Instr) (h : NHdr) (w : Work) (s : State), headerOf i = some h → workOf i = some w →
     let n := h.core.val
     let c := s.core n
     let t := (s.bump (coreReg n 0x168) 1).bump (coreReg n 0x198) 1
     c.running = true → c.halting = false → c.stopped = false → c.queue.any QEntry.holds = false → w.reserved = false →
     readPred c.p h.pred.toNat = h.pneg →
     ((c.pc.toNat + 16 < c.klen ∧ c.pc.toNat % 16 = 0) →
       exec i s = .next { t with cores := Assoc.put {} s.cores n { c with pc := BitVec.ofNat 16 (c.pc.toNat + 16) } }) ∧
     (c.klen ≤ c.pc.toNat + 16 →
       exec i s = .next { t with
         cores := Assoc.put {} s.cores n { c with pc := BitVec.ofNat 16 (c.pc.toNat + 16), stopped := true, waits := [] },
         reports := s.reports ++ [⟨c.job, 0x0301#16, c.kbase + c.pc.setWidth 32, BitVec.ofNat 16 n, 0x0008#16, [], s.hclk⟩] })) ∧
  (∀ (i : Instr) (h : NHdr) (w : Work) (s : State), headerOf i = some h → workOf i = some w →
     let n := h.core.val
     let c := s.core n
     c.running = true → c.halting = false → c.stopped = false →
     (c.queue.any QEntry.holds = true → exec i s = .next (s.bump (coreReg n 0x188) 1)) ∧
     (c.queue.any QEntry.holds = false → w.reserved = false → readPred c.p h.pred.toNat ≠ h.pneg →
       (h.fence = true → c.queue ≠ [] → exec i s = .next (s.bump (coreReg n 0x188) 1)) ∧
       (h.fence = false →
         (∃ q ∈ c.queue, (∃ r, r ∈ w.sR ++ w.sRx (c.ctx n w.opcode) ++ w.sW ∧ r ∈ q.sW) ∨ (∃ r, r ∈ w.tR ++ w.tW ++ w.tds ∧ r ∈ q.tW)) →
         exec i s = .next (s.bump (coreReg n 0x170) 1)) ∧
       (h.fence = false → w.sR = [] → (∀ x, w.sRx x = []) → w.sW = [] → w.tR = [] → w.tW = [] → w.tds = [] →
         (∀ x, w.reads x = []) → (∀ x, w.writes x = []) → (∀ x u, w.reqR x u = []) → (∀ x u, w.reqW x u = []) →
         w.queue ≠ .scalar → queueSize w.queue ≤ (c.queue.filter (fun q => q.queue == w.queue)).length →
         exec i s = .next (s.bump (coreReg n 0x180) 1))))

/-- R269, R270: an illegal instruction stops the Caller and reports fault code 0x0301 with the instruction address, the global core
and the cause, and has no other effect: 0x0002 a reserved code in an operand field, whatever the predicate says; 0x0007 an invalid
tile descriptor and the other causes found at acceptance; 0x0008 a PC that leaves the kernel, which CALLER_STATE.PC then holds. -/
def Obligations.IllegalInstructionFaultsTheJob : Prop :=
  ∀ (i : Instr) (h : NHdr) (w : Work) (s : State), headerOf i = some h → workOf i = some w →
    let n := h.core.val
    let c := s.core n
    let x := c.ctx n w.opcode
    let illegal := fun (aux : Half) => { s with
      cores := Assoc.put {} s.cores n { c with stopped := true, waits := [] },
      reports := s.reports ++ [⟨c.job, 0x0301#16, c.kbase + c.pc.setWidth 32, BitVec.ofNat 16 n, aux, [], s.hclk⟩] }
    c.running = true → c.halting = false → c.stopped = false → c.queue.any QEntry.holds = false →
    (w.reserved = true → exec i s = .next (illegal 0x0002#16)) ∧
    (w.reserved = false → readPred c.p h.pred.toNat ≠ h.pneg → s.stall c h w x = none →
      ((∃ r ∈ w.tds, (Td.of (x.tdreg r)).valid = false) → exec i s = .next (illegal 0x0007#16)) ∧
      ((∀ r ∈ w.tds, (Td.of (x.tdreg r)).valid = true) → ∀ aux, w.illegal x c = some aux → exec i s = .next (illegal aux)) ∧
      ((∀ r ∈ w.tds, (Td.of (x.tdreg r)).valid = true) → w.illegal x c = none → w.opcode ≠ 0x01 →
        (c.klen ≤ w.target x c ∨ w.target x c % 16 ≠ 0) → exec i s = .next { illegal 0x0008#16 with
          cores := Assoc.put {} s.cores n { c with pc := BitVec.ofNat 16 (w.target x c), stopped := true, waits := [] } }))

/-! Control, scalar and system instructions (R276 to R281, R314). -/

/-- R276: NOP changes nothing but what retirement changes; JMP sets PC := s[A]; BR adds its signed offset. R277: LOOP with a count
starts lc[N] behind itself, with a count of 0 it passes the matching ENDL; ENDL with a count above 1 counts down and jumps back,
otherwise it clears the count and falls through. R278: SETP writes p[A] := left CMP right with the right operand s[C] or IMM, by the
table of codes; p15 keeps reading 1 (R247). The other predicates keep their values. Of the binary32 comparisons 8 to A only the NaN
case is stated. -/
def Obligations.ControlInstructions : Prop :=
  (∀ (h : NHdr) (a : BitVec 5) (off : BitVec 32) (s : State),
     let n := h.core.val
     let c := s.core n
     (s.accepts h workNop = true → exec (.nop h) s = .next (s.retired n 0x00 c (c.pc.toNat + 16))) ∧
     (s.accepts h (workJmp a) = true → exec (.jmp h a) s = .next (s.retired n 0x02 c (Assoc.get 0 c.s a.toNat).toNat)) ∧
     (s.accepts h (workBr off) = true → 0 ≤ (c.pc.toNat : Int) + off.toInt →
       exec (.br h off) s = .next (s.retired n 0x03 c ((c.pc.toNat : Int) + off.toInt).toNat))) ∧
  (∀ (h : NHdr) (lc b : BitVec 5) (src : Bool) (count exit : BitVec 32) (s : State),
     let n := h.core.val
     let c := s.core n
     let k : Word := if src = true then (Assoc.get 0 c.s b.toNat).setWidth 32 else count
     let m : Word := Assoc.get 0 c.lcCount lc.toNat
     (s.accepts h (workLoop lc b src count exit) = true → k = 0 →
       exec (.loop h lc b src count exit) s = .next (s.retired n 0x04 c (c.pc.toNat + exit.toNat))) ∧
     (s.accepts h (workLoop lc b src count exit) = true → k ≠ 0 →
       exec (.loop h lc b src count exit) s = .next (s.retired n 0x04
         { c with lcCount := Assoc.put 0 c.lcCount lc.toNat k, lcStart := Assoc.put 0 c.lcStart lc.toNat (c.pc + 16) }
         (c.pc.toNat + 16))) ∧
     (s.accepts h (workEndl lc) = true → 1 < m.toNat →
       exec (.endl h lc) s = .next (s.retired n 0x05 { c with lcCount := Assoc.put 0 c.lcCount lc.toNat (m - 1) }
         (Assoc.get 0 c.lcStart lc.toNat).toNat)) ∧
     (s.accepts h (workEndl lc) = true → m.toNat ≤ 1 →
       exec (.endl h lc) s = .next (s.retired n 0x05 { c with lcCount := Assoc.put 0 c.lcCount lc.toNat 0 } (c.pc.toNat + 16)))) ∧
  (∀ (h : NHdr) (a b c : BitVec 5) (cmp : BitVec 4) (src : Bool) (imm : BitVec 64) (s : State),
     s.accepts h (workSetp a b c cmp src imm) = true →
     let n := h.core.val
     let k := s.core n
     let l := Assoc.get 0 k.s b.toNat
     let r := if src = true then imm else Assoc.get 0 k.s c.toNat
     let f := fun (v : BitVec 64) => f32Val (v.setWidth 32)
     ∃ p : BitVec 16,
       exec (.setp h a b c cmp src imm) s = .next (s.retired n 0x06 { k with p := p } (k.pc.toNat + 16)) ∧
       (∀ j : Nat, j < 16 → j ≠ a.toNat % 16 → readPred p j = readPred k.p j) ∧ readPred p 15 = true ∧
       (a.toNat % 16 ≠ 15 →
         (cmp = 0x0 → readPred p a.toNat = decide (l = r)) ∧ (cmp = 0x1 → readPred p a.toNat = decide (l ≠ r)) ∧
         (cmp = 0x2 → readPred p a.toNat = decide (l.toInt < r.toInt)) ∧ (cmp = 0x3 → readPred p a.toNat = decide (r.toInt ≤ l.toInt)) ∧
         (cmp = 0x4 → readPred p a.toNat = decide (l.toNat < r.toNat)) ∧ (cmp = 0x5 → readPred p a.toNat = decide (r.toNat ≤ l.toNat)) ∧
         (cmp = 0x6 → readPred p a.toNat = decide (l.toInt ≤ r.toInt)) ∧ (cmp = 0x7 → readPred p a.toNat = decide (r.toInt < l.toInt)) ∧
         ((cmp = 0x8 ∨ cmp = 0x9 ∨ cmp = 0xA) → (f l = .nan ∨ f r = .nan) → readPred p a.toNat = false) ∧
         (cmp = 0xB → readPred p a.toNat = (readPred k.p b.toNat && readPred k.p c.toNat)) ∧
         (cmp = 0xC → readPred p a.toNat = (readPred k.p b.toNat || readPred k.p c.toNat)) ∧
         (cmp = 0xD → readPred p a.toNat = (readPred k.p b.toNat && !(readPred k.p c.toNat)))))

/-- R279: MOVI writes s[A] := IMM; ALU writes s[A] := s[B] OP r with r from s[C] or IMM, `aluOp` being the table of operations.
R279: the integer operations of the ALU, as numbers: sums, differences and products modulo 2^64, the high half of the unsigned
product, quotient and remainder with their values for a divisor of 0, shifts by r[5:0], and minima and maxima. -/
def Obligations.MoviAndAluWriteOneRegister : Prop :=
  (∀ (h : NHdr) (a b c : BitVec 5) (op : BitVec 6) (src : Bool) (imm : BitVec 64) (s : State),
     let n := h.core.val
     let k := s.core n
     (s.accepts h (workMovi a imm) = true →
       exec (.movi h a imm) s = .next (s.retired n 0x07 { k with s := Assoc.put 0 k.s a.toNat imm } (k.pc.toNat + 16))) ∧
     (s.accepts h (workAlu a b c op src imm) = true →
       ∃ v, aluOp op (Assoc.get 0 k.s b.toNat) (if src = true then imm else Assoc.get 0 k.s c.toNat) = some v ∧
         exec (.alu h a b c op src imm) s = .next (s.retired n 0x08 { k with s := Assoc.put 0 k.s a.toNat v } (k.pc.toNat + 16)))) ∧
  (∀ l r : BitVec 64,
     (∃ v, aluOp 0x00 l r = some v ∧ v.toNat = (l.toNat + r.toNat) % 2 ^ 64) ∧
     (∃ v, aluOp 0x01 l r = some v ∧ v.toNat = (2 ^ 64 + l.toNat - r.toNat) % 2 ^ 64) ∧
     (∃ v, aluOp 0x02 l r = some v ∧ v.toNat = l.toNat * r.toNat % 2 ^ 64) ∧
     (∃ v, aluOp 0x03 l r = some v ∧ v.toNat = l.toNat * r.toNat / 2 ^ 64) ∧
     (∃ v, aluOp 0x04 l r = some v ∧ v.toNat = if r.toNat = 0 then 2 ^ 64 - 1 else l.toNat / r.toNat) ∧
     (∃ v, aluOp 0x05 l r = some v ∧ v.toNat = if r.toNat = 0 then l.toNat else l.toNat % r.toNat) ∧
     aluOp 0x08 l r = some (l &&& r) ∧ aluOp 0x09 l r = some (l ||| r) ∧ aluOp 0x0A l r = some (l ^^^ r) ∧
     (∃ v, aluOp 0x0C l r = some v ∧ v.toNat = l.toNat * 2 ^ (r.toNat % 64) % 2 ^ 64) ∧
     (∃ v, aluOp 0x0D l r = some v ∧ v.toNat = l.toNat / 2 ^ (r.toNat % 64)) ∧
     (∃ v, aluOp 0x0E l r = some v ∧ v.toInt = l.toInt / 2 ^ (r.toNat % 64)) ∧
     (∃ v, aluOp 0x10 l r = some v ∧ v.toInt = min l.toInt r.toInt) ∧ (∃ v, aluOp 0x11 l r = some v ∧ v.toInt = max l.toInt r.toInt) ∧
     (∃ v, aluOp 0x12 l r = some v ∧ v.toNat = min l.toNat r.toNat) ∧ (∃ v, aluOp 0x13 l r = some v ∧ v.toNat = max l.toNat r.toNat) ∧
     (∀ op : BitVec 6, aluOp op l r = none ↔ op ∉ [0x00#6, 0x01#6, 0x02#6, 0x03#6, 0x04#6, 0x05#6, 0x08#6, 0x09#6, 0x0A#6, 0x0C#6,
       0x0D#6, 0x0E#6, 0x10#6, 0x11#6, 0x12#6, 0x13#6, 0x20#6, 0x21#6, 0x22#6, 0x23#6, 0x24#6, 0x28#6, 0x29#6]))

/-- R280: LDTD writes td[B] := the 32 little-endian bytes at s[A] + IMM; an address outside the core's own Salon faults
REGION_BOUNDS. R281: TDMOD adds v to one of the fields 0x0 to 0x6 of td[A], modulo the field's width, and every other bit stays. -/
def Obligations.LdtdAndTdmodWriteDescriptors : Prop :=
  ∀ (h : NHdr) (a b : BitVec 5) (off : BitVec 48) (field : BitVec 4) (src : Bool) (imm : BitVec 64) (s : State),
    let n := h.core.val
    let c := s.core n
    let p := ((Assoc.get 0 c.s a.toNat).toNat + off.toNat) % 2 ^ 48
    let v := if src = true then imm else Assoc.get 0 c.s b.toNat
    (s.starts h (workLdtd a b off) = true → inSalon n p 32 = true → s.accessFault n false [(p, 32)] = none →
      (∀ l ∈ linesOf p 32, s.slotOf l = none) →
      exec (.ldtd h a b off) s = .next (s.retired n 0x09
        { c with td := Assoc.put 0 c.td b.toNat (BitVec.ofNat 256 (leNat (s.readBytes p 32))) } (c.pc.toNat + 16))) ∧
    (s.starts h (workLdtd a b off) = true → inSalon n p 32 = false →
      exec (.ldtd h a b off) s = .next { s with
        cores := Assoc.put {} s.cores n { c with stopped := true, waits := [] },
        reports := s.reports ++ [⟨c.job, 0x0204#16, c.kbase + c.pc.setWidth 32, BitVec.ofNat 16 n, kindCode p, [], s.hclk⟩] }) ∧
    (s.accepts h (workTdmod a b field src imm) = true →
      ∃ d : TileReg,
        exec (.tdmod h a b field src imm) s = .next (s.retired n 0x0A { c with td := Assoc.put 0 c.td a.toNat d } (c.pc.toNat + 16)) ∧
        (∀ lo w : Nat, (field, lo, w) ∈ [(0x0#4, 0, 48), (0x1#4, 64, 48), (0x2#4, 128, 48), (0x3#4, 192, 16), (0x4#4, 208, 24),
            (0x5#4, 232, 24), (0x6#4, 112, 12)] →
          bitsOf d.toNat lo w = (bitsOf (Assoc.get 0 c.td a.toNat).toNat lo w + v.toNat) % 2 ^ w ∧
          ∀ i, i < lo ∨ lo + w ≤ i → bitAt d.toNat i = bitAt (Assoc.get 0 c.td a.toNat).toNat i))

/-- R314, R272: CSRR writes s[A] := the CSR, CSR.CCYCLE being a count that rises with every read, by at least the CCLK that whole
HCLK give (log entry 6); CSRW of CSR.KEVENT posts s[A][31:0] with the core and the job, unless four packets of the core wait already
(R490); TRAPCFG raises enables and never clears one (R271). R268, R276: HALT waits until every earlier instruction has retired and
every check is compared, and then leaves the core idle; no instruction after it is accepted. -/
def Obligations.SystemInstructions : Prop :=
  (∀ (h : NHdr) (a : BitVec 5) (csr : BitVec 12) (int nan : Bool) (s : State),
     let n := h.core.val
     let c := s.core n
     let next := c.pc.toNat + 16
     (s.accepts h (workCsrr a csr) = true →
       ∃ (v : BitVec 64) (k m : Nat),
         exec (.csrr h a csr) s = .next (s.retired n 0xF0 { c with s := Assoc.put 0 c.s a.toNat v, ccycle := k, ccAt := m } next) ∧
         (csr ≠ 0x003 → k = c.ccycle ∧ m = c.ccAt) ∧
         (csr = 0x003 → v.toNat = k % 2 ^ 48 ∧ m = s.hclk ∧ c.ccycle < k ∧ c.ccycle + 4 * (s.hclk - c.ccAt) ≤ k + 3) ∧
         (csr = 0x000 → v.toNat = n + n / 8 * 2 ^ 8) ∧ (csr = 0x001 → v = c.job.setWidth 64) ∧ (csr = 0x002 → v = c.invoc.setWidth 64) ∧
         (csr = 0x004 → v = c.kbase.setWidth 64) ∧
         (csr = 0x008 → v.getLsbD 0 = c.intTrap ∧ v.getLsbD 1 = c.nanTrap ∧ v.toNat < 4) ∧ (csr = 0x009 → v = c.flags.setWidth 64) ∧
         (csr ∉ [0x000#12, 0x001#12, 0x002#12, 0x003#12, 0x004#12, 0x008#12, 0x009#12] → v = 0)) ∧
     (s.accepts h (workCsrw a csr) = true →
       csr = 0x040 ∧
       ((s.vbWait.filter (fun q => q.kind == 3 && q.num == BitVec.ofNat 12 n)).length < 4 →
         exec (.csrw h a csr) s = .next (({ s with vbWait := s.vbWait ++
             [⟨0x1060, 3, BitVec.ofNat 12 n, c.job, s.time, [((Assoc.get 0 c.s a.toNat).setWidth 32).setWidth 64]⟩] } : State).retired
           n 0xF1 c next))) ∧
     (s.accepts h (workTrapcfg int nan) = true →
       exec (.trapcfg h int nan) s =
         .next (s.retired n 0xF2 { c with intTrap := c.intTrap || int, nanTrap := c.nanTrap || nan } next))) ∧
  (∀ (h : NHdr) (s : State),
     let n := h.core.val
     let c := s.core n
     s.accepts h workHalt = true →
     let t := s.bump (coreReg n 0x168) 1
     ((c.queue = [] ∧ c.checkQ = [] ∧ c.checkNow = none) →
       exec (.halt h) s = .next { t with cores := Assoc.put {} s.cores n { c with halting := false, running := false } }) ∧
     ((c.queue ≠ [] ∨ c.checkQ ≠ [] ∨ c.checkNow ≠ none) →
       exec (.halt h) s = .next { t with cores := Assoc.put {} s.cores n { c with halting := true } }))

/-! Movement, conversion and stores (R282 to R288, R292, R307). -/

/-- R285: XCOPY copies the s[C] bytes at s[A] + IMM to s[B], XFILL fills the s[B] bytes at s[A] + IMM with the pattern s[C]; no other byte
changes. A length off the 8-byte grid faults ALIGNMENT and moves nothing. -/
def Obligations.CopiesAndFillsMoveBytes : Prop :=
  ∀ (h : NHdr) (a b c : BitVec 5) (setFull setEmpty : Bool) (off : BitVec 48) (s : State),
    let n := h.core.val
    let k := s.core n
    let p := ((Assoc.get 0 k.s a.toNat).toNat + off.toNat) % 2 ^ 48
    let q := (Assoc.get 0 k.s b.toNat).toNat
    let v := (Assoc.get 0 k.s c.toNat).toNat
    (s.starts h (workXcopy a b c setFull setEmpty off) = true → v % 8 = 0 →
      s.reaches n { reads := [(p, v)], writes := [(q, v)] } (cellsAt q (s.readBytes p v)) →
      ∃ m : State, exec (.xcopy h a b c setFull setEmpty off) s = .next (m.retires n 0x12) ∧ m = { s with sram := m.sram, hbm := m.hbm } ∧
        (∀ i, i < v → m.memAt (q + i) = some (s.readByte (p + i))) ∧ (∀ x, x < q ∨ q + v ≤ x → m.memAt x = s.memAt x)) ∧
    (s.starts h (workXfill a b c setFull off) = true → q % 8 = 0 →
      s.reaches n { reads := [], writes := [(p, q)] } (cellsAt p ((List.range q).map (fun i => BitVec.ofNat 8 (v / 2 ^ (8 * (i % 8)))))) →
      ∃ m : State, exec (.xfill h a b c setFull off) s = .next (m.retires n 0x13) ∧ m = { s with sram := m.sram, hbm := m.hbm } ∧
        (∀ i, i < q → m.memAt (p + i) = some (BitVec.ofNat 8 (v / 2 ^ (8 * (i % 8))))) ∧
        (∀ x, x < p ∨ p + q ≤ x → m.memAt x = s.memAt x)) ∧
    (s.takes h (workXcopy a b c setFull setEmpty off) = true → v % 8 ≠ 0 →
      exec (.xcopy h a b c setFull setEmpty off) s = .next (s.faulted n 0x0302#16 (kindCode p))) ∧
    (s.takes h (workXfill a b c setFull off) = true → q % 8 ≠ 0 →
      exec (.xfill h a b c setFull off) s = .next (s.faulted n 0x0302#16 (kindCode p)))

/-- R283, R284, R307: XLOAD and an ungoverned XSTORE copy a tile of the destination's format, group and layout as it is (`copyTile`); XLOAD
otherwise and CCONV write the destination through the conversion rules (`Td.put`), with 0 beyond the source. The job's flags take
the conversion's, and a produced NaN is recorded and traps when the core's enable is 1 (R106). -/
def Obligations.TileMovesConvert : Prop :=
  ∀ (h : NHdr) (a b c : BitVec 5) (setFull setEmpty scl : Bool) (s : State),
    let n := h.core.val
    let k := s.core n
    let dst := Td.of (Assoc.get 0 k.td a.toNat)
    let src := Td.of (Assoc.get 0 k.td b.toNat)
    let cut := src.cutTo dst
    let word := lowWord (Assoc.get 0 k.s c.toNat)
    let sc := if scl = true then scaleOf word else (1, 0)
    let warn : BitVec 11 := if scl = true ∧ f32PosFinite word = false then flagInexact else 0
    let conv := dst.put s.readByte k.satNan sc.1 sc.2
      (fun r j => if src.rows < r ∨ src.kext < j then .fin false 0 0 else src.value s.readByte sc.1 sc.2 r j) (fun _ _ => false)
    let same := dst.fmt = src.fmt ∧ dst.gsize = src.gsize ∧ dst.grouped = src.grouped ∧ scl = false
    let o := if same then copyTile dst src s.readByte else conv
    let w : MemWork := { reads := cut.ranges, writes := dst.ranges, check := seqCheck cut }
    let ends := fun (i : Instr) (op : Nat) (o : TileOut) =>
      let m := (s.writeCells o.img).coreFlags n (o.flags ||| warn)
      (o.nan = none → exec i s = .next (m.retires n op)) ∧
      (∀ e, o.nan = some e →
        let r := m.nanRecord n k.iaddr op { tensor := dst.tensor, source := 0, index := e }
        exec i s = .next (if k.nanTrap = true then r.faulted n 0x0101#16 0 else r.retires n op))
    (s.starts h (workXload a b c setFull setEmpty scl) = true → outOfSalon n dst.ranges = none → s.reaches n w o.img →
      ends (.xload h a b c setFull setEmpty scl) 0x10 o) ∧
    (s.starts h (workXstore a b c setFull setEmpty scl) = true → outOfSalon n cut.ranges = none → s.reaches n w o.img → same →
      dst.spf = 0 → (dst.gov = false ∨ s.governs n dst.tensor = none) → k.docY ≠ some dst.tensor →
      ends (.xstore h a b c setFull setEmpty scl) 0x11 o) ∧
    (s.starts h (workCconv a b c scl) = true → outOfSalon n (dst.ranges ++ cut.ranges) = none → s.reaches n w conv.img →
      ends (.cconv h a b c scl) 0x64 conv)

/-- R124, R131, R284, R292: XSTORE in another format and RESCALE write their tile in the format and with the scale in force
(`inForce`), count it in the range monitor of a governed tensor (R119), flag a zero group (R126), and give the samples that a dense
run computes their stored y (R185). RESCALE's values are the raw sums times s[C] and, with TBL, times the table's word of the
column. Stated for dense tiles without outliers outside a measuring pass. R117, R124: a governed tensor is stored in the width of
its FORCE field, signed or not as its record says, with the scale that its slot holds and the outlier list that the record asks for;
any other tensor as its descriptor says. -/
def Obligations.StoresUseTheFormatInForce : Prop :=
  (∀ (h : NHdr) (a b c : BitVec 5) (setFull setEmpty scl tbl int : Bool) (table : BitVec 48) (s : State),
     let n := h.core.val
     let k := s.core n
     let dst := Td.of (Assoc.get 0 k.td a.toNat)
     let src := Td.of (Assoc.get 0 k.td b.toNat)
     let cut := src.cutTo dst
     let word := lowWord (Assoc.get 0 k.s c.toNat)
     let sc := if scl = true then scaleOf word else (1, 0)
     let warn : BitVec 11 := if scl = true ∧ f32PosFinite word = false then flagInexact else 0
     let same := dst.fmt = src.fmt ∧ dst.gsize = src.gsize ∧ dst.grouped = src.grouped ∧ scl = false
     let ext := s.extents n dst.tensor
     let chan := fun j => (Assoc.get 0 k.s 0).toNat + j
     let inside := fun r j => decide ((Assoc.get 0 k.s 1).toNat + r < ext.1 ∧ chan j < ext.2)
     let out := fun (f : InForce) (v : Nat → Nat → Val) => f.td.put s.readByte k.satNan f.sm f.se v (fun _ _ => false)
     let after := fun (f : InForce) (v : Nat → Nat → Val) (fl : BitVec 11) =>
       let m := s.writeCells (out f v).img
       let m := match f.rc with
         | none => m
         | some r => m.setTempoX dst.tensor ((s.tempoX dst.tensor).measure f.td r.track false f.sm f.se v chan inside (fun _ _ => false))
       let m := m.seeSamples n dst.tensor (Assoc.get 0 k.s 1).toNat (Assoc.get 0 k.s 0).toNat f.td v
       m.coreFlags n (fl ||| (out f v).flags |||
         (if f.rc.isSome = true ∧ f.td.zeroGroup v inside (fun _ _ => false) = true then flagZeroRange else 0))
     let w := fun (f : InForce) (tab : List (Nat × Nat)) (check : (Nat → Byte) → Option (Half × Half)) =>
       ({ reads := cut.ranges ++ tab, writes := f.td.ranges, check := check } : MemWork)
     dst.spf = 0 → k.docY ≠ some dst.tensor →
     (let f := s.inForce n dst sc.1 sc.2
       let v := fun r j => if src.rows < r ∨ src.kext < j then .fin false 0 0 else src.value s.readByte sc.1 sc.2 r j
       s.starts h (workXstore a b c setFull setEmpty scl) = true → outOfSalon n cut.ranges = none → ¬ same → f.list = [] → f.mute = false →
       s.reaches n (w f [] (seqCheck cut)) (out f v).img → (out f v).nan = none →
       exec (.xstore h a b c setFull setEmpty scl) s = .next ((after f v warn).retires n 0x11)) ∧
     (let f := s.inForce n dst 1 0
       let tab := if tbl = true then [(table.toNat, 4 * (dst.kext + 1))] else []
       let y := fun r j => rescaleElem k.ftz int (if src.rows < r ∨ src.kext < j then 0 else BitVec.ofNat 32 (src.code s.readByte r j)) word
         (if tbl = true then some (BitVec.ofNat 32 (rdNat s.readByte (table.toNat + 4 * j) 4)) else none)
       let v := fun r j => f32Val (y r j).1
       s.starts h (workRescale a b c tbl int setFull table) = true → outOfSalon n (cut.ranges ++ tab) = none → f.list = [] → f.mute = false →
       s.reaches n (w f tab (fun _ => none)) (out f v).img → (out f v).nan = none →
       (∀ r j, r ≤ dst.rows → j ≤ dst.kext → (y r j).2.2 = false) →
       exec (.rescale h a b c tbl int setFull table) s = .next ((after f v
         (if (List.range (dst.rows + 1)).any (fun r => (List.range (dst.kext + 1)).any (fun j => (y r j).2.1)) then flagFlushed else 0)).retires
           n 0x40))) ∧
  (∀ (s : State) (n : Nat) (dst : Td) (sm : Nat) (se : Int),
     ((dst.gov = false ∨ s.governs n dst.tensor = none) → s.inForce n dst sm se = ⟨dst, sm, se, none, [], false⟩) ∧
     (∀ r, dst.gov = true → s.governs n dst.tensor = some r →
       let f := s.inForce n dst sm se
       let w := s.fld (tempoSlot dst.tensor 0x20) 11 3 + 1
       f.td = { dst with fmt := (if r.signed = true then 0x10 else 0) + w } ∧ f.rc = some r ∧
       (f.sm, f.se) = scaleOf (BitVec.ofNat 32 (s.fld (tempoSlot dst.tensor 0x28) 0 32)) ∧
       f.list = (if r.outliers = 0 then [] else (s.tempoX dst.tensor).nextList) ∧
       f.mute = ((s.tempoX dst.tensor).measuring && (s.core n).measuring)))

/-- R219, R286: VLOAD of a dense operand writes plane i of row 128e + r of chunk j, one bit a lane, into slot SLOT + i of engine e and marks the
slots FULL; R287: of an activation chunk, plane i of position p into unit p·wa + i of slot SLOT. No memory and no other core changes. -/
def Obligations.VloadFillsPlanes : Prop :=
  ∀ (h : NHdr) (a c : BitVec 5) (slot : BitVec 4) (off : BitVec 32) (s : State),
    let n := h.core.val
    let k := s.core n
    let t := Td.of (Assoc.get 0 k.td a.toNat)
    let j := ((Assoc.get 0 k.s c.toNat).setWidth 32 + off).toNat
    let next := k.pc.toNat + 16
    t.spf = 0 → t.grouped = false →
    (s.starts h (workVload a c false slot 0 false off) = true → k.slotsBusy (slotMask slot.toNat t.width) 0 = false →
      s.reaches n { reads := (List.range 16).flatMap (fun e => t.engineRanges j e), writes := [], groups := some (weightGroups (t.engineRanges j)) } [] →
      ∃ v : CoreSt, exec (.vload h a c false slot 0 false off) s = .next (s.retired n 0x14 v next) ∧
        v = { k with wRow := v.wRow, wMask := v.wMask, wSide := v.wSide, wAbsent := v.wAbsent, wFull := k.wFull ||| slotMask slot.toNat t.width } ∧
        (∀ e r i l, e < 16 → r < 128 → 128 * e + r ≤ t.rows → i < t.width → l < 256 →
          bitAt (Assoc.get 0 v.wRow (wKey (slot.toNat + i) e r)).toNat l =
            (decide (256 * j + l ≤ t.kext) && bitAt (t.code s.readByte (128 * e + r) (256 * j + l)) i)) ∧
        (∀ key, key < slot.toNat * 2048 ∨ (slot.toNat + t.width) * 2048 ≤ key → Assoc.get 0 v.wRow key = Assoc.get 0 k.wRow key)) ∧
    (s.starts h (workVload a c true slot 0 false off) = true → k.slotsBusy 0 (slotMask slot.toNat (ceilDiv (16 * t.width * 32) 4096)) = false →
      s.reaches n { reads := if t.kext < 256 * j then [] else t.winRanges 0 (min 16 (t.rows + 1)) (256 * j) (min (256 * j + 255) t.kext),
                    writes := [], groups := some [] } [] →
      ∃ v : CoreSt, exec (.vload h a c true slot 0 false off) s = .next (s.retired n 0x14 v next) ∧
        v = { k with aUnit := v.aUnit, aSide := v.aSide, aFull := k.aFull ||| slotMask slot.toNat (ceilDiv (16 * t.width * 32) 4096) } ∧
        (∀ p i l, p < 16 → p ≤ t.rows → i < t.width → l < 256 →
          bitAt (Assoc.get 0 v.aUnit (aKey slot.toNat (p * t.width + i))).toNat l =
            (decide (256 * j + l ≤ t.kext) && bitAt (t.code s.readByte p (256 * j + l)) i)) ∧
        (∀ key, key < slot.toNat * 128 ∨ (slot.toNat + ceilDiv (16 * t.width * 32) 4096) * 128 ≤ key →
          Assoc.get 0 v.aUnit key = Assoc.get 0 k.aUnit key))

/-! Array (R89, R97, R100 to R103, R256 to R258, R289 to R291). -/

/-- R100, R103, R289: an array product issues when every array instruction before it has issued, the product ahead of it is in its
last chunk, its tile is free and its slots are FULL: it takes an issued entry with its captured operands, and its first fill counts
in CORE.REFILL_STALL (R59; log entry 39); a product with ACC = 0, or on a CLEAR tile, first clears the tile's units and gives them
its kind. A tile of another kind is illegal with 0x0004, and a product that is not ready only waits in its queue. -/
def Obligations.ArrayProductsIssue : Prop :=
  ∀ (h : NHdr) (f : ArrayFields) (op : Nat) (i : Instr) (s : State),
    (op, i) ∈ [(0x30, Instr.bsmm h f), (0x31, Instr.bsmm2 h f), (0x32, Instr.bsmmb h f), (0x33, Instr.bxnor h f)] →
    let n := h.core.val
    let k := s.core n
    let x := k.ctx n op
    let us := if f.mode = 1 then (List.range 8).map (fun u => 8 * (f.tile.toNat % 4) + u) else [f.tile.toNat]
    let want := if f.mode = 1 then 2 else 1
    let kind := fun (t : State) u => t.fld (coreReg n 0xD8) (2 * u) 2
    let ready := k.starts .array true = true ∧ k.unitsBusy (unitMask us) = false ∧ (arrSlots f x).1 &&& ~~~k.wFull = 0 ∧ (arrSlots f x).2 &&& ~~~k.aFull = 0
    let clears := f.acc = false ∨ ∀ u ∈ us, kind s u = 0
    let adds := f.acc = true ∧ ∀ u ∈ us, kind s u = want
    s.accepts h (workProduct op f) = true →
    (ready → clears ∨ adds →
      ∃ (t : State) (q : QEntry) (acm : Assoc Word), exec i s = .next t ∧
        t = { s with reg := t.reg, fresh := s.fresh + 1,
                     cores := Assoc.put {} s.cores n
                       { k with pc := BitVec.ofNat 16 (k.pc.toNat + 16), queue := k.queue ++ [q], acm := acm } } ∧
        q.instr = i ∧ q.issued = true ∧ q.chunk = 0 ∧ q.s = k.s ∧ q.td = k.td ∧ q.units = unitMask us ∧ q.chunks = arrNch f x ∧
        (∀ u, u < 32 → kind t u = if u ∈ us then want else kind s u) ∧
        (clears → ∀ key, Assoc.get 0 acm key = if key % 65536 / 2048 ∈ us then 0 else Assoc.get 0 k.acm key) ∧
        (clears → f.mode = 1 → t.rget (coreReg n (0xE0 + 8 * (f.tile.toNat % 4))) = 0) ∧
        (adds ∨ f.mode ≠ 1 → t.rget (coreReg n (0xE0 + 8 * (f.tile.toNat % 4))) = s.rget (coreReg n (0xE0 + 8 * (f.tile.toNat % 4)))) ∧
        (adds → acm = k.acm) ∧ t.fld (coreReg n 0x018) 0 48 = (s.fld (coreReg n 0x018) 0 48 + firstFill f x s) % 2 ^ 48 ∧
        t.fld (coreReg n 0x168) 0 48 = (s.fld (coreReg n 0x168) 0 48 + 1) % 2 ^ 48 ∧
        (∀ off, off ≠ coreReg n 0xD8 → off ≠ coreReg n 0x168 → off ≠ coreReg n 0x018 → off ≠ coreReg n (0xE0 + 8 * (f.tile.toNat % 4)) → t.rget off = s.rget off)) ∧
    (ready → ¬ clears → ¬ adds → exec i s = .next (s.faulted n 0x0301#16 0x0004#16)) ∧
    (¬ ready → ∃ (t : State) (q : QEntry), exec i s = .next t ∧
      t = { s with reg := t.reg, cores := Assoc.put {} s.cores n { k with pc := BitVec.ofNat 16 (k.pc.toNat + 16), queue := k.queue ++ [q] } } ∧
      q.instr = i ∧ q.issued = false)

/-- R290: AZERO zeroes the elements of the named units, marks them CLEAR and clears LEVELS, SPINE and CHUNKS of the float tiles
that hold one; the other units keep kind and contents. R291: ADRAIN without a row map and without O writes the word of every element,
an integer unit's as it stands and a float tile's by the drain order of R97 (`drainElem`), and leaves the tile as it is. -/
def Obligations.AzeroAndAdrain : Prop :=
  ∀ (h : NHdr) (a b tile : BitVec 5) (mode : BitVec 2) (units : BitVec 32) (s : State),
    let n := h.core.val
    let k := s.core n
    let dst := Td.of (Assoc.get 0 k.td a.toNat)
    let named := fun u => bitAt units.toNat u
    let kind := fun (t : State) u => t.fld (coreReg n 0xD8) (2 * u) 2
    let fst := coreReg n (0xE0 + 8 * (tile.toNat % 4))
    let us := tileUnits (mode == 1) tile.toNat
    let word := fun row p =>
      if mode = 1 then
        if kind s (8 * (tile.toNat % 4)) = 0 then 0
        else drainElem k.ftz (s.fld fst 0 7) (decide (s.fld fst 7 1 = 1)) (fun i => Assoc.get 0 k.acm (floatKey tile.toNat row p i))
      else Assoc.get 0 k.acm (intKey tile.toNat row p)
    let place := (List.range 2048).flatMap (fun j =>
      if dst.kext < j then [] else (List.range (min 16 (dst.rows + 1))).map (fun p => (j, p)))
    let cells := place.flatMap (fun e => cellsAt ((dst.loc e.2 e.1).1 + (dst.loc e.2 e.1).2 / 8) (leBytes 4 (word e.1 e.2).toNat))
    let writes := (dedupNat (place.map (fun e => (dst.loc e.2 e.1).1 + (dst.loc e.2 e.1).2 / 64 * 8))).map (fun p => (p, 8))
    (s.takes h (workAzero units) = true → k.unitsBusy units = false →
      ∃ (m : State) (acm : Assoc Word), exec (.azero h units) s = .next (m.retires n 0x34) ∧
        m = { s with reg := m.reg, cores := Assoc.put {} s.cores n { k with acm := acm } } ∧
        (∀ u, u < 32 → kind m u = if named u = true then 0 else kind s u) ∧
        (∀ key, Assoc.get 0 acm key = if named (key % 65536 / 2048) = true then 0 else Assoc.get 0 k.acm key) ∧
        (∀ t, t < 4 → m.rget (coreReg n (0xE0 + 8 * t)) =
          if (List.range 8).any (fun i => named (8 * t + i)) then 0 else s.rget (coreReg n (0xE0 + 8 * t))) ∧
        (∀ off, off ≠ coreReg n 0xD8 → (∀ t, t < 4 → off ≠ coreReg n (0xE0 + 8 * t)) → m.rget off = s.rget off)) ∧
    (s.starts h (workAdrain a b tile false mode) = true → k.unitsBusy (unitMask us) = false → dst.map = false →
      ((∀ u ∈ us, kind s u = 0) ∨ (∀ u ∈ us, kind s u = if mode = 1 then 2 else 1)) → outOfSalon n writes = none →
      s.reaches n { reads := [], writes := writes } cells →
      exec (.adrain h a b tile false mode) s = .next ((s.writeCells cells).retires n 0x35)) ∧
    (s.accepts h (workAdrain a b tile false mode) = true → k.starts .array false = true → k.unitsBusy (unitMask us) = false →
      (∃ u ∈ us, kind s u ≠ 0) → (∃ u ∈ us, kind s u ≠ if mode = 1 then 2 else 1) →
      exec (.adrain h a b tile false mode) s = .next (s.faulted n 0x0301#16 0x0004#16))

/-! Precision (R293 to R295). -/

/-- R293: RANGE writes into s[A] the largest finite magnitude of the tile, capped at the largest finite binary32 value (`magWord`), and bit 32 when
an element is NaN or infinite. R294: TEMPO reads a slot's scale, width, wide-operand code and VALID, and 0 for an ungoverned tensor. -/
def Obligations.RangeAndTempoReport : Prop :=
  ∀ (h : NHdr) (a b : BitVec 5) (sel : Bool) (tensor : BitVec 12) (s : State),
    let n := h.core.val
    let k := s.core n
    let t := Td.of (Assoc.get 0 k.td b.toNat)
    let vs := t.values s.readByte
    let slot := fun off lo w => s.fld (tempoSlot tensor.toNat off) lo w
    (s.starts h (workRange a b) = true →
      s.reaches n { reads := t.allRanges s.readByte, writes := [], check := fun rd =>
        if t.spf = 0 then seqCheck t rd else if t.spf = 6 then none else t.chunkSeq rd 0 t.kdim t.mdim } [] →
      ∃ v : DWord, exec (.range h a b) s = .next (s.retired n 0x41 { k with s := Assoc.put 0 k.s a.toNat v } (k.pc.toNat + 16)) ∧
        (v.toNat / 2 ^ 32 = if vs.any (fun x => !(valFinite x)) then 1 else 0) ∧ (∀ x ∈ vs, (magWord x).toNat ≤ v.toNat % 2 ^ 32) ∧
        (v.toNat % 2 ^ 32 = 0 ∨ ∃ x ∈ vs, (magWord x).toNat = v.toNat % 2 ^ 32)) ∧
    (s.takes h (workTempo a sel tensor) = true →
      ∃ v : DWord, exec (.tempo h a sel tensor) s = .next (s.retired n 0x42 { k with s := Assoc.put 0 k.s a.toNat v } (k.pc.toNat + 16)) ∧
        (s.governs n tensor.toNat = none → v = 0) ∧
        (∀ j r, s.job k.job.toNat = some j → jobTempo j tensor.toNat = some r → jobWide j tensor.toNat < 4 →
          fget v 0 32 = (if sel = true then slot 0x28 0 32 else slot 0x20 32 32) ∧
          fget v 32 3 = (if jobWide j tensor.toNat ≠ 0 then 7 else if sel = true then slot 0x20 11 3 else slot 0x20 8 3) ∧
          fget v 35 2 = jobWide j tensor.toNat ∧
          (fget v 63 1 = if sel = true then slot 0x20 14 1 else if (s.tempoX tensor.toNat).prodValid = true then 1 else 0)))

/-- R295: OUTSPLIT moves the listed channels of every row of tile A, rounded to XF16, to the columns of tile B in the list's order, and
puts code 0 in their places. A list that breaks R115 faults COUNT_MISMATCH, one longer than tile B BUFFER_SIZE 0x0003. -/
def Obligations.OutsplitMovesChannels : Prop :=
  ∀ (h : NHdr) (a b c : BitVec 5) (setFull : Bool) (s : State),
    let n := h.core.val
    let k := s.core n
    let t := Td.of (Assoc.get 0 k.td a.toNat)
    let d := Td.of (Assoc.get 0 k.td b.toNat)
    let p := (Assoc.get 0 k.s c.toNat).toNat
    let l := listOf s.readByte p
    let cols := (List.range l.length).zip l
    let code := fun r j => colXF16.encode k.satNan (t.value s.readByte 1 0 r j)
    let words := fun (u : Td) (ks : List Nat) => (List.range (t.rows + 1)).flatMap (fun r =>
      ks.map (fun j => (((u.loc r j).1 + (u.loc r j).2 / 64 * 8, 8) : Nat × Nat)))
    let img := foldOver (fun o r => foldOver (fun (o : Assoc Byte) (e : Nat × Nat) =>
        putBits s.readByte (putBits s.readByte o (d.loc r e.1).1 (d.loc r e.1).2 16 (code r e.2).code) (t.loc r e.2).1 (t.loc r e.2).2 t.width 0)
      o cols) [] (List.range (t.rows + 1))
    let flags := foldOver (fun fl r => foldOver (fun (fl : BitVec 11) j => fl ||| (code r j).flags) fl l) 0 (List.range (t.rows + 1))
    let w : MemWork :=
      { reads := [(p, 8 + 4 * listCount s.readByte p)] ++ t.ranges,
        writes := words t (l.filter (fun j => decide (j ≤ t.kext))) ++ words d ((List.range l.length).filter (fun j => decide (j ≤ d.kext))) }
    s.starts h (workOutsplit a b c setFull) = true → s.reaches n w img →
    (listOk l (t.kext + 1) = true → l.length ≤ d.kext + 1 → seqCheck t s.readByte = none → (∀ r, r ≤ t.rows → ∀ j ∈ l, (code r j).nan = false) →
      exec (.outsplit h a b c setFull) s = .next (((s.writeCells img).coreFlags n flags).retires n 0x43)) ∧
    (listOk l (t.kext + 1) = false → exec (.outsplit h a b c setFull) s = .next (s.faulted n 0x0303#16 0)) ∧
    (listOk l (t.kext + 1) = true → d.kext + 1 < l.length → exec (.outsplit h a b c setFull) s = .next (s.faulted n 0x0301#16 0x0003#16))

/-! Sparse, prediction and Catalogue (R296 to R301). -/

/-- R296: QPREP names the operand and the chunks that the Quadrille holds and keeps every metadata byte of them; for FE it keeps
the rows and segments that the entry list names (`Td.feStage`). Dropped items count in CORE.QUAD_DROPS (R162). -/
def Obligations.QprepStagesMetadata : Prop :=
  ∀ (h : NHdr) (a b : BitVec 5) (first : BitVec 32) (count : BitVec 16) (s : State),
    let n := h.core.val
    let k := s.core n
    let t := Td.of (Assoc.get 0 k.td a.toNat)
    let cnt := count.toNat + 1
    let js := (List.range cnt).map (fun i => first.toNat + i)
    let metas := js.flatMap (fun j => t.metaRanges s.readByte j)
    let p := (Assoc.get 0 k.s b.toNat).toNat
    let es := (List.range cnt).map (fun i => sortEntry s.readByte p i)
    s.starts h (workQprep a b first count) = true →
    (t.spf ≠ 6 →
      s.reaches n { reads := metas ++ (if t.is24 then js.flatMap (fun j => t.dataRanges s.readByte j) else []), writes := [], groups := some [],
                    check := fun rd => js.findSome? (fun j => t.metaCheck rd j) } [] →
      ∃ st : Assoc Byte, exec (.qprep h a b first count) s = .next
          ((({ s with cores := Assoc.put {} s.cores n { k with quad :=
              { k.quad with tensor := t.tensor, spf := t.spf, base := t.base, first := first.toNat, count := cnt, staged := st } } } : State).quadDrops n
            (foldOver (fun m j => m + t.metaDrops s.readByte j) 0 js)).retires n 0x50) ∧
        (∀ r ∈ metas, ∀ i, i < r.2 → Assoc.find st (r.1 + i) = some (s.readByte (r.1 + i)))) ∧
    (t.spf = 6 →
      s.reaches n { reads := (p, 16 * cnt) :: t.feRanges s.readByte es, writes := [], groups := some [],
                    check := fun rd => t.feCheck rd ((List.range cnt).map (fun i => sortEntry rd p i)) } [] →
      exec (.qprep h a b first count) s = .next
        ((({ s with cores := Assoc.put {} s.cores n { k with quad :=
            { k.quad with tensor := t.tensor, spf := 6, base := t.base, first := 0, count := cnt,
                          rows := es.map (fun e => (t.feStage s.readByte e).1), staged := [] } } } : State).quadDrops n
          (foldOver (fun m e => m + (t.feStage s.readByte e).2) 0 es)).retires n 0x50))

/-- R297: DOCENT writes the active set (R177 to R179: `DocRec.active`, with U and V as the job's Curators placed them) of each position as a bitmap, one every 64·ceil(N/512) bytes from s[B], and counts positions
and active neurons in its cluster; a slot that the job does not hold faults REGION_BOUNDS 0x00FF. R298: GATHERA writes, in every row of tile A, the codes of
tile B at the union of the staged rows' coordinates and the union's length into s[C]; a union longer than tile A faults BUFFER_SIZE. -/
def Obligations.DocentAndGathera : Prop :=
  ∀ (h : NHdr) (a b c : BitVec 5) (slot : BitVec 10) (s : State),
    let n := h.core.val
    let k := s.core n
    let t := Td.of (Assoc.get 0 k.td a.toNat)
    let src := Td.of (Assoc.get 0 k.td b.toNat)
    let p := (Assoc.get 0 k.s b.toNat).toNat
    let u := unionOf k.quad.rows
    let cut := { t with kext := u.length - 1 }
    let pick := fun r j => if src.rows < r ∨ src.kext < j then 0 else src.code s.readByte r j
    let img := foldOver (fun o r => foldOver (fun (o : Assoc Byte) (e : Nat × Nat) =>
        putBits s.readByte o (t.loc r e.1).1 (t.loc r e.1).2 t.width (pick r e.2)) o ((List.range u.length).zip u)) [] (List.range (t.rows + 1))
    (∀ r j, s.starts h (workDocent a b slot) = true → s.docHeld slot.toNat k.job = some r → s.job k.job.toNat = some j →
      let rows := min 16 (t.rows + 1)
      let top := { t with rows := rows - 1 }
      let tau := BitVec.ofNat 32 (s.fld (docentSlot slot.toNat 0) 0 32)
      let sc := s.inputScale n t.tensor
      let uv := s.predictor j slot.toNat (n / 64) r
      let act := fun i => r.active uv (j.docDim (s.docX slot.toNat).layer) tau top s.readByte sc.1 sc.2 i
      let bytes := 8 * ceilDiv (r.neurons + 1) 64
      let pitch := 64 * ceilDiv (r.neurons + 1) 512
      let cells := (List.range rows).flatMap (fun i => cellsAt (p + i * pitch) (leBytes bytes (foldOver (fun v e => v + 2 ^ e) 0 (act i))))
      s.reaches n { reads := top.ranges, writes := (List.range rows).map (fun i => (p + i * pitch, bytes)), check := seqCheck top } cells →
      exec (.docent h a b slot) s = .next ((((s.writeCells cells).bump (cluReg (n / 8) 0x20) rows).bump (cluReg (n / 8) 0x28)
        (foldOver (fun m i => m + (act i).length) 0 (List.range rows))).retires n 0x51)) ∧
    (s.takes h (workDocent a b slot) = true → s.docHeld slot.toNat k.job = none →
      exec (.docent h a b slot) s = .next (s.faulted n 0x0204#16 0x00FF#16)) ∧
    (s.starts h (workGathera a b c) = true → u.length ≤ t.kext + 1 →
      s.reaches n { reads := src.ranges, writes := if u.isEmpty then [] else cut.ranges } img →
      exec (.gathera h a b c) s = .next ((s.writeCells img).retired n 0x52
        { k with quad := { k.quad with union := u }, s := Assoc.put 0 k.s c.toNat (BitVec.ofNat 64 u.length) } (k.pc.toNat + 16))) ∧
    (s.takes h (workGathera a b c) = true → t.kext + 1 < u.length →
      exec (.gathera h a b c) s = .next (s.faulted n 0x0301#16 0x0003#16))

/-- R299: CATADD adds every word of a tile into the Catalogue of its Hall under TENSOR and the index s[B] + row·STRIDE + column (`State.catAdd`,
R196); a tensor that the job has not registered, or an index beyond its extent, faults REGION_BOUNDS with the tensor. CATFLUSH leaves no valid
entry of the tensor in that Hall (R199). Both add nothing in a measuring pass. Where no addition saturates or produces a NaN. -/
def Obligations.CataddAndCatflush : Prop :=
  ∀ (h : NHdr) (a b : BitVec 5) (tensor : BitVec 12) (stride : BitVec 32) (s : State),
    let n := h.core.val
    let k := s.core n
    let t := { Td.of (Assoc.get 0 k.td a.toNat) with fmt := 0x24, scale := 0, spf := 0 }
    let hall := n / 64
    let base := (Assoc.get 0 k.s b.toNat).toNat
    let ws := (List.range (t.rows + 1)).flatMap (fun r => (List.range (t.kext + 1)).map (fun j =>
      (base + r * stride.toNat + j, BitVec.ofNat 32 (t.code s.readByte r j))))
    (s.starts h (workCatadd a b tensor stride) = true → t.map = false → s.reaches n { reads := t.ranges, writes := [] } [] →
      (k.measuring = true → exec (.catadd h a b tensor stride) s = .next (s.retires n 0x53)) ∧
      (k.measuring = false → ∀ r, s.catReg hall tensor.toNat k.job = some r → (∀ e ∈ ws, e.1 < r.extent) →
        let add := fun (u : State × Bool) (e : Nat × Word) =>
          let q := u.1.catAdd hall r.isF32 k.ftz tensor.toNat e.1 e.2
          (q.1, u.2 && !q.2.sat && !q.2.nan)
        (foldOver add (s, true) ws).2 = true → exec (.catadd h a b tensor stride) s = .next ((foldOver add (s, true) ws).1.retires n 0x53)) ∧
      (k.measuring = false → (s.catReg hall tensor.toNat k.job = none ∨ ∃ r, s.catReg hall tensor.toNat k.job = some r ∧ r.extent ≤ base) →
        exec (.catadd h a b tensor stride) s = .next (s.faulted n 0x0204#16 (tensor.setWidth 16)))) ∧
    (s.takes h (workCatflush tensor) = true →
      (k.measuring = true → exec (.catflush h tensor) s = .next (s.retires n 0x54)) ∧
      (k.measuring = false →
        let q := s.flush hall k.ftz (fun e => e.tensor == tensor.toNat) 0
        q.2 = { sat := false, nan := false } → exec (.catflush h tensor) s = .next (q.1.retires n 0x54) ∧
          ∀ set, ∀ e ∈ Assoc.get [] (q.1.hall hall).cat set, e.quar = 0 → e.tensor ≠ tensor.toNat))

/-- R300: SORTNNZ writes the bin table and the entry list of an FE row table (`sortOutput`), and faults COUNT_MISMATCH on a table that breaks R154. R301:
DEACC writes one pattern byte a 4 × 4 block, keeping the old pattern where a NaN stands (R169), and counts; while its cluster is frozen it
copies the given mask (R170), or, when none is given, is accepted and waits in its queue. -/
def Obligations.SortnnzAndDeacc : Prop :=
  ∀ (h : NHdr) (a b c : BitVec 5) (mask : Bool) (off : BitVec 48) (s : State),
    let n := h.core.val
    let k := s.core n
    let p := ((Assoc.get 0 k.s a.toNat).toNat + off.toNat) % 2 ^ 48
    let q := (Assoc.get 0 k.s b.toNat).toNat
    let list := sortOutput s.readByte p
    let sorted : MemWork := { reads := [(p, 64 + 8 * rdNat s.readByte (p + 8) 4)], writes := [(q, list.length)], groups := some [] }
    let t := Td.of (Assoc.get 0 k.td a.toNat)
    let size := (t.rows + 1) / 4 * ((t.kext + 1) / 4)
    let src := (Assoc.get 0 k.s c.toNat).toNat
    let old := fun i => if mask = true then some (s.readByte (src + i)).toNat else none
    let bytes := (List.range size).map (fun i => deaccByte t s.readByte (old i) i)
    let nans := (bytes.filter (fun y => y.2)).length
    let moved := ((List.range size).zip bytes).filter (fun y => match old y.1 with | some o => o != y.2.1 | none => false)
    let cells := cellsAt q (bytes.map (fun y => BitVec.ofNat 8 y.1))
    (s.starts h (workSortnnz a b off) = true → s.reaches n sorted (cellsAt q list) →
      (rowTableOk s.readByte p = true → exec (.sortnnz h a b off) s = .next ((s.writeCells (cellsAt q list)).retires n 0x55)) ∧
      (rowTableOk s.readByte p = false → exec (.sortnnz h a b off) s = .next (s.faulted n 0x0303#16 0))) ∧
    (s.starts h (workDeacc a b c mask) = true → s.frozen (n / 8) = 0 →
      s.reaches n { reads := t.ranges ++ (if mask = true then [(src, size)] else []), writes := [(q, size)] } cells →
      exec (.deacc h a b c mask) s = .next (((((s.writeCells cells).bump (cluReg (n / 8) 0x08) (size - nans)).bump (cluReg (n / 8) 0x10)
        moved.length).bump (cluReg (n / 8) 0x18) nans).retires n 0x56)) ∧
    (s.starts h (workDeacc a b c true) = true → s.frozen (n / 8) ≠ 0 →
      s.reaches n { reads := [(src, size)], writes := [(q, size)] } (cellsAt q (s.readBytes src size)) →
      exec (.deacc h a b c true) s = .next ((s.writeCells (cellsAt q (s.readBytes src size))).retires n 0x56)) ∧
    (s.starts h (workDeacc a b c false) = true → s.frozen (n / 8) ≠ 0 →
      ∃ e : QEntry, e.instr = .deacc h a b c false ∧ e.issued = true ∧
        exec (.deacc h a b c false) s = .next ((s.bump (coreReg n 0x168) 1).setCore n
          { k with pc := BitVec.ofNat 16 (k.pc.toNat + 16), queue := k.queue ++ [e],
                   waits := k.waits ++ [{ iaddr := k.iaddr, opcode := 0x56, since := s.hclk, aux := 0, timed := false }] }))

/-! The Conservator (R302 to R306). -/

/-- R303 to R306: the Conservator computes every element of the destination in binary32 (`cvecOp`, `credOp`, `cmmRow`, `cfuncOp`, each the rule's
table; a function with an error bound of 2 ulp is a free value within it, log entry 49), rounds it once into the destination's format, and writes the tile; where no NaN is produced, the job's flags take the
roundings' and the instruction retires. -/
def Obligations.ConservatorWritesTiles : Prop :=
  ∀ (h : NHdr) (a b c : BitVec 5) (op : BitVec 6) (red : BitVec 4) (fn : BitVec 5) (src : Bool) (imm : BitVec 32) (s : State),
    let n := h.core.val
    let k := s.core n
    let d := Td.of (Assoc.get 0 k.td a.toNat)
    let x := Td.of (Assoc.get 0 k.td b.toNat)
    let y := Td.of (Assoc.get 0 k.td c.toNat)
    let useY := src = false ∧ op.toNat ≤ 5
    let elem := fun (t : Td) r j => if t.rows < r ∨ t.kext < j then (0 : Word) else valF32 (t.value s.readByte 1 0 r j)
    let exact := fun (t : Td) r j => if t.rows < r ∨ t.kext < j then Val.fin false 0 0 else t.value s.readByte 1 0 r j
    let ends := fun (i : Instr) (code : Nat) (w : Work) (reads : List (Nat × Nat)) (cut : Td) (f : Nat → Nat → CRes) =>
      let o := foldOver (fun (o : COut) (e : Nat × Nat) => o.put d k.satNan s.readByte e.1 e.2 (f e.1 e.2)) {}
        ((List.range (cut.rows + 1)).flatMap (fun r => (List.range (cut.kext + 1)).map (fun j => (r, j))))
      s.starts h w = true → outOfSalon n (reads ++ cut.ranges) = none → s.reaches n { reads := reads, writes := cut.ranges } o.img →
      o.nan = false → o.conv = none → exec i s = .next (((s.writeCells o.img).coreFlags n o.flags).retires n code)
    ends (.cvec h a b c op src imm) 0x60 (workCvec a b c op src imm)
      ((x.cutTo d).ranges ++ (if useY then (y.cutTo d).ranges else []) ++ (if op = 3 then d.ranges else [])) d
      (fun r j => cvecOp op.toNat (elem x r j) (if src = true then imm else if useY then elem y (if y.rows = 0 then 0 else r) j else 0)
        (elem d r j)) ∧
    ends (.cred h a b red) 0x61 (workCred a b red) x.ranges { d with kext := 0, rows := min d.rows x.rows }
      (fun r _ => credOp red.toNat ((List.range (x.kext + 1)).map (fun j => elem x r j))) ∧
    ends (.cmm h a b c false 0) 0x62 (workCmm a b c false 0) (x.ranges ++ y.ranges) { d with rows := min d.rows x.rows, kext := min d.kext y.rows }
      (fun r j => cmmRow ((List.range (x.kext + 1)).map (fun i => (exact x r i, exact y j i)))) ∧
    ends (.cfunc h a b fn) 0x63 (workCfunc a b fn) (x.cutTo d).ranges d (fun r j => cfuncOp fn (elem x r j))

/-! Synchronisation, windows and transfers (R227, R308 to R313, R386). -/

/-- R308, R228: WAITF retires when the named slot is FULL and WAITE when it is EMPTY; until then they stay in their queue and wait,
and each refused attempt counts in CORE.TAG_WAIT. SETF sets that slot's tag and no other. An address that the job may not use faults
as an access to it does (R210, R223), one in no circular slot faults REGION_BOUNDS. R309: the arrival that completes a barrier's
mask retires, ends the barrier and releases the cores that arrived before it; an earlier arrival stays in its queue and waits, and
retires when it finds itself released. R310: SIGNAL appends its event to the Curator's queue, or waits in its queue at 16. -/
def Obligations.TagInstructionsBarriersAndSignals : Prop :=
  (∀ (h : NHdr) (a : BitVec 5) (state : Bool) (off : BitVec 48) (s : State),
     let n := h.core.val
     let k := s.core n
     let p := ((Assoc.get 0 k.s a.toNat).toNat + off.toNat) % 2 ^ 48
     let waits := fun (i : Instr) (op : Nat) (x : Nat × Nat × Nat) => ∃ e : QEntry, e.instr = i ∧ e.issued = true ∧
       exec i s = .next (((s.bump (coreReg n 0x168) 1).setCore n { k with
         pc := BitVec.ofNat 16 (k.pc.toNat + 16), queue := k.queue ++ [e]
         waits := k.waits ++ [{ iaddr := k.iaddr, opcode := op, since := s.hclk, aux := regionAux x.1 x.2.1, timed := true, onTag := true }] }).bump
         (coreReg n 0x158) 1)
     (∀ x, s.namedSlot n p = .inl x → s.slotOf p = some x ∧ s.accessFault n true [(p, 1)] = none ∧
       (s.takes h (workWaitf a off) = true → s.slotFull x = true → exec (.waitf h a off) s = .next (s.retires n 0x70)) ∧
       (s.starts h (workWaitf a off) = true → s.slotFull x = false → waits (.waitf h a off) 0x70 x) ∧
       (s.takes h (workWaite a off) = true → s.slotFull x = false → exec (.waite h a off) s = .next (s.retires n 0x71)) ∧
       (s.starts h (workWaite a off) = true → s.slotFull x = true → waits (.waite h a off) 0x71 x) ∧
       (s.takes h (workSetf a state off) = true →
         ∃ m : State, exec (.setf h a state off) s = .next (m.retires n 0x72) ∧ m = { s with cores := m.cores, halls := m.halls } ∧
           m.slotFull x = state ∧ ∀ y, y ≠ x → m.slotFull y = s.slotFull y)) ∧
     (∀ f, (s.accessFault n true [(p, 1)] = some f ∨ s.accessFault n true [(p, 1)] = none ∧ s.slotOf p = none ∧ f = (0x0204#16, kindCode p)) →
       (s.takes h (workWaitf a off) = true → exec (.waitf h a off) s = .next (s.faulted n f.1 f.2)) ∧
       (s.takes h (workWaite a off) = true → exec (.waite h a off) s = .next (s.faulted n f.1 f.2)) ∧
       (s.takes h (workSetf a state off) = true → exec (.setf h a state off) s = .next (s.faulted n f.1 f.2)))) ∧
  (∀ (h : NHdr) (id : BitVec 8) (mask : BitVec 64) (a : BitVec 5) (event : BitVec 16) (s : State),
     let n := h.core.val
     let k := s.core n
     let x := s.hall (n / 64)
     let mine := fun (b : Barrier) => decide (b.job = k.job ∧ b.id = id.toNat)
     let b := (x.barriers.find? mine).getD { job := k.job, id := id.toNat, mask := mask, arrived := 0 }
     let arrived := b.arrived ||| BitVec.ofNat 64 (2 ^ (n % 64))
     let rest := x.barriers.filter (fun y => !(mine y))
     let cl := s.cluster (n / 8)
     let waits := fun (i : Instr) (u : State) (op : Nat) (aux : Half) (timed : Bool) => ∃ e : QEntry, e.instr = i ∧ e.issued = true ∧
       exec i s = .next ((u.bump (coreReg n 0x168) 1).setCore n { k with
         pc := BitVec.ofNat 16 (k.pc.toNat + 16), queue := k.queue ++ [e]
         waits := k.waits ++ [{ iaddr := k.iaddr, opcode := op, since := s.hclk, aux := aux, timed := timed }] })
     (s.starts h (workBarrier id mask) = true → ((x.barriers.find? mine).isSome = true ∨ x.barriers.length < 256) →
       (arrived &&& b.mask = b.mask →
         ∃ m : State, exec (.barrier h id mask) s = .next (m.retires n 0x73) ∧ m = { s with cores := m.cores, halls := m.halls } ∧
           m.hall (n / 64) = { x with barriers := rest } ∧ (∀ g, g ≠ n / 64 → m.hall g = s.hall g) ∧ m.core n = k ∧
           ∀ c, c ≠ n → m.core c = if c / 64 = n / 64 ∧ bitAt arrived.toNat (c % 64) = true then
               { s.core c with waits := (s.core c).waits.map (fun w => if w.opcode = 0x73 then { w with done := [1] } else w) }
             else s.core c) ∧
       (arrived &&& b.mask ≠ b.mask → waits (.barrier h id mask)
         (s.setHall (n / 64) { x with barriers := rest ++ [{ b with arrived := arrived }] }) 0x73 (BitVec.ofNat 16 (id.toNat + 2 ^ 13)) true)) ∧
     (s.starts h (workBarrier id mask) = true → x.barriers.find? mine = none → 256 ≤ x.barriers.length →
       waits (.barrier h id mask) s 0x73 (BitVec.ofNat 16 (id.toNat + 2 ^ 13)) true) ∧
     (s.takes h (workBarrier id mask) = true → (∃ w, k.waitOf k.iaddr 0x73 = some w ∧ w.done = [1]) →
       exec (.barrier h id mask) s = .next (s.retires n 0x73)) ∧
     (s.takes h (workSignal a event) = true → cl.events.length < 16 → exec (.signal h a event) s = .next
       ((s.setCluster (n / 8) { cl with events := cl.events ++ [(event, Assoc.get 0 k.s a.toNat)] }).retires n 0x74)) ∧
     (s.starts h (workSignal a event) = true → 16 ≤ cl.events.length → waits (.signal h a event) s 0x74 0 false))

/-- R227, R313: RALLOC gives the address of slot head mod slots of a circular region in s[A] and advances head, RFREE advances tail and empties
its slot; a full region makes RALLOC wait in its queue, an empty one makes RFREE fault. R311: WOPEN opens the lowest free window number and table entry
with the record's fields and puts the handle into s[B][15:0]; WCLOSE closes the job's window and drops its ordered contexts, and retires once
every packet that the window admitted has landed (R395). -/
def Obligations.RegionsAndWindows : Prop :=
  ∀ (h : NHdr) (a b : BitVec 5) (off : BitVec 48) (s : State),
    let n := h.core.val
    let k := s.core n
    let hall := n / 64
    let p := ((Assoc.get 0 k.s a.toNat).toNat + off.toNat) % 2 ^ 48
    (∀ tbl i, s.circRegion n (Td.of (Assoc.get 0 k.td b.toNat)) = some (tbl, i) →
      let r := s.regionAt tbl i
      (s.takes h (workRalloc a b) = true → (r.head - r.tail).toNat ≠ r.slots →
        exec (.ralloc h a b) s = .next (((s.setRegion tbl i { r with head := r.head + 1 }).setS n a
          (BitVec.ofNat 64 (tableBase tbl + r.base + r.head.toNat % r.slots * r.slotSize))).retires n 0x7A)) ∧
      (s.starts h (workRalloc a b) = true → (r.head - r.tail).toNat = r.slots →
        ∃ e : QEntry, e.instr = .ralloc h a b ∧ e.issued = true ∧ exec (.ralloc h a b) s = .next ((s.bump (coreReg n 0x168) 1).setCore n
          { k with pc := BitVec.ofNat 16 (k.pc.toNat + 16), queue := k.queue ++ [e], waits := k.waits ++
            [{ iaddr := k.iaddr, opcode := 0x7A, since := s.hclk, aux := regionAux tbl i, timed := true }] }))) ∧
    (∀ tbl i, s.circRegion n (Td.of (Assoc.get 0 k.td a.toNat)) = some (tbl, i) → s.takes h (workRfree a) = true →
      let r := s.regionAt tbl i
      (r.head ≠ r.tail → exec (.rfree h a) s = .next
        ((s.setRegion tbl i { r with tail := r.tail + 1, full := r.full.filter (fun y => y != r.tail.toNat % r.slots) }).retires n 0x7B)) ∧
      (r.head = r.tail → exec (.rfree h a) s = .next (s.faulted n 0x0204#16 (kindCode (Td.of (Assoc.get 0 k.td a.toNat)).base)))) ∧
    (∀ j e num, s.starts h (workWopen a b off) = true → s.reaches n { reads := [(p, 32)], writes := [], groups := some [] } [] →
      let w := windowRecord (leNat (s.readBytes p 32))
      let used := fun i => (s.findWindow (fun y => y.isOpen && decide (y.job.toNat = k.job.toNat ∧ y.number = i))).isSome
      let y : Window := { w with isOpen := true, isStatic := false, number := num, gen := Assoc.get 0 j.winGen num % 16, job := k.job,
                                 epoch := j.epoch, peerset := j.peerset, refused := 0 }
      s.job k.job.toNat = some j → s.windowFits hall k.job w = true →
      let held := fun i => (Assoc.get {} (s.hall hall).windows i).isOpen || s.arrivals.any (fun z => z.win == (hall, i))
      (e < 1024 ∧ held e = false ∧ ∀ i, i < e → held i = true) →
      (num < 1024 ∧ j.winRecs.length ≤ num ∧ used num = false ∧ ∀ i, i < num → j.winRecs.length ≤ i → used i = true) →
      exec (.wopen h a b off) s = .next ((((s.setWindow hall e y).setJob k.job.toNat
          { j with winGen := Assoc.put 0 j.winGen num (Assoc.get 0 j.winGen num + 1) }).setS n b
        (BitVec.ofNat 64 ((Assoc.get 0 k.s b.toNat).toNat / 2 ^ 16 * 2 ^ 16 + (num + Assoc.get 0 j.winGen num % 16 * 1024)))).retires n 0x75)) ∧
    (∀ v, s.takes h (workWclose a) = true → k.waitOf k.iaddr 0x76 = some v →
      (∀ z ∈ s.arrivals, z.win ≠ (v.done[0]?.getD 0, v.done[1]?.getD 0)) → exec (.wclose h a) s = .next (s.retires n 0x76)) ∧
    (s.starts h (workWclose a) = true →
      let mine := fun (w : Window) => w.isOpen && decide (w.job = k.job ∧ handleOf w = (Assoc.get 0 k.s a.toNat).setWidth 16)
      (∀ g i w, s.findWindow mine = some (g, i, w) →
        let x := s.hall g
        let t := (s.setHall g
            { x with windows := Assoc.put {} x.windows i { Assoc.get {} x.windows i with isOpen := false },
                     ordered := x.ordered.filter (fun o => o.window != i) }).bump (hallCour g 0x20)
          (x.ordered.filter (fun o => o.window == i)).length
        ((∀ z ∈ s.arrivals, z.win ≠ (g, i)) → exec (.wclose h a) s = .next (t.retires n 0x76)) ∧
        ((∃ z ∈ s.arrivals, z.win = (g, i)) → ∃ e : QEntry, e.instr = .wclose h a ∧ e.issued = true ∧
          exec (.wclose h a) s = .next ((t.bump (coreReg n 0x168) 1).setCore n { k with
            pc := BitVec.ofNat 16 (k.pc.toNat + 16), queue := k.queue ++ [e]
            waits := k.waits ++ [{ iaddr := k.iaddr, opcode := 0x76, since := s.hclk, aux := 0, timed := false, done := [g, i] }] }))) ∧
      (s.findWindow mine = none → exec (.wclose h a) s = .next (s.faulted n 0x0402#16 0)))

/-- R312, R386: CPUT, CGET and CADD first send: one packet for a range inside a 512-byte block of the window, with the request's fields, the next
SEQ of the destination and, unless it is a GET, the bytes at LOCAL; the packet leaves over the link of the first usable route, or waits
there for its turn and for credits (R376); the instruction then waits in its queue. When every packet of its transfer is answered it
retires and s[B] holds 0 or the refusal of the lowest offset. Without a peer set, another device is out of bounds at once; in a measure
pass a CPUT or CADD sends nothing (R130) and ends with 0 (log entry 164). -/
def Obligations.TransfersSendAndComplete : Prop :=
  ∀ (h : NHdr) (a b : BitVec 5) (off : BitVec 48) (op : Nat) (i : Instr) (s : State),
    (op, i) ∈ [(0x77, Instr.cput h a b off), (0x78, Instr.cget h a b off), (0x79, Instr.cadd h a b off)] →
    let n := h.core.val
    let k := s.core n
    let p := ((Assoc.get 0 k.s a.toNat).toNat + off.toNat) % 2 ^ 48
    let r := xferReq (leNat (s.readBytes p 32))
    let mine := fun (y : Nat × Xfer) => decide (y.2.core = n ∧ y.2.iaddr = k.iaddr ∧ y.2.opcode = op)
    let local_ := [(r.loc, r.length)]
    let gives := fun (v : DWord) => exec i s = .next (s.retired n op { k with s := Assoc.put 0 k.s b.toNat v } (k.pc.toNat + 16))
    (∀ id y, s.takes h (workXfer op a b off) = true → s.xfers.find? mine = some (id, y) → s.xfers.find? (fun z => z.1 == id) = some (id, y) →
      (∀ q ∈ s.sent, q.xfer = id → q.hdr.dest.toNat ≠ s.node) → y.left = 0 →
      exec i s = .next ((({ s with sent := s.sent.filter (fun q => q.xfer != id), xfers := s.xfers.filter (fun z => z.1 != id) } : State).setS n b
        (match y.refusal with | some e => e.2.setWidth 64 | none => 0)).retires n op)) ∧
    (∀ j, s.starts h (workXfer op a b off) = true → s.xfers.find? mine = none → s.job k.job.toNat = some j →
      s.accessFault n (op == 0x78) local_ = none → xferAligned op r = true → ¬ (op = 0x79 ∧ r.ordered = true ∧ r.isF32 = true) →
      s.reaches n { reads := (p, 32) :: (if op = 0x78 then [] else local_), writes := [], groups := some [] } [] →
      s.isSelf r.dest.toNat = false →
      (op ≠ 0x78 → k.measuring = true → gives 0) ∧
      (op = 0x78 ∨ k.measuring = false → j.peerset = 0 → r.dest.toNat ≠ s.node → gives 0x0402#64) ∧
      (∀ c l, op = 0x78 ∨ k.measuring = false → j.peerset ≠ 0 → s.assigned = true → 0 < r.length → r.length ≤ 512 - r.offset % 512 →
        s.route r.dest.toNat 0 = some (c, l) → (∀ z ∈ s.xfers, z.1 ≠ s.nextXfer) → (∀ q ∈ s.sent, q.xfer ≠ s.nextXfer) →
        let data := if op = 0x78 then [] else s.readBytes r.loc r.length
        let free := fun (q : PktHdr) => (s.link l).waiting.any (fun v => classOf v.hdr == 0) = false ∧
          (s.link l).ready s.hclk q data.length = true
        ∃ (t : State) (q : SentPkt), exec i s = .next t ∧
          (free q.hdr → t.out = s.out ++ [.packet l q.hdr data]) ∧
          (¬ free q.hdr → t.out = s.out ∧ (t.link l).waiting = (s.link l).waiting ++ [⟨q.hdr, data, none⟩]) ∧
          q.hdr.dest = r.dest ∧ q.hdr.type = (if op = 0x77 then 0 else if op = 0x78 then 1 else 3) ∧ q.hdr.src.toNat = s.node ∧
          q.hdr.seq = Assoc.get 0 s.seqTx r.dest.toNat ∧ q.hdr.window = r.window ∧ q.hdr.offset.toNat = r.offset ∧
          q.hdr.bytes.toNat + 1 = r.length ∧ q.hdr.peerset = j.peerset ∧ q.hdr.epoch = j.epoch ∧ q.hdr.atype = r.isF32 ∧
          q ∈ t.sent ∧ q.xfer = s.nextXfer ∧ q.sends = 1 ∧ Assoc.get 0 t.seqTx r.dest.toNat = Assoc.get 0 s.seqTx r.dest.toNat + 1 ∧
          (∃ z, (s.nextXfer, z) ∈ t.xfers ∧ z.left = 1 ∧ z.refusal = none) ∧ (t.core n).pc = BitVec.ofNat 16 (k.pc.toNat + 16) ∧
          (∃ e ∈ (t.core n).queue, e.instr = i) ∧ (∃ w ∈ (t.core n).waits, w.iaddr = k.iaddr ∧ w.opcode = op)))

/-! The queues and the array at work (R77 to R80, R88, R92 to R96, R102, R246, R259 to R263). -/

/-- R246, R248, R260: the next word of the kernel buffer is met as the command of its instruction is, but an instruction of a queue only
enters it, with its operands captured (one of the array queue that can issue enters it issued, R103); a reserved opcode is
illegal with 0x0001. -/
def Obligations.AcceptanceEntersQueues : Prop :=
  ∀ (core : Fin 256) (s : State),
    let n := core.val
    let k := s.core n
    let word := Assoc.get 0 k.kbuf (k.pc.toNat / 16)
    k.running = true → k.halting = false → k.stopped = false →
    (∀ i h w, Nupor.decodeWord core word = some i → headerOf i = some h → workOf i = some w → h.core = core →
      (w.queue = .scalar ∧ w.late = false ∨ w.product = true → exec (.instructionAccept core) s = exec i s) ∧
      (w.queue ≠ .scalar ∨ w.late = true → w.product = false → s.accepts h w = true →
        (w.queue = .array → k.starts .array false = true → ∀ t code aux, w.issue (k.ctx n w.opcode) s ≠ .fail t code aux) →
        ∃ q : QEntry, exec (.instructionAccept core) s = .next ((s.bump (coreReg n 0x168) 1).setCore n
            { k with queue := k.queue ++ [q], pc := BitVec.ofNat 16 (w.target (k.ctx n w.opcode) k) }) ∧
          q.instr = i ∧ q.queue = w.queue ∧ q.iaddr = k.iaddr ∧ q.s = k.s ∧ q.td = k.td ∧ q.sW = w.sW ∧ q.tW = w.tW ∧
          (q.issued = true ↔ w.queue = .array ∧ s.takes h w = true))) ∧
    (Nupor.decodeWord core word = none → k.queue.any QEntry.holds = false →
      exec (.instructionAccept core) s = .next (s.faulted n 0x0301#16 0x0001#16))

/-- R102, R260: the oldest instruction of a queue that can start leaves it when its work is done, and the work is the instruction's own on
the captured registers; shown for TEMPO, whose result stands in s[A] afterwards; one that waits stays, started. A product whose last
chunk has entered retires and frees its tile. Stated where no array instruction waits for its issue. -/
def Obligations.RetirementLeavesQueues : Prop :=
  ∀ (core : Fin 256) (kind : QKind) (s : State),
    let n := core.val
    let k := s.core n
    k.stopped = false → k.halting = false → (∀ e ∈ k.queue, e.queue = .array → e.issued = true) →
    (∀ pre q post w, k.queue = pre ++ q :: post → q.queue = kind → (∀ e ∈ pre, e.queue ≠ kind) → workOf q.instr = some w → w.product = false →
      let u := s.setCore n k
      let x : Ctx := ⟨n, q.iaddr, w.opcode, q.s, q.td⟩
      q.issued = true ∨ w.issue x u = .done u →
      (∀ t, w.run x u = .done t → (t.core n).halting = false →
        exec (.instructionRetire core kind []) s = .next { t with
          fresh := t.fresh + 1, cores := Assoc.put {} t.cores n { t.core n with
            queue := pre ++ post, waits := (t.core n).waits.filter (fun y => !(decide (y.iaddr = q.iaddr ∧ y.opcode = w.opcode))) } }) ∧
      (∀ t y, w.run x u = .wait t y → (∀ e ∈ post, e.queue ≠ kind) → ∃ r : State,
        exec (.instructionRetire core kind []) s = .next r ∧ r = { t with reg := r.reg, cores := r.cores } ∧
          (r.core n).queue = pre ++ { q with issued := true } :: post ∧ y ∈ (r.core n).waits) ∧
      (∀ h a sel tensor, q.instr = .tempo h a sel tensor →
        exec (.instructionRetire core kind []) s = .next { s with
          fresh := s.fresh + 1, cores := Assoc.put {} s.cores n { k with
            queue := pre ++ post, s := Assoc.put 0 k.s a.toNat (tempoResult s n tensor.toNat sel),
            waits := k.waits.filter (fun y => !(decide (y.iaddr = q.iaddr ∧ y.opcode = 0x42))) } })) ∧
    (∀ pre q post, k.queue = pre ++ q :: post → q.issued = true → (productOf q.instr).isSome = true → q.chunks ≤ q.chunk →
      (∀ e ∈ pre, e.issued = false ∨ productOf e.instr = none ∨ e.chunk < e.chunks) →
      exec (.arrayRetire core) s = .next (s.setCore n { k with queue := pre ++ post }))

/-- R89, R289: a chunk of a dense integer product adds the exact slot value of every row and position to its element, clamped at the ends of
the int32 range, and the product's chunk count moves on; with the trap off, saturation sets INT_SAT. Elements outside the tile stay. -/
def Obligations.IntegerChunkAddsRowSums : Prop :=
  ∀ (core : Fin 256) (h : NHdr) (f : ArrayFields) (q : QEntry) (rest : List QEntry) (s : State),
    let n := core.val
    let k := s.core n
    let x : Ctx := ⟨n, q.iaddr, 0x30, q.s, q.td⟩
    let c := ChunkCtx.of f x q.chunk
    k.stopped = false → k.intTrap = false → k.queue = q :: rest → q.instr = .bsmm h f → q.issued = true → q.chunk < q.chunks →
    (∀ e ∈ rest, e.queue = .array → e.issued = true) → f.mode = 0 → f.sparse = 0 →
    ∃ t : State, exec (.chunkEnter core) s = .next t ∧ (t.core n).queue = { q with chunk := q.chunk + 1 } :: rest ∧
      (∀ row p, row < 2048 → p < 16 →
        let z := (Assoc.get 0 k.acm (intKey f.tile.toNat row p)).toInt + c.slotValue k (row / 128) (row % 128) p 0
        (Assoc.get 0 (t.core n).acm (intKey f.tile.toNat row p)).toInt = max (-(2 ^ 31)) (min (2 ^ 31 - 1) z) ∧
        ((z < -(2 ^ 31) ∨ 2 ^ 31 - 1 < z) → (t.core n).flags &&& flagIntSat = flagIntSat)) ∧
      (∀ key, key % 65536 / 2048 ≠ f.tile.toNat → Assoc.get 0 (t.core n).acm key = Assoc.get 0 k.acm key) ∧
      t = { s with reg := t.reg, cores := Assoc.put {} s.cores n (t.core n), jobs := t.jobs }

/-- R73, R74, R77 to R80: failures of a plane pair up to three are replayed, counted in each engine and flagged, and the core holds for 2 ACLK
a round (log entry 161: all engines hold together); a fourth faults TIMING_REPLAY_LIMIT with the lowest such engine and begins a
recovery of the core. A sampling period draws its chunk once; a comparison without a difference counts and serves the next request,
one with a difference faults PROVENANCE in the job and begins a recovery of the core. -/
def Obligations.ReplayAndProvenance : Prop :=
  ∀ (core : Fin 256) (s : State),
    let n := core.val
    let k := s.core n
    (∀ (engines : List (Fin 16)) (times : List Nat), let fails := timesOf engines times
      k.stopped = false → (∀ e ∈ k.queue, e.queue = .array → e.issued = true) → (∃ x ∈ fails, x ≠ 0) →
      k.queue.any QEntry.computing = true →
      ((∀ x ∈ fails, x < 4) →
        let rounds := fails.foldl max 0
        ∃ t : State, exec (.timingErrorReplay core engines times) s = .next t ∧
          t = { s with reg := t.reg, jobs := t.jobs, cores := Assoc.put {} s.cores n { k with flags := k.flags ||| flagReplay } } ∧
          (∀ e, e < 16 → t.fld (coreReg n (0x40 + 8 * e)) 0 48 = (s.fld (coreReg n (0x40 + 8 * e)) 0 48 + fails[e]?.getD 0) % 2 ^ 48) ∧
          t.fld (coreReg n 0x020) 0 48 = (s.fld (coreReg n 0x020) 0 48 + 2 * rounds) % 2 ^ 48 ∧
          t.fld (coreReg n 0x000) 0 48 = (s.fld (coreReg n 0x000) 0 48 + 2 * rounds) % 2 ^ 48) ∧
      (∀ q e v, k.queue.find? QEntry.computing = some q → e < 16 → fails[e]? = some v → 4 ≤ v → (∀ i, i < e → fails[i]?.getD 0 < 4) →
        ∃ t : State, exec (.timingErrorReplay core engines times) s = .next t ∧ (t.core n).stopped = true ∧
          (⟨k.job, 0x0601#16, q.iaddr, BitVec.ofNat 16 n, BitVec.ofNat 16 e, [], s.hclk⟩ : Report) ∈ t.reports ∧
          ∃ r ∈ t.recoveries, r.scope = .core core ∨ scopeContains r.scope (.core core) = true)) ∧
    (∀ (chunk : Nat) (engine : Fin 16) (quarter : Fin 4), k.provCount = 0 → k.provDraw = none → chunk < 2 ^ k.provS →
      exec (.provenanceSampleDraw core chunk engine quarter) s =
        .next (s.setCore n { k with provDraw := some (chunk, engine.val, quarter.val) })) ∧
    (∀ (x : Slice) (errors : List (Fin 32 × Fin 16 × Fin 8)), k.checkNow = some (.slice x) →
      let d := { k with checkNow := k.checkQ.head?, checkQ := k.checkQ.tail }
      (k.halting = false → (∀ p ∈ (x.handed errors).zip (x.recompute n), p.1 = p.2) →
        exec (.checkSliceCompare core errors) s = .next ((s.setCore n d).bumpFld (coreReg n 0xC8) 0 32 1)) ∧
      ((∃ p ∈ (x.handed errors).zip (x.recompute n), p.1 ≠ p.2) →
        ∃ t : State, exec (.checkSliceCompare core errors) s = .next t ∧ (t.core n).stopped = true ∧
        (⟨k.job, 0x0606#16, x.iaddr, BitVec.ofNat 16 n, BitVec.ofNat 16 (x.engine % 32 + x.quarter % 4 * 32), [], s.hclk⟩ : Report) ∈
          t.reports ∧
        ∃ r ∈ t.recoveries, r.scope = .core core ∨ scopeContains r.scope (.core core) = true))

/-! Curators, Tempo and Docent events (R118, R121, R128, R184 to R189, R266, R267, R321 to R326, R330). -/

/-- R189, R321: once every cluster has reported the layer before it, the next layer begins in every cluster of the job: nothing of it is done,
the job's core number i takes its item i next, CLU.STATE shows the layer and the step, and a Docent layer runs on the TAU and DENSE that
its slot holds now. While a Docent decision is due, the Curators wait and count four CCLK. -/
def Obligations.LayerStartBeginsTheLayer : Prop :=
  ∀ (handle : Half) (j : Job) (li st : Nat) (l : Layer) (s : State),
    let h := handle.toNat
    s.job h = some j → j.phase = .running → j.nextLayer = some (li, st) → j.layers[li]? = some l →
    (s.windowOpen j li = false →
      ∃ (t : State) (k : Job), exec (.layerStart handle) s = .next t ∧ t.job h = some k ∧ k.layer = li ∧ k.step = st ∧ k.started = true ∧
        k.layerDone = 0 ∧ k.closed = [] ∧ k.splitDone = [] ∧ k.splitStage = [] ∧ k.cores = j.cores ∧ k.phase = .running ∧
        (j.cores.Nodup → ∀ i n, j.cores[i]? = some n → (t.core n).nextItem = i) ∧
        (∀ n, n ∉ j.cores → t.core n = s.core n) ∧
        (∀ slot r, j.docentOf li = some (slot, r) → (t.docX slot).tau.toNat = s.fld (docentSlot slot 0) 0 32 ∧
          ((t.docX slot).dense = true ↔ s.fld (docentSlot slot 0) 40 1 = 1)) ∧
        (∀ c ∈ clustersOf j.mapped, t.fld (cluReg c 0x50) 0 12 = li % 4096 ∧ t.fld (cluReg c 0x50) 12 32 = st % 2 ^ 32)) ∧
    (s.windowOpen j li = true → ∃ t : State, exec (.layerStart handle) s = .next t ∧ t = { s with reg := t.reg } ∧
      ∀ c ∈ clustersOf j.mapped, t.fld (cluReg c 0x48) 0 48 = (s.fld (cluReg c 0x48) 0 48 + 4) % 2 ^ 48)

/-- R266, R267, R326, R330: once the input tiles of its descriptors are staged (`State.stageAll`), a dispatch starts the core at the kernel's
entry with PC 0, clear predicates and loops, the scalar registers of R267 and the descriptors as the Curator fills them
(`State.fillTds`), and counts in CORE.DISPATCHES and a part in CLU.SPLIT_PARTS; an epilogue starts at EENTRY once every part has landed, and
marks its item. A skipped item only counts in CLU.INVOC_SKIPPED; an item whose positions Docent has not scored waits and counts four CCLK
(R180); one whose tiles wait for a tag changes nothing. -/
def Obligations.DispatchStartsACore : Prop :=
  ∀ (core : Fin 256) (item : Nat) (weight : Word) (tds : List TileReg) (j : Job) (l : Layer) (i : Item) (s : State),
    let n := core.val
    let k := s.core n
    let c := n / 8
    let work := s.workNow j l
    let staged := fun (i : Item) => s.stageAll k.job.toNat n j l (s.fillTds n j l i tds)
    let clear := fun (entry : Nat) => s.inQuarantine (Assoc.get 0 j.kaddr (n / 64) + entry) = false
    let starts := fun (t : State) (i : Item) (entry : Nat) =>
      let d := t.core n
      d.running = true ∧ d.halting = false ∧ d.stopped = false ∧ d.pc = 0 ∧ d.p = 0 ∧ d.lcCount = [] ∧ d.lcStart = [] ∧
      d.kbase = BitVec.ofNat 32 entry ∧ d.klen = j.kernelLen entry ∧ d.job = BitVec.ofNat 16 k.job.toNat ∧ d.dispatched = true ∧
      d.invoc = (if k.dispatched = true then k.invoc + 1 else 0) ∧ d.measuring = j.measure ∧ d.ccycle = 0 ∧ d.ccAt = s.hclk ∧
      d.docY = (if (s.predicts j).isSome = true then some l.y else none) ∧
      Assoc.get 0 d.s 0 = BitVec.ofNat 64 (i.p.yCol + i.m0) ∧ Assoc.get 0 d.s 1 = BitVec.ofNat 64 (i.p.yRow + i.n0) ∧
      Assoc.get 0 d.s 2 = BitVec.ofNat 64 i.k0 ∧ Assoc.get 0 d.s 3 = BitVec.ofNat 64 (selected j.lens l.lenN (i.p.pn + 1)) ∧
      (jobTempo j l.a = none → Assoc.get 0 d.s 4 = 0x3F800000#64) ∧ (jobTempo j l.w = none → Assoc.get 0 d.s 5 = weight.setWidth 64) ∧
      Assoc.get 0 d.s 6 = BitVec.ofNat 64 j.layer ∧ Assoc.get 0 d.s 7 = BitVec.ofNat 64 j.step ∧
      (∀ a v, l.args[a]? = some v → Assoc.get 0 d.s (8 + a) = v) ∧
      (∀ r f, (s.fillTds n j l i tds)[r]? = some (some f) → Assoc.get 0 d.td r = f.td.reg) ∧
      (∀ m, m ≠ n → t.core m = s.core m) ∧
      t.fld (coreReg n 0x190) 0 48 = (s.fld (coreReg n 0x190) 0 48 + 1) % 2 ^ 48
    k.tile = none → s.job k.job.toNat = some j → j.layers[j.layer]? = some l → s.coreReady n j = true → n ∈ j.cores →
    (k.nextItem = item → work[item]? = some i →
      (∀ u, i.skip = false → s.scored c j i = true → clear l.kentry → staged i = .done u →
        ∃ t : State, exec (.tileDispatch core item weight tds) s = .next t ∧ starts t i l.kentry ∧
          (t.core n).nextItem = item + j.cores.length ∧
          (∃ r, (t.core n).tile = some r ∧ r.layer = j.layer ∧ r.item = i.item ∧ r.part = i.part ∧ r.epilogue = false) ∧
          t.fld (cluReg c 0x68) 0 48 = (s.fld (cluReg c 0x68) 0 48 + if i.split = true then 1 else 0) % 2 ^ 48) ∧
      (i.skip = false → s.scored c j i = true → clear l.kentry → staged i = .waits → exec (.tileDispatch core item weight tds) s = .next s) ∧
      (i.skip = false → s.scored c j i = false → exec (.tileDispatch core item weight tds) s = .next (s.bump (cluReg c 0x48) 4)) ∧
      (i.skip = true → exec (.tileDispatch core item weight tds) s =
        .next ((s.setCore n { k with nextItem := item + j.cores.length }).bump (cluReg c 0x58) 1))) ∧
    (∀ u, (∀ m ∈ j.cores, (s.core m).tile = none) → work.find? (fun x => x.item == item && x.split && !x.skip) = some i →
      Assoc.get 0 j.splitDone item = partsOf work item → clear l.eentry → staged (i.whole j l) = .done u →
      ∃ t : State, exec (.epilogueDispatch core item weight tds) s = .next t ∧ starts t (i.whole j l) l.eentry ∧
        (∃ q, t.job k.job.toNat = some q ∧ ∀ x, Assoc.get 0 q.splitDone x = if x = item then epilogueMark else Assoc.get 0 j.splitDone x) ∧
        (∃ r, (t.core n).tile = some r ∧ r.layer = j.layer ∧ r.item = item ∧ r.epilogue = true))

/-- R118, R321: a Curator's report of a governed tensor marks its cluster; its report of the layer sets its bit of the job's mask. R121: the decision
takes the smallest width from WMIN whose range holds the estimate at DELTA, or WMAX; more saturations than the limit widen it by
one, or double the scale at WMAX; an estimate of 0 takes WMIN at DELTA. -/
def Obligations.StepReportsAndDecision : Prop :=
  (∀ (cluster : Fin 32) (j : Job) (l : Layer) (s : State),
    let c := cluster.val
    let h := (s.cluster c).job.toNat
    s.job h = some j → j.layers[j.layer]? = some l → j.phase = .running → j.started = true →
    bitAt j.layerDone.toNat c = false → bitAt j.mapped.toNat c = true →
    (∀ (t : BitVec 12) (r : TempoRec), l.produced.find? (fun r => r.tensor == t.toNat) = some r → t.toNat ∉ j.closed →
      let x := s.tempoX t.toNat
      let bits := x.reported ||| BitVec.ofNat 32 (2 ^ c)
      bits &&& j.mapped ≠ j.mapped →
      exec (.stepDone cluster (some t)) s = .next (s.setTempoX t.toNat { x with reported := bits })) ∧
    (l.produced = [] → j.docentOf j.layer = none → s.clusterDone c j (s.workNow j l) = true →
      exec (.stepDone cluster none) s = .next (s.setJob h { j with layerDone := j.layerDone ||| BitVec.ofNat 32 (2 ^ c) }))) ∧
  (∀ (r : TempoRec) (mh : Word) (overs limit : Nat), r.wmin ≤ r.wmax →
    let d := tempoDecide r mh overs limit
    let fits := fun w => tempoFits mh r.delta (qmax (w + 1) r.signed) = true
    (f32Eq mh 0 = true → d = (r.wmin, r.delta, false)) ∧
    (f32Eq mh 0 = false → ∃ w, r.wmin ≤ w ∧ w ≤ r.wmax ∧ (∀ v, r.wmin ≤ v → v < w → ¬ fits v) ∧ (fits w ∨ w = r.wmax) ∧
      let sc := f32DivNat mh (qmax (w + 1) r.signed)
      (overs ≤ limit → d = (w, sc, false)) ∧ (limit < overs → w < r.wmax → d = (w + 1, sc, true)) ∧
      (limit < overs → w = r.wmax → d = (w, f32Double sc, true))))

/-- R128, R141: PIN takes the value's width, PINNED and scale, in the bits that no writer of a higher rank has written in this HCLK
(R9: `State.claimed`); a pinned scale that is not positive and finite is refused and posts event 0x1050. R184, R185: of each period of
predicted-inactive elements one is drawn; it goes to the check engine, or is dropped at a full queue, and a dense run keeps it until
its y is stored. R186: a sample counts, as a miss when |y| exceeds EPS or y is NaN. -/
def Obligations.PinsAndDocentSamples : Prop :=
  ∀ (s : State),
    (∀ (slot : BitVec 12) (value : BitVec 64) (writer : Writer),
      let off := tempoSlot slot.toNat 0x30
      let free := ~~~(s.claimed off writer)
      let v := (value &&& free) ||| (s.rget off &&& ~~~free)
      let bad := fget v 3 1 = 1 ∧ f32PosFinite (BitVec.ofNat 32 (fget v 32 32)) = false
      ((writer = .firmware ∧ s.phase = .service) ∨ (writer = .host ∧ s.hostOpen off = true)) →
      (free = 0 → exec (.tempoPinWrite slot value writer) s = .next s) ∧
      (free ≠ 0 → ¬ bad → ∃ t : State, exec (.tempoPinWrite slot value writer) s = .next t ∧
        t = { s with reg := t.reg, written := t.written, writtenAt := s.hclk } ∧
        fget (t.rget off) 0 4 = fget v 0 4 ∧ fget (t.rget off) 32 32 = fget v 32 32 ∧ fget (t.rget off) 4 28 = 0 ∧
        ∀ o, o ≠ off → t.rget o = s.rget o) ∧
      (free ≠ 0 → bad → (s.vbWait.filter (fun q => q.kind == 0 && q.num == 0)).length < 4 →
        exec (.tempoPinWrite slot value writer) s =
          .next (({ s with vbWait := s.vbWait ++ [⟨0x1050, 0, 0, 0, s.time, [BitVec.ofNat 64 off, v]⟩] } : State).claim off (BitVec.allOnes 64)
            writer))) ∧
    (∀ (slot : BitVec 10) (core : Fin 256) (element : Nat) (j : Job) (r : DocRec) (i : Item) (l : Layer) (es : List (Nat × Nat)) (e : Nat × Nat),
      let n := core.val
      let k := s.core n
      let x := s.docX slot.toNat
      let p := Assoc.get {} x.periods (n / 8)
      let first := p.periodOf (k.docBase + element)
      let y := { x with periods := Assoc.put {} x.periods (n / 8) { p with drawn := first :: p.drawn } }
      s.job k.job.toNat = some j → j.docentOf j.layer = some (slot.toNat, r) → k.running = true → k.stopped = false → j.measure = false →
      j.phase = .running → s.tileInactive n j x = some (i, l, es) → es[element]? = some e →
      (first ∈ p.drawn → exec (.docentSampleDraw slot core element) s = .next s) ∧
      (first ∉ p.drawn →
        (x.dense = true → exec (.docentSampleDraw slot core element) s =
          .next (s.setDocX slot.toNat { y with due := x.due ++ [{ core := n, pos := e.1, ch := e.2 }] })) ∧
        (x.dense = false → k.checkNow = none → k.checkQ = [] →
          ∃ q : Sample, exec (.docentSampleDraw slot core element) s =
            .next ((s.setDocX slot.toNat y).setCore n { k with checkNow := some (.sample q) }) ∧
            q.slot = slot.toNat ∧ q.layer = j.layer ∧ q.aRow = i.p.aRow + (e.1 - i.p.yRow) ∧ q.wRow = i.p.wRow + (e.2 - i.p.yCol)) ∧
        (x.dense = false → k.checkNow ≠ none → 2 ≤ k.checkQ.length → exec (.docentSampleDraw slot core element) s =
          .next ((s.setDocX slot.toNat y).bump (cluReg (n / 8) 0x40) 1)))) ∧
    (∀ (slot : BitVec 10) (cluster : Fin 32) (r : DocRec),
      let c := cluster.val
      let x := s.docX slot.toNat
      let counts := fun (t : State) (y : Word) =>
        let miss := if f32IsNaN y = true ∨ f32Lt r.eps (f32Abs y) = true then 1 else 0
        t.fld (docentSlot slot.toNat 8) 32 32 = (s.fld (docentSlot slot.toNat 8) 32 32 + 1) % 2 ^ 32 ∧
        t.fld (docentSlot slot.toNat 8) 0 32 = (s.fld (docentSlot slot.toNat 8) 0 32 + miss) % 2 ^ 32 ∧
        t.fld (cluReg c 0x30) 0 48 = (s.fld (cluReg c 0x30) 0 48 + 1) % 2 ^ 48 ∧
        t.fld (cluReg c 0x38) 0 48 = (s.fld (cluReg c 0x38) 0 48 + miss) % 2 ^ 48
      x.rc = some r →
      (∀ (i : Fin 8) q j l, let n := 8 * c + i.val; let k := s.core n
        s.sampleOn slot.toNat n = some q → k.halting = false → s.job k.job.toNat = some j → j.layers[q.layer]? = some l →
        ∃ t : State, exec (.docentSampleResult slot cluster (some i)) s = .next t ∧
          t = { s with reg := t.reg, cores := Assoc.put {} s.cores n { k with checkNow := k.checkQ.head?, checkQ := k.checkQ.tail } } ∧
          counts t (s.sampleY n j l q)) ∧
      (∀ d y, x.due = [d] → d.y = some y → d.core / 8 = c →
        ∃ t : State, exec (.docentSampleResult slot cluster none) s = .next t ∧
          t = { s with reg := t.reg, docent := Assoc.put {} s.docent slot.toNat { x with due := [] } } ∧ counts t y))

/-- R187: at the close of a window with samples, a miss rate above LIMIT lowers TAU by TAU_STEP, not below TAU_MIN, when the record adapts; above
four times LIMIT the job's PRED_MISS is set and an adapting slot goes dense; a rate at or below LIMIT ends a dense run. The counts start
again, and the window and limit of DOCENT.CTL hold from then on. -/
def Obligations.DocentWindowDecision : Prop :=
  ∀ (slot : BitVec 10) (r : DocRec) (s : State),
    let k := slot.toNat
    let x := s.docX k
    let samples := s.fld (docentSlot k 8) 32 32
    let miss := s.fld (docentSlot k 8) 0 32
    let above := samples ≠ 0 ∧ x.limit * samples < miss * 10000
    let high := samples ≠ 0 ∧ 4 * x.limit * samples < miss * 10000
    x.rc = some r → x.window ≤ s.fld (docentSlot k 0x10) 32 8 →
    ∃ t : State, exec (.docentWindowClose slot) s = .next t ∧
      t = { s with reg := t.reg, jobs := t.jobs, docent := Assoc.put {} s.docent k { x with window := s.docWindow, limit := s.docLimit } } ∧
      (¬ high → t.jobs = s.jobs) ∧
      (∀ j, high → s.job x.job.toNat = some j → t.job x.job.toNat = some { j with flags := j.flags ||| flagPredMiss }) ∧
      t.rget (docentSlot k 8) = 0 ∧ t.fld (docentSlot k 0x10) 32 8 = 0 ∧ t.fld (docentSlot k 0x10) 0 32 = s.fld (docentSlot k 0x10) 0 32 ∧
      (t.fld (docentSlot k 0) 0 32 = if above ∧ r.adapt = true then
          (f32Max (f32Sub (BitVec.ofNat 32 (s.fld (docentSlot k 0) 0 32)) r.tauStep) r.tauMin).toNat
        else s.fld (docentSlot k 0) 0 32) ∧
      (t.fld (docentSlot k 0) 40 1 = if samples = 0 then s.fld (docentSlot k 0) 40 1 else if high ∧ r.adapt = true then 1
        else if above then s.fld (docentSlot k 0) 40 1 else 0)

/-! The memories (R14, R228, R231, R235, R236, R466). -/

/-- R228, R229: once the packets that wait for a tag have examined it again, a wait past TAG_TIMEOUT faults TAG_TIMEOUT at its instruction. R231: a Hall's window of corrected-error entries starts again. R236: a gated unit
powers up with every word 0, an HBM stack with its contents. R235, R466: with GATE_EN, an idle unit is gated. -/
def Obligations.MemoryUnitsWaitGateAndWake : Prop :=
  ∀ (s : State),
    (∀ (core : Fin 256) (w : Wait),
      let n := core.val
      let u := s.retryArrivals
      let k := u.core n
      (s.arrivals = [] → u = s) ∧
      (k.waits.find? (fun w => w.timed && decide (w.since + 600 * max 1 (u.fld (foy 0x00B0) 0 32) < u.hclk)) = some w →
        exec (.tagTimeout core) s = .next ((u.setCore n { k with stopped := true, waits := [] }).report
          ⟨k.job, 0x0203#16, w.iaddr, BitVec.ofNat 16 n, w.aux, [], u.hclk⟩)) ∧
      (k.waits.find? (fun w => w.timed && decide (w.since + 600 * max 1 (u.fld (foy 0x00B0) 0 32) < u.hclk)) = none →
        exec (.tagTimeout core) s = .next u)) ∧
    (∀ hall : Fin 4, exec (.ceLogWindow hall) s = .next (s.setHall hall.val { s.hall hall.val with ceEntries := 0 })) ∧
    (∀ (h : Fin 4) (g : Fin 48), s.fld (hallMem h.val 0x30) g.val 1 = 1 →
      ∃ t : State, exec (.unitPowerUp (.bankGroup h g)) s = .next t ∧ t = { s with reg := t.reg, sram := t.sram } ∧
        t.fld (hallMem h.val 0x30) g.val 1 = 0 ∧
        ∀ a, Assoc.get 0 t.sram a = if galBase h.val + g.val * 2 ^ 22 ≤ a ∧ a < galBase h.val + (g.val + 1) * 2 ^ 22 then 0
          else Assoc.get 0 s.sram a) ∧
    (∀ n : Fin 256, n.val ∈ s.salonGate →
      ∃ t : State, exec (.unitPowerUp (.salon n)) s = .next t ∧ t = { s with salonGate := t.salonGate, sram := t.sram } ∧
        n.val ∉ t.salonGate ∧ (∀ m, m ≠ n.val → (m ∈ t.salonGate ↔ m ∈ s.salonGate)) ∧
        ∀ a, Assoc.get 0 t.sram a = if salonBase n.val ≤ a ∧ a < salonBase n.val + 2 ^ 22 then 0 else Assoc.get 0 s.sram a) ∧
    (∀ c : Fin 32, s.fld (foy 0x0008) (32 + c.val) 1 = 1 → s.clusterPermanent c.val = false → s.phase ≠ .safe →
      ∃ t : State, exec (.unitPowerUp (.cluster c)) s = .next t ∧ t = { s with reg := t.reg, sram := t.sram, cores := t.cores } ∧
        t.fld (foy 0x0008) (32 + c.val) 1 = 0 ∧ (∀ n, n / 8 ≠ c.val → t.core n = s.core n) ∧
        ∀ a, Assoc.get 0 t.sram a = if salonBase (8 * c.val) ≤ a ∧ a < salonBase (8 * c.val + 8) then 0 else Assoc.get 0 s.sram a) ∧
    (∀ k : Fin 8, ∃ t : State, exec (.unitPowerUp (.stack k)) s = .next t ∧ t = { s with selfRefresh := t.selfRefresh } ∧
      ∀ i, i < 8 → t.selfRefresh.getLsbD i = (s.selfRefresh.getLsbD i && decide (i ≠ k.val))) ∧
    (s.fld (foy 0x0610) 16 1 = 1 →
      (∀ (h : Fin 4) (g : Fin 48), g.val ≠ 0 → regionsClear (s.hall h.val).regions (g.val * 2 ^ 22) (2 ^ 22) = true →
        exec (.idleGate (.bankGroup h g)) s = .next (s.setFld (hallMem h.val 0x30) g.val 1 1)) ∧
      (∀ n : Fin 256, s.coreClear n.val = true → ∃ t : State, exec (.idleGate (.salon n)) s = .next t ∧
        t = { s with salonGate := t.salonGate } ∧ ∀ m, m ∈ t.salonGate ↔ m = n.val ∨ m ∈ s.salonGate) ∧
      (∀ c : Fin 32, (∀ i, i < 8 → s.coreClear (8 * c.val + i) = true) →
        exec (.idleGate (.cluster c)) s = .next (s.setFld (foy 0x0008) (32 + c.val) 1 1)) ∧
      (∀ k : Fin 8, s.hallIdle (k.val / 2) = true → ∃ t : State, exec (.idleGate (.stack k)) s = .next t ∧
        t = { s with selfRefresh := t.selfRefresh } ∧ ∀ i, i < 8 → t.selfRefresh.getLsbD i = (s.selfRefresh.getLsbD i || decide (i = k.val))))

/-! Rings, jobs and their end (R20 to R24, R236 to R242, R270, R333 to R336, R347 to R365). -/

/-- R350 to R353: a doorbell moves TAIL of a submission ring or HEAD of a completion ring, the free-running difference within the
ring's size; beyond it the ring enters the error state, HOST.EVENT.RING_ERR is set and fault RING_OVERFLOW is posted; a ring in
error takes nothing; one that is off, or a kill that names no active job of the ring, posts event 0x1051. R362: a kill ends the job
it names, unless a fault of that job has been reported, which prevails. R347, R348: enabling a ring whose configuration is valid
turns it on with both pointers 0; an invalid configuration is refused with ERROR 3 and ENABLE 0. R347, R352: disabling turns a
submission ring off at once, and a completion ring once no slot of it is reserved. -/
def Obligations.RingsAndDoorbells : Prop :=
  (∀ (ring : BitVec 14) (p : Word) (id : DWord) (s : State),
     let r := ring.toNat
     let on := ringState s r = 1 ∨ ringState s r = 2
     let room := (s.vbWait.filter (fun q => q.kind == 5 && q.num == BitVec.ofNat 12 r)).length < 4
     let packet := fun (event : Half) (payload : List DWord) => (⟨event, 5, BitVec.ofNat 12 r, 0, s.time, payload⟩ : VPkt)
     s.doorbellOpen r = true →
     (on → ringType s r = 1 → ptrDiff p.toNat (ringHead s r) ≤ ringSize s r →
       ∃ t : State, exec (.doorbellPointer ring p) s = .next t ∧ t = { s with reg := t.reg } ∧ ringTail t r = p.toNat ∧
         ringHead t r = ringHead s r ∧ ∀ o, o ≠ ringReg r 0x10 → t.rget o = s.rget o) ∧
     (on → ringType s r = 2 → ptrDiff (ringTail s r) p.toNat ≤ ringSize s r →
       ∃ t : State, exec (.doorbellPointer ring p) s = .next t ∧ t = { s with reg := t.reg } ∧ ringHead t r = p.toNat ∧
         ringTail t r = ringTail s r ∧ ∀ o, o ≠ ringReg r 0x10 → t.rget o = s.rget o) ∧
     (∀ err, on → (ringType s r = 1 ∧ ringSize s r < ptrDiff p.toNat (ringHead s r) ∧ err = 1) ∨
         (ringType s r = 2 ∧ ringSize s r < ptrDiff (ringTail s r) p.toNat ∧ err = 2) → room →
       ∃ t : State, exec (.doorbellPointer ring p) s = .next t ∧ ringState t r = 3 ∧ t.fld (ringReg r 0x20) 4 4 = err ∧
         t.rget (ringReg r 0x10) = s.rget (ringReg r 0x10) ∧ t.fld 0x0028 1 1 = 1 ∧ t.jobs = s.jobs ∧
         t.vbWait = s.vbWait ++ [packet codeRingOverflow [locusWord 0 (BitVec.ofNat 16 r) (BitVec.ofNat 16 err), 0, p.setWidth 64]]) ∧
     (ringState s r = 3 → exec (.doorbellPointer ring p) s = .next s) ∧
     (ringState s r = 0 → room → exec (.doorbellPointer ring p) s =
       .next { s with vbWait := s.vbWait ++ [packet 0x1051 [BitVec.ofNat 64 r, p.setWidth 64]] }) ∧
     (room → (ringState s r = 0 ∨ ∀ e ∈ s.jobs, ¬ (e.2.ring = r ∧ e.2.jobId = id)) →
       exec (.doorbellKill ring id) s = .next { s with vbWait := s.vbWait ++ [packet 0x1051 [BitVec.ofNat 64 r, id]] }) ∧
     (∀ e : Nat × Job, ringState s r ≠ 0 → s.ringJob r id = some e →
       ((∀ x ∈ s.reports, x.job.toNat ≠ e.1) → exec (.doorbellKill ring id) s = .next (s.endJob e.1 2 0 0 0 0 .write)) ∧
       (∀ x, x.job.toNat = e.1 → x.extra = [] → (∀ y ∈ s.reports, y.job.toNat = e.1 ↔ y = x) → s.reports.count x = 1 → e.2.phase = .running →
         s.job e.1 = some e.2 → exec (.doorbellKill ring id) s =
           .next ({ s with reports := s.reports.erase x }.endJob e.1 1 x.code x.iaddr x.unit x.aux .write)))) ∧
  (∀ (ring : BitVec 14) (ctl : DWord) (s : State),
     let r := ring.toNat
     let c := ringReg r 0x08
     s.hostOpen c = true →
     (s.fld c 0 1 = 0 → (ringState s r = 0 ∨ ringState s r = 3) → fget ctl 0 1 = 1 →
       ∀ ty lg cq, fget ctl 1 2 = ty → fget ctl 3 5 = lg → fget ctl 8 14 = cq →
         (((ty = 1 ∧ s.fld (ringReg cq 0x08) 0 1 = 1 ∧ ringType s cq = 2 ∧ cq ≠ r) ∨ ty = 2) → 2 ≤ lg → lg ≤ 14 →
           ∃ t : State, exec (.ringEnable ring ctl) s = .next t ∧ t = { s with reg := t.reg } ∧ t.fld c 0 1 = 1 ∧ ringType t r = ty ∧
             ringSize t r = 2 ^ lg ∧ ringState t r = 1 ∧ t.rget (ringReg r 0x10) = 0 ∧
             t.fld (ringReg r 0x20) 16 16 = s.fld (ringReg r 0x20) 16 16 ∧
             ∀ o, o ≠ c → o ≠ ringReg r 0x10 → o ≠ ringReg r 0x20 → t.rget o = s.rget o) ∧
         (((ty ≠ 1 ∧ ty ≠ 2) ∨ lg < 2 ∨ 14 < lg ∨ (ty = 1 ∧ cq ≠ r ∧ (s.fld (ringReg cq 0x08) 0 1 = 0 ∨ ringType s cq ≠ 2))) →
           ∃ t : State, exec (.ringEnable ring ctl) s = .next t ∧ t = { s with reg := t.reg } ∧ t.fld c 0 1 = 0 ∧
             ringState t r = ringState s r ∧ t.fld (ringReg r 0x20) 4 4 = 3 ∧ t.rget (ringReg r 0x10) = s.rget (ringReg r 0x10) ∧
             ∀ o, o ≠ c → o ≠ ringReg r 0x20 → t.rget o = s.rget o)) ∧
     (s.fld c 0 1 = 1 → (ringState s r = 1 ∨ ringState s r = 2) → exec (.ringEnable ring ctl) s = .next s) ∧
     (s.fld c 0 1 = 1 →
       ∃ t : State, exec (.ringDisable ring ctl) s = .next t ∧ t = { s with reg := t.reg } ∧ t.rget (ringReg r 0x10) = s.rget (ringReg r 0x10) ∧
         (ringType s r = 1 → ringState t r = 0 ∧ t.fld c 0 1 = 0) ∧
         (ringType s r = 2 → s.fld (ringReg r 0x20) 16 16 = 0 → ringState t r = 0 ∧ t.fld c 0 1 = 0) ∧
         (ringType s r = 2 → s.fld (ringReg r 0x20) 16 16 ≠ 0 → ringState t r = 2 ∧ t.fld c 0 1 = 1) ∧
         ∀ o, o ≠ c → o ≠ ringReg r 0x20 → t.rget o = s.rget o))

/-- R350, R356, R357, R421: a fetch takes the entry at HEAD, the lowest free handle and a record slot, and makes check 0; a ONCE key then leaves
the vault with the job, and a failure refuses it. R20, R333: the static phase maps the job to the serving clusters of its mask and keeps what it
read once every check passes; an empty mapped set or a failed check refuses the job. -/
def Obligations.FetchAndStaticChecks : Prop :=
  ∀ (s : State) (hm : List Host.Cell),
    (∀ (ring : BitVec 14) (h : Nat),
      let r := ring.toNat
      let c := s.fld (ringReg r 0x08) 8 14
      let v := (s.learn hm).hostNat ((s.rget (ringReg r 0)).toNat + ringHead s r % ringSize s r * 64) 64
      let j := entryJob r s.fetches c (BitVec.ofNat 16 (s.fld (ringReg r 0x08) 48 16)) v
      (s.fetchable r = false → exec (.jobFetch ring hm) s = .next s) ∧
      (s.fetchable r = true → s.freeHandle = some h →
        (∀ k, (s.learn hm).check0 h j v = [] → s.vaultKey j.key j.domain = some k →
          ∃ t : State, exec (.jobFetch ring hm) s = .next t ∧ t.job h = some { j with keyOnce := k.once } ∧
            (∀ g, g ≠ h → t.job g = s.job g) ∧ t.keys = (if k.once = true then s.keys.erase k else s.keys) ∧ t.fetches = s.fetches + 1 ∧
            ringHead t r = (ringHead s r + 1) % 2 ^ 32 ∧ ringTail t r = ringTail s r ∧
            t.fld (ringReg r 0x20) 16 16 = (s.fld (ringReg r 0x20) 16 16 + 1) % 2 ^ 16 ∧
            t.fld (ringReg c 0x20) 16 16 = (s.fld (ringReg c 0x20) 16 16 + 1) % 2 ^ 16 ∧
            t.fld 0x0020 0 16 = (s.fld 0x0020 0 16 + 1) % 2 ^ 16 ∧ t.cores = s.cores ∧ t.sram = s.sram ∧ t.hbm = s.hbm) ∧
        ((s.learn hm).check0 h j v ≠ [] →
          ∃ t : State, exec (.jobFetch ring hm) s = .next t ∧ t.job h = none ∧ t.keys = s.keys ∧
            ringHead t r = (ringHead s r + 1) % 2 ^ 32 ∧ t.cores = s.cores))) ∧
    (∀ (handle : Half) (j : Job),
      let h := handle.toNat
      let mapped := j.cmask &&& BitVec.setWidth 32 (s.rget (foy 0x0008))
      let u := (s.learn hm).bump (foy 0xC8) 1
      let ld := u.readJob j.domain.toNat j.desc
      let fails := Chk.run u j.domain.toNat { ld := ld, mapped := mapped, cores := u.positions mapped }
      s.job h = some j → j.phase = .fetched →
      (mapped ≠ 0 → fails = [] →
        ∃ (t : State) (k : Job), exec (.loaderStaticPhase handle hm) s = .next t ∧ t.job h = some k ∧ k.phase = .checked ∧ k.mapped = mapped ∧
          k.cores = s.positions mapped ∧ k.jd = some ld.jd ∧ k.tensors = ld.tensors ∧ k.layers = ld.layers ∧ k.numDef = s.rget (foy 0x40) ∧
          t.fld (foy 0xC8) 0 48 = (s.fld (foy 0xC8) 0 48 + 1) % 2 ^ 48 ∧ (∀ g, g ≠ h → t.job g = s.job g) ∧
          t.cores = s.cores ∧ t.halls = s.halls ∧ t.hbm = s.hbm ∧ t.sram = s.sram) ∧
      (mapped = 0 ∨ fails ≠ [] → ∃ t : State, exec (.loaderStaticPhase handle hm) s = .next t ∧ t.job h = none ∧ t.cores = s.cores ∧
        ∀ g, g ≠ h → t.job g = s.job g))

/-- R209, R422: a checked job takes free pages of its footprint and a free key slot of every Hall that holds one, or waits. R335, R417: the copy
phase lands the kernel image and the model image and measures them; a failure of check 12 refuses the job. R22, R23, R324, R359, R435: a copied
job whose units are free and before which no other goes starts, and its cores, clusters and mailbox become its own; one whose mapped set has
been cut is refused. -/
def Obligations.LoadingAndStarting : Prop :=
  ∀ (handle : Half) (j : Job) (s : State),
    let h := handle.toNat
    s.job h = some j →
    (j.phase = .checked → j.keyLoaded = false →
      (s.allocate h j = none → exec (.keySlotLoad handle) s = .next s) ∧
      (s.allocate h j ≠ none →
        ∃ (t : State) (k : Job), exec (.keySlotLoad handle) s = .next t ∧ t.job h = some k ∧ k.keyLoaded = true ∧ k.phase = .checked ∧
          (∀ p ∈ k.pages, s.pageFree p = true ∧ (t.page p).job = handle) ∧ (∀ p, p ∉ k.pages → t.page p = s.page p) ∧
          (∀ x ∈ k.keySlots, 0 < x.2 ∧ x.2 < 64 ∧ Assoc.find s.keySlots (64 * x.1 + x.2) = none ∧
            Assoc.find t.keySlots (64 * x.1 + x.2) = some handle) ∧
          (∀ p ∈ k.pages, ∃ x ∈ k.keySlots, x.1 = p / 98304))) ∧
    (∀ (jd : JobDesc) (hm : List Host.Cell), j.phase = .checked → j.keyLoaded = true → j.jd = some jd →
      let u := s.learn hm
      let kimg := u.hostBytes jd.kimg jd.klen
      let model := u.hostBytes jd.mimg jd.mlen
      u.copyGrants j jd = [] → (∀ x ∈ j.tensors, x.zero = false) → (∀ l ∈ j.layers, ∀ q ∈ l.tempos, q.outliers = 0) →
      (u.check12 j jd kimg = [] →
        ∃ t : State, exec (.loaderCopyPhase handle hm) s = .next t ∧
          t.job h = some { j with phase := .copied, kimg := kimg, jdigest := Config.sha512 (j.jbytes ++ kimg), mdigest := Config.sha512 model } ∧
          ((∀ e ∈ j.kaddr, ∀ f ∈ j.kaddr, e = f ∨ e.2 + jd.klen ≤ f.2 ∨ f.2 + jd.klen ≤ e.2) →
            ∀ e ∈ j.kaddr, t.readBytes e.2 jd.klen = kimg) ∧
          (j.pages.Nodup → jd.mlen ≤ j.pages.length * 2 ^ 21 → (∀ e ∈ j.kaddr, 2 ^ 40 ≤ e.2) → (∀ p ∈ j.pages, p < 393216) →
            ∀ (i p : Nat) (b : Byte), model[i]? = some b → j.pages[i / 2 ^ 21]? = some p → t.readByte (p * 2 ^ 21 + i % 2 ^ 21) = b)) ∧
      (u.check12 j jd kimg ≠ [] → ∃ t : State, exec (.loaderCopyPhase handle hm) s = .next t ∧ t.job h = none)) ∧
    (j.phase = .copied →
      (s.fencedUnit j = none → s.canStart h j = true → (∀ k ∈ s.jobs, s.canStart k.1 k.2 = true → s.before k.2 j = false) →
        (∀ n ∈ j.cores, n < 256) →
        ∃ (t : State) (k : Job), exec (.jobStart handle) s = .next t ∧ t.job h = some k ∧ k.phase = .running ∧ k.step = 0 ∧ k.layer = 0 ∧
          k.flags = 0 ∧ k.cores = j.cores ∧ t.lastRing = j.ring ∧
          (∀ n ∈ j.cores, (t.core n).job = handle ∧ (t.core n).flags = 0 ∧ (t.core n).tile = none ∧
            ∀ i x, salonParts[i]? = some x → t.regionAt n (i + 1) = { valid := true, owner := 0, job := handle, base := x.1, len := x.2 }) ∧
          (∀ n, n ∉ j.cores → t.core n = s.core n) ∧
          (∀ c ∈ clustersOf j.mapped, (t.cluster c).job = handle ∧ t.fld (cluReg c 0x50) 0 45 = 2 ^ 44) ∧
          (j.mbx < 64 → t.fld (mbxReg j.mbx 0x18) 1 15 = h % 2 ^ 15) ∧
          t.fld 0x0020 16 16 = (s.fld 0x0020 16 16 + 1) % 2 ^ 16) ∧
      (s.fencedUnit j = none → (s.canStart h j = false ∨ ∃ k ∈ s.jobs, s.canStart k.1 k.2 = true ∧ s.before k.2 j = true) →
        exec (.jobStart handle) s = .next s) ∧
      (s.fencedUnit j ≠ none → ∃ t : State, exec (.jobStart handle) s = .next t ∧ t.job h = none))

/-- R237, R238, R241, R350, R362 to R364: whatever ends a job, its completion record with its status, code, locus and flags lands in
the slot of its sequence number, TAIL and the sequence move on, the reserved slot is free, the job counts as active no longer and is
kept for its report, and its handle is free. A job that had not started gives up what it held; a running one stops in its cores, its
windows, barriers and transfers end, its regions enter quarantine until its scrub, and its keys and the contents of its pages are
gone. R237, R270: a running job whose last layer of its last step is done ends with status OK, unless a report of it is on its way
or a packet that its windows admitted has not landed (R396). A report ends its running job as FAULTED; of two that arrive in one
HCLK the one of the lower unit does, and the other goes to the Visitor Book; so does a report of a job that does not run, and one
with values that no record holds. -/
def Obligations.JobEndsAndReports : Prop :=
  (∀ (handle : Half) (j : Job) (status code : Half) (iaddr : Word) (unit aux : Half) (s : State),
     let h := handle.toNat
     let c := j.cring
     let size := ringSize s c
     let seq := s.fld (ringReg c 0x20) 32 32
     let t := s.endJob h status code iaddr unit aux .write
     s.job h = some j → c < 16384 → j.ring < 16384 → c ≠ j.ring → j.phase ≠ .ended → j.scrubbed = false →
     (status ≠ 0 ∨ ∀ g, g < 4 → ∀ r ∈ (s.hall g).regs, r.job ≠ handle) →
     (∀ i b, (recordBytes j seq size status code iaddr unit aux (if status = 3 then 0 else j.flags.toNat))[i]? = some b →
       t.hostByte ((s.rget (ringReg c 0)).toNat + seq % size * 32 + i) = b) ∧
     t.fld (ringReg c 0x10) 32 32 = (s.fld (ringReg c 0x10) 32 32 + 1) % 2 ^ 32 ∧ t.fld (ringReg c 0x20) 32 32 = (seq + 1) % 2 ^ 32 ∧
     t.fld (ringReg c 0x20) 16 16 = s.fld (ringReg c 0x20) 16 16 - 1 ∧
     t.fld (ringReg j.ring 0x20) 16 16 = s.fld (ringReg j.ring 0x20) 16 16 - 1 ∧ t.fld 0x0020 0 16 = s.fld 0x0020 0 16 - 1 ∧
     t.ended.getLast?.map (fun e => (e.handle, e.status, e.code)) = some (handle, status, code) ∧ t.ended.length ≤ 1024 ∧
     t.job h = none ∧ (∀ g, g ≠ h → t.job g = s.job g) ∧ (∀ n, n ∉ j.cores → t.core n = s.core n) ∧ (∀ e ∈ t.keySlots, e.2 ≠ handle) ∧
     (∀ e ∈ t.hbm, pageOf e.1 ∉ j.pages) ∧
     (j.phase ≠ .running → t.scrubs = s.scrubs ∧ t.cores = s.cores ∧ t.fld 0x0020 16 16 = s.fld 0x0020 16 16 ∧
       (∀ p ∈ j.pages, (t.page p).job = 0) ∧ ∀ g, g < 4 → ∀ e ∈ (t.hall g).regions, jobRegion h e.2 = false) ∧
     (j.phase = .running → (∃ k : Job, t.scrubs = s.scrubs ++ [(h, k)] ∧ k = { j with phase := .ended }) ∧
       t.fld 0x0020 16 16 = s.fld 0x0020 16 16 - 1 ∧
       (∀ n ∈ j.cores, (t.core n).running = false ∧ (t.core n).halting = false ∧ (t.core n).queue = [] ∧ (t.core n).waits = [] ∧
         (t.core n).checkNow = none ∧ (t.core n).checkQ = [] ∧ ∀ e ∈ (t.core n).regions, jobRegion h e.2 = false) ∧
       (∀ n i, n ∈ j.cores → jobRegion h ((s.core n).regions.get {} i) = true →
         (t.core n).regions.get {} i = { (s.core n).regions.get {} i with quar := true }) ∧
       (∀ g, g < 4 → (∀ e ∈ (t.hall g).regions, jobRegion h e.2 = false) ∧
         (∀ e ∈ (t.hall g).windows, e.2.job = handle → e.2.isOpen = false) ∧ (∀ b ∈ (t.hall g).barriers, b.job ≠ handle) ∧
         ∀ r ∈ (t.hall g).regs, r.job ≠ handle) ∧
       ∀ x ∈ t.xfers, x.2.job ≠ handle)) ∧
  ((∀ (handle : Half) (j : Job) (d : JobDesc) (s : State), s.job handle.toNat = some j → j.phase = .running → j.jd = some d →
     j.layer + 1 = j.layers.length → j.step + 1 = d.reps → j.layerDone = j.mapped → j.measure = false →
     ((∀ r ∈ s.reports, r.job ≠ handle) → (∀ a ∈ s.arrivals, (s.arrivalWin a).job ≠ handle) → exec (.jobComplete handle) s = .next (s.endJob handle.toNat 0 0 0 0 0 .write)) ∧
     ((∃ r ∈ s.reports, r.job = handle) ∨ (∃ a ∈ s.arrivals, (s.arrivalWin a).job = handle) → exec (.jobComplete handle) s = .next s)) ∧
   (∀ (a b : Report) (rest : List Report) (s : State),
     let u : State := { s with reports := rest }
     let other := fun (t : State) (r : Report) => (⟨r.code, 0, 0, r.job, t.time, locusWord r.iaddr r.unit r.aux :: 1 :: r.extra⟩ : VPkt)
     let room := fun (t : State) => (t.vbWait.filter (fun q => q.kind == 0 && q.num == 0)).length < 4
     (∀ j, s.reports = a :: rest → s.job a.job.toNat = some j → j.phase = .running → a.extra = [] →
       exec (.faultReport 1) s = .next (u.endJob a.job.toNat 1 a.code a.iaddr a.unit a.aux .write)) ∧
     (∀ j, s.reports = a :: b :: rest → a.job = b.job → s.job a.job.toNat = some j → j.phase = .running → a.unit ≠ b.unit →
       a.extra = [] → b.extra = [] →
       let best := if a.unit.toNat < b.unit.toNat then a else b
       let left := if a.unit.toNat < b.unit.toNat then b else a
       let t := u.endJob a.job.toNat 1 best.code best.iaddr best.unit best.aux .write
       room t → exec (.faultReport 2) s = .next { t with vbWait := t.vbWait ++ [other t left] }) ∧
     (∀ j, s.reports = a :: rest → s.job a.job.toNat = some j → j.phase = .running → a.extra ≠ [] → room s →
       exec (.faultReport 1) s =
         .next ({ u with vbWait := s.vbWait ++ [other s a] }.endJob a.job.toNat 1 a.code a.iaddr a.unit a.aux .write)) ∧
     (s.reports = a :: rest → (∀ j, s.job a.job.toNat = some j → j.phase ≠ .running) → room s →
       exec (.faultReport 1) s = .next { u with vbWait := s.vbWait ++ [other s a] })))

/-- R238 to R242: the scrub of an ended job, whose record is written or waits, leaves its Salons and Gallery regions zero and free and its cores,
clusters and pages without an owner. R241: the background scrub returns a page. R360: released mailboxes close. R365: after
COAL_TIME the ring's vector is raised, or becomes pending while it is masked. -/
def Obligations.ScrubsAndCoalescing : Prop :=
  ∀ (s : State),
    (∀ (handle : Half) (j : Job),
      let h := handle.toNat
      let held := (∀ e ∈ s.scrubs, e.1 ≠ h) ∧ s.job h = some j ∧ j.phase = .ended ∧ j.scrubbed = false
      let gone := s.scrubs.find? (fun e => e.1 == h) = some (h, j)
      handle ≠ 0 → gone ∨ held → (∀ n ∈ j.cores, n < 256) →
      ∃ t : State, exec (.scrubComplete handle) s = .next t ∧
        (gone → t.scrubs = s.scrubs.erase (h, j) ∧ t.jobs = s.jobs) ∧
        (held → t.scrubs = s.scrubs ∧ t.job h = some { j with scrubbed := true } ∧ ∀ g, g ≠ h → t.job g = s.job g) ∧
        (∀ g, g < 4 → ∀ e ∈ (t.hall g).scrub, e.1 ≠ handle) ∧
        (∀ n ∈ j.cores, (∀ a, salonBase n ≤ a → a < salonBase n + 2 ^ 22 → Assoc.get 0 t.sram a = 0) ∧
          (t.core n).s = [] ∧ (t.core n).td = [] ∧ (t.core n).p = 0 ∧ (t.core n).lcCount = [] ∧ (t.core n).kbuf = [] ∧ (t.core n).acm = [] ∧
          (t.core n).wFull = 0 ∧ (t.core n).aFull = 0 ∧ (t.core n).job = 0 ∧ (t.core n).winC = (s.core n).winC) ∧
        (∀ n, n ∉ j.cores → t.core n = s.core n) ∧
        (∀ g, g < 4 → ∀ e ∈ (s.hall g).regions, quarRegion h e.2 = true → t.regionAt (256 + g) e.1 = {} ∧
          ∀ a, galBase g + e.2.base ≤ a → a < galBase g + e.2.base + e.2.len → Assoc.get 0 t.sram a = 0) ∧
        (∀ c, c < 32 → bitAt j.mapped.toNat c = true → (t.cluster c).job = 0 ∧ (t.cluster c).events = []) ∧
        (∀ p ∈ j.pages, (t.page p).job = 0) ∧ (∀ p, p ∉ j.pages → t.page p = s.page p) ∧
        (∀ p, p ∈ t.scrubPages ↔ p ∈ s.scrubPages ∨ (s.fld (foy 0xB8) 0 1 = 1 ∧ p ∈ j.pages))) ∧
    (∃ t : State, exec (.scrubComplete 0) s = .next t ∧ t.cores = s.cores ∧ t.jobs = s.jobs ∧
      (∀ g, g < 4 → ∀ e ∈ (t.hall g).scrub, e.1 ≠ 0) ∧
      (∀ n g i, n < 64 → s.fld (mbxReg n 0) 0 2 = 2 → s.mbxRegion n = some (g, i) → (s.regionAt (256 + g) i).quar = true →
        t.rget (mbxReg n 0) = 0 ∧ t.rget (mbxReg n 8) = 0) ∧
      ∀ g, g < 4 → ∀ e ∈ (s.hall g).regions, e.2.valid = true → e.2.quar = true → e.2.owner = 1 → t.regionAt (256 + g) e.1 = {} ∧
        ∀ a, galBase g + e.2.base ≤ a → a < galBase g + e.2.base + e.2.len → Assoc.get 0 t.sram a = 0) ∧
    (∀ page : Nat, ∃ t : State, exec (.hbmPageScrubDone page) s = .next t ∧ t = { s with scrubPages := t.scrubPages } ∧
      ∀ p, p ∈ t.scrubPages ↔ p ∈ s.scrubPages ∧ p ≠ page) ∧
    (∀ ring : BitVec 14,
      let c := ring.toNat
      let vec := s.fld (ringReg c 0x08) 32 11
      0 < Assoc.get 0 s.coal (2 * c) → Assoc.get 0 s.coal (2 * c + 1) + 600 * max 1 (s.fld (ringReg c 0x18) 16 16) ≤ s.hclk →
      ∃ t : State, exec (.coalesceTimeout ring) s = .next t ∧ t = { s with coal := t.coal, out := t.out, msixTable := t.msixTable } ∧
        (∀ k, Assoc.get 0 t.coal k = if k = 2 * c ∨ k = 2 * c + 1 then 0 else Assoc.get 0 s.coal k) ∧
        (fget (Assoc.get 0 s.msixTable (2 * vec + 1)) 32 1 = 0 → t.out = s.out ++ [.msix vec] ∧ t.msixTable = s.msixTable) ∧
        (fget (Assoc.get 0 s.msixTable (2 * vec + 1)) 32 1 = 1 → t.out = s.out ∧
          fget (Assoc.get 0 t.msixTable (4096 + vec / 64)) (vec % 64) 1 = 1))

/-- R355: GRANT_SYNC reads as the count of refused requests; R346, R369: 0 where the device does not take the read. R358 to R361: OPEN allocates a circular Gallery region for a closed mailbox, or answers
why not; RELEASE closes one, whose region is scrubbed once no job holds it; the command is busy until it finishes with HOST.EVENT.MBX_DONE; a
read of a region in quarantine or with an uncorrectable error returns zeros; else it returns a full slot's bytes and empties the slot with its last word, or the last word again with MISS; a write is discarded and counted. -/
def Obligations.MailboxesOpenReadAndRelease : Prop :=
  ∀ (s : State),
    (s.hostOpen 0x1008 = true → exec .grantSyncRead s = .next (s.give (.data (leBytes 8 (s.rget 0x1008).toNat)))) ∧
    (s.hostOpen 0x1008 = false → exec .grantSyncRead s = .next (s.give (.data (leBytes 8 0)))) ∧
    (∀ cmd : DWord,
      let n := fget cmd 2 6
      let h := fget cmd 8 2
      let slot := fget cmd 10 4
      let len := fget cmd 32 32
      let bytes := 4096 * len
      let align := max 4096 (2 ^ (8 + slot))
      let bad := 8 < slot ∨ len = 0 ∨ s.mbxWindow < bytes ∨ bytes % 2 ^ (8 + slot) ≠ 0
      s.hostOpen 0x1010 = true →
      (s.fld 0x1018 0 1 = 1 → exec (.mbxOpen cmd) s = .next s ∧ exec (.mbxRelease cmd) s = .next s) ∧
      (s.fld 0x1018 0 1 = 0 →
        (∀ result, (bad ∧ result = 1) ∨ (¬ bad ∧ s.fld (mbxReg n 0) 0 2 ≠ 0 ∧ result = 2) →
          exec (.mbxOpen cmd) s = .next ({ s with mbxBusy := some (fput cmd 0 2 1, result) }.setFld 0x1018 0 1 1)) ∧
        (∀ o i, ¬ bad → s.fld (mbxReg n 0) 0 2 = 0 → galSpace (s.hall h).regions bytes align = some o →
          i < 1024 → (s.regionAt (256 + h) i).valid = false → (∀ k, k < i → (s.regionAt (256 + h) k).valid = true) →
          ∃ t : State, exec (.mbxOpen cmd) s = .next t ∧ t = { s with reg := t.reg, sram := t.sram, halls := t.halls, mbxBusy := t.mbxBusy } ∧
            t.mbxBusy = some (fput cmd 0 2 1, 0) ∧ t.fld 0x1018 0 1 = 1 ∧
            t.fld (mbxReg n 0) 0 2 = 1 ∧ t.fld (mbxReg n 0) 2 2 = h ∧ t.fld (mbxReg n 0) 4 4 = slot ∧
            t.fld (mbxReg n 0) 16 16 = fget cmd 16 16 ∧ t.fld (mbxReg n 0) 32 32 = len ∧
            t.rget (mbxReg n 8) = BitVec.ofNat 64 (galBase h + o) ∧ t.rget (mbxReg n 0x10) = 0 ∧
            let clsW := decide (s.fld (foy 0xD8) 0 1 = 1)
            t.regionAt (256 + h) i = { valid := true, circ := true, clsW := clsW, slot := slot, owner := 1, base := o, len := bytes }) ∧
        (∀ g i, s.fld (mbxReg n 0) 0 2 = 1 → s.mbxRegion n = some (g, i) →
          ∃ t : State, exec (.mbxRelease cmd) s = .next t ∧ t.mbxBusy = some (fput cmd 0 2 2, 0) ∧ t.fld 0x1018 0 1 = 1 ∧
            t.fld (mbxReg n 0) 0 2 = 2 ∧ t.sram = s.sram ∧
            (s.fld (mbxReg n 0x18) 1 15 = 0 → (s.regionAt (256 + g) i).quar = false →
              t.regionAt (256 + g) i = { s.regionAt (256 + g) i with quar := true, job := 0 } ∧
              (t.hall g).scrub = (s.hall g).scrub ++ [(0, (s.regionAt (256 + g) i).len / 64)]) ∧
            (s.fld (mbxReg n 0x18) 1 15 ≠ 0 → t.halls = s.halls)))) ∧
    (∀ cmd r, s.mbxBusy = some (cmd, r) →
      ∃ t : State, exec .mbxCmdDone s = .next t ∧ t.mbxBusy = none ∧ t.rget 0x1018 = BitVec.ofNat 64 (r * 2 ^ 8) ∧ t.fld 0x0028 4 1 = 1 ∧
        t.halls = s.halls ∧ ∀ o, o ≠ 0x1018 → o ≠ 0x0028 → t.rget o = s.rget o) ∧
    (∀ (off len : Nat) (ecc : List EccHit),
      let n := off / s.mbxWindow
      let o := off % s.mbxWindow
      let fits := 0 < len ∧ len % 8 = 0 ∧ len ≤ 64 ∧ off % len = 0 ∧ off + len ≤ s.bar2Size
      (¬ fits → exec (.mailboxRead off ⟨len, ecc⟩) s = .next { s with cfg := { s.cfg with aerUr := true }, out := s.out ++ [.unsupported] }) ∧
      (fits → (s.carried 2 off = false ∨ s.fld (mbxReg n 0) 0 2 = 0 ∨ 4096 * s.fld (mbxReg n 0) 32 32 < o + len) →
        exec (.mailboxRead off ⟨len, ecc⟩) s = .next (s.give (.data (List.replicate len 0)))) ∧
      (∀ g i, fits → s.carried 2 off = true → s.fld (mbxReg n 0) 0 2 ≠ 0 → o + len ≤ 4096 * s.fld (mbxReg n 0) 32 32 →
        s.mbxRegion n = some (g, i) →
        let r := s.regionAt (256 + g) i
        let a := galBase g + r.base + o
        let zero := Out.data (List.replicate len 0)
        (r.quar = true → (s.vbWait.filter (fun q => q.kind == 1 && q.num == BitVec.ofNat 12 g)).length < 4 → g < 4 →
          exec (.mailboxRead off ⟨len, ecc⟩) s = .next { s with
            vbWait := s.vbWait ++ [⟨codeQuarantine, 1, BitVec.ofNat 12 g, 0, s.time, [locusWord 0 (BitVec.ofNat 16 g) 4, 0, BitVec.ofNat 64 a]⟩]
            out := s.out ++ [zero] }) ∧
        (∀ e, r.quar = false → ecc = [e] → s.eccFatal e = true → r.job ≠ 0 →
          ∃ t : State, exec (.mailboxRead off ⟨len, ecc⟩) s = .next t ∧ t.out.getLast? = some zero ∧
            ∃ x ∈ t.reports, x.job = r.job ∧ x.code = codeEcc ∧ x.unit = BitVec.ofNat 16 g ∧ x.aux = e.kind.setWidth 16) ∧
        (r.quar = false → ecc = [] →
        let k := o / r.slotSize
        let last := (k + 1) * r.slotSize
        o + len ≤ last →
        (k ∈ r.full → o + len < last → exec (.mailboxRead off ⟨len, ecc⟩) s = .next (s.give (.data (s.readBytes (galBase g + r.base + o) len)))) ∧
        (k ∈ r.full → o + len = last →
          ∃ t : State, exec (.mailboxRead off ⟨len, ecc⟩) s = .next t ∧ t.out = s.out ++ [.data (s.readBytes (galBase g + r.base + o) len)] ∧
            t.regionAt (256 + g) i = { r with full := r.full.filter (fun y => y != k), tail := if r.head = r.tail then r.tail else r.tail + 1 } ∧
            t.rget (mbxReg n 0x10) = BitVec.ofNat 64 (leNat (s.readBytes (galBase g + r.base + last - 8) 8)) ∧ t.sram = s.sram) ∧
        (k ∉ r.full →
          ∃ t : State, exec (.mailboxRead off ⟨len, ecc⟩) s = .next t ∧ t = { s with reg := t.reg, out := t.out } ∧ t.fld (mbxReg n 0x18) 0 1 = 1 ∧
            t.out = s.out ++ [.data ((List.range (len / 8)).flatMap (fun _ => leBytes 8 (s.rget (mbxReg n 0x10)).toNat))] ∧
            ∀ q, q ≠ mbxReg n 0x18 → t.rget q = s.rget q)))) ∧
    (∀ off : Nat, (s.carried 2 off = false → exec (.bar2Write off) s = .next s) ∧ (s.carried 2 off = true → off < s.bar2Size →
      let w := mbxReg (off / s.mbxWindow) 0x18
      ∃ t : State, exec (.bar2Write off) s = .next t ∧ t = { s with reg := t.reg } ∧ t.fld w 16 32 = (s.fld w 16 32 + 1) % 2 ^ 32 ∧
        t.fld w 0 16 = s.fld w 0 16 ∧ ∀ q, q ≠ w → t.rget q = s.rget q))

/-! Registers, resets and IDE (R8, R9, R83, R138, R342 to R346, R366 to R369, R484, R505). -/

/-- R8, R9, R342, R343, R346, R484, R505: a write changes the RW bits and the unlocked RWL bits of a register that no writer before it in rank has
written in this HCLK, clears the W1C bits that it writes with 1, and leaves every other bit and register; a write to a locked field is
recorded as event 0x1050. A writer that may not write there changes nothing, and a misaligned access of the host is an unsupported
request. R83: FOYER.PROV_CTL.S is taken within 4 to 16. R341, R365: a write of BAR4 sets the MSI-X table, and a vector that it unmasks sends its
pending interrupt. R339, R341, R342, R367: a write of configuration space, which waits while an FLR is in progress. -/
def Obligations.RegisterWritesFollowTheirType : Prop :=
  ∀ (s : State),
    (∀ (off : Nat) (v : DWord) (writer : Writer),
      let i := regInfo off
      let lock := Assoc.get 0 s.locks off &&& i.rwl
      let open_ := ~~~(s.claimed off writer &&& ~~~i.w1c)
      let m := (i.rw ||| i.rwl) &&& ~~~lock &&& open_
      off % 8 = 0 → off < 2 ^ 26 → (off < 0x100000 ∨ (0x300000 ≤ off ∧ off < 0x02000240) ∨ (0x02000280 ≤ off ∧ off < 0x02100000)) →
      off ∉ [0x1010, 0x400018, 0x400020, 0x02000108, 0x02000210, 0x02000710, 0x02000720, 0x02000738] → (∀ x ∈ takenAs, x.1 ≠ off) →
      ((writer = .host ∧ s.hostOpen off = true) ∨ (writer = .endpoint ∧ s.endpointOpen off = true) ∨
        (writer = .firmware ∧ (s.phase = .service ∨ s.phase = .booting) ∧ pcieOnly off = false)) →
      ∃ t : State, exec (.registerWrite (.bar0 off) v 8 writer) s = .next t ∧
        t = { s with reg := t.reg, vbWait := t.vbWait, written := t.written, writtenAt := t.writtenAt } ∧
        (∀ o w, t.claimed o w = s.claimed o w ||| (if o = off ∧ writerRank w < writerRank writer then BitVec.allOnes 64 else 0)) ∧
        t.rget off = ((v &&& m) ||| (s.rget off &&& ~~~m)) &&& ~~~(v &&& i.w1c) ∧
        (∀ o, o ≠ off → o ≠ vbReg 0x30 → t.rget o = s.rget o) ∧ (lock &&& open_ = 0 → t.vbWait = s.vbWait) ∧
        (lock &&& open_ ≠ 0 → (s.vbWait.filter (fun q => q.kind == 0 && q.num == 0)).length < 4 →
          t.vbWait = s.vbWait ++ [⟨0x1050, 0, 0, 0, s.time, [BitVec.ofNat 64 off, v]⟩])) ∧
    (∀ (v : DWord), s.hostOpen 0x02000048 = true → Assoc.get 0 s.locks 0x02000048 = 0 → s.claimed 0x02000048 .host = 0 →
      ∃ t : State, exec (.registerWrite (.bar0 0x02000048) v 8 .host) s = .next t ∧
        t = { s with reg := t.reg, written := t.written, writtenAt := t.writtenAt } ∧
        t.fld 0x02000048 0 5 = min 16 (max 4 (fget v 0 5)) ∧ t.fld 0x02000048 5 59 = s.fld 0x02000048 5 59) ∧
    (∀ (off size : Nat) (v : DWord) (writer : Writer), (size = 4 ∨ size = 8) → off % size = 0 → off + size ≤ 2 ^ 26 →
      ((writer = .host ∧ s.hostOpen off = false) ∨ (writer = .endpoint ∧ s.endpointOpen (off / 8 * 8) = false) ∨
        (writer = .firmware ∧ (pcieOnly (off / 8 * 8) = true ∨ (s.phase ≠ .service ∧ s.phase ≠ .booting)))) →
      exec (.registerWrite (.bar0 off) v size writer) s = .next s) ∧
    (∀ (off size : Nat) (v : DWord), ((size ≠ 4 ∧ size ≠ 8) ∨ off % size ≠ 0 ∨ 2 ^ 26 < off + size) →
      exec (.registerWrite (.bar0 off) v size .host) s = .next { s with cfg := { s.cfg with aerUr := true }, out := s.out ++ [.unsupported] }) ∧
    (∀ (off : Nat) (v : DWord), off % 8 = 0 → off < 0x8000 →
      let n := off / 16
      let word := 4096 + n / 64
      let sends := off / 8 % 2 = 1 ∧ fget v 32 1 = 0 ∧ fget (Assoc.get 0 s.msixTable word) (n % 64) 1 = 1
      (s.carried 4 off = false → exec (.registerWrite (.bar4 off) v 8 .host) s = .next s) ∧
      (s.carried 4 off = true → ∃ t : State, exec (.registerWrite (.bar4 off) v 8 .host) s = .next t ∧
        t = { s with msixTable := t.msixTable, out := t.out } ∧ Assoc.get 0 t.msixTable (off / 8) = v ∧
        (∀ k, k ≠ off / 8 → k ≠ word → Assoc.get 0 t.msixTable k = Assoc.get 0 s.msixTable k) ∧
        (sends → t.out = s.out ++ [.msix n] ∧ fget (Assoc.get 0 t.msixTable word) (n % 64) 1 = 0) ∧
        (¬ sends → t.out = s.out ∧ Assoc.get 0 t.msixTable word = Assoc.get 0 s.msixTable word))) ∧
    (∀ (size : Nat) (v : DWord),
      let cfg := fun (w : CfgWrite) => exec (.registerWrite (.config w) v size .host) s
      (s.fld 0x0008 4 1 = 1 → ∀ w, cfg w = .next { s with out := s.out ++ [.retry] }) ∧
      (s.fld 0x0008 4 1 = 0 →
        (∀ relaxed ido mps mrrs, mps.toNat ≤ 2 → mrrs.toNat ≤ 5 → cfg (.deviceControl relaxed ido mps mrrs) =
          .next { s with cfg := { s.cfg with relaxed := relaxed, ido := ido, mps := mps, mrrs := mrrs } }) ∧
        (∀ k, cfg (.bar2Size k) = .next (if 22 ≤ k ∧ k ≤ 30 then { s with bar2Size := 2 ^ k } else s)) ∧
        cfg .aerClear = .next { s with cfg := { s.cfg with aerUr := false } }))

/-- R366, R367, R415: a Function Level Reset, or a return from D3hot, ends every job without a record, empties the vault, the slots, the ring,
grant, mailbox and MSI-X tables, and sets every RW and RWL register back to its value after the Profile and configuration space to its
reset values; route and peer-set tables stay. It
ends with FLR_BUSY 0 and a readiness message. R368, R369: the last secure stream to go clears HOST.STATUS.IDE_SECURE and, where IDE is required,
ends the running jobs, whose records wait until a stream is secure; a stream becomes secure over an open session. -/
def Obligations.FunctionResetsAndIde : Prop :=
  ∀ (s : State),
    (∀ c : Instr, c = .flr ∨ c = .d3hotReturn → s.phase ≠ .off →
      ∃ t : State, exec c s = .next t ∧ t.fld 0x0008 4 1 = 1 ∧ t.keys = [] ∧ t.sessions = 0 ∧ t.tempo = [] ∧ t.docent = [] ∧ t.coal = [] ∧
        t.msixTable = [] ∧ t.mbxBusy = none ∧ t.jobs = [] ∧ t.keySlots = [] ∧ t.staging = [] ∧ t.bar2Size = 2 ^ 30 ∧
        t.cfg = { aerUr := s.cfg.aerUr } ∧ (∀ r, r < 16384 → t.rget (ringReg r 0x10) = 0 ∧ t.rget (ringReg r 0x20) = 0) ∧
        (∀ n, n < 64 → t.rget (mbxReg n 0) = 0) ∧ (∀ g, g < 4 → (t.hall g).cat = [] ∧ (t.hall g).regs = []) ∧
        (∀ o, o < 0x02180000 ∨ 0x021A0000 ≤ o → t.rget o &&& (regInfo o).mask = Assoc.get 0 s.profiled o &&& (regInfo o).mask) ∧
        ((∀ e ∈ s.jobs, (∀ n ∈ e.2.docSlots, n < 1024) ∧ ∀ l ∈ e.2.layers, ∀ q ∈ l.tempos, q.tensor < 4096) →
          ∀ o, 0x02180000 ≤ o → o < 0x021A0000 → t.rget o = s.rget o)) ∧
    (s.phase = .off → exec .flr s = .next s ∧ exec .d3hotReturn s = .next s) ∧
    (s.fld 0x0008 4 1 = 1 → ∃ t : State, exec .flrComplete s = .next t ∧ t = { s with reg := t.reg, out := s.out ++ [.frs] } ∧
      t.fld 0x0008 4 1 = 0 ∧ ∀ o, o ≠ 0x0008 → t.rget o = s.rget o) ∧
    (∀ stream : Fin 9, s.ide.getLsbD stream.val = true →
      ∃ t : State, exec (.ideLost stream) s = .next t ∧ (∀ i, i < 9 → t.ide.getLsbD i = (s.ide.getLsbD i && decide (i ≠ stream.val))) ∧
        ((∃ i, i < 9 ∧ i ≠ stream.val ∧ s.ide.getLsbD i = true) → t = { s with ide := t.ide }) ∧
        ((∀ i, i < 9 → i ≠ stream.val → s.ide.getLsbD i = false) → t.fld 0x0008 3 1 = 0 ∧
          (s.fld 0x1000 0 1 = 0 → t.jobs = s.jobs ∧ t.cores = s.cores) ∧
          (s.fld 0x1000 0 1 = 1 → t.fld 0x0028 5 1 = 1 ∧ ∀ h j, s.job h = some j → j.phase = .running →
            ∃ k, t.job h = some k ∧ k.phase = .ended ∧ k.pendingRec = some (2, 0, 0, 0, 0)))) ∧
    (∀ (stream : Fin 9) (session : Fin 4), s.sessions.getLsbD session.val = false → exec (.ideSecure ⟨stream, session⟩) s = .next s) ∧
    (∀ (stream : Fin 9) (session : Fin 4), s.sessions.getLsbD session.val = true → ∃ t : State, exec (.ideSecure ⟨stream, session⟩) s = .next t ∧
      (∀ i, i < 9 → t.ide.getLsbD i = (s.ide.getLsbD i || decide (i = stream.val))) ∧ t.fld 0x0008 3 1 = 1 ∧ t.cores = s.cores ∧
      ∀ h j, s.job h = some j → (j.pendingRec = none → t.job h = some j) ∧
        (j.pendingRec ≠ none → t.job h = none ∧ (j.scrubbed = false → (h, j) ∈ t.scrubs)))

/-! Security, start-up and the Profile (R410 to R431, R476, R478, R494, R498 to R509). -/

/-- R415 to R421: inside a session the vault takes a key that passes the checks of R420 and gives it up again, each with its status; outside one, or
for a request with a reserved field, it refuses. Reports, measurements and challenges answer with the signed bytes. R412: an update that passes
goes into the slot that does not run, on trial. R413: SVN_COMMIT raises the fuses to the running image's SVN. R429, R430: an
attempt at test access fails with its reason, the count and a new nonce. -/
def Obligations.VaultReportsAndUpdates : Prop :=
  ∀ (s : State),
    (∀ (req : KeyReq) (session : Fin 4), s.spdm = true → s.inSession session true = true →
      let respond := fun (t : State) (status : Nat) => t.respond 1 status []
      let free := s.vaultKey req.handle req.domain = none
      let formed := req.reserved = 0 ∧ req.flags.toNat < 2 ∧ req.handle ≠ 0
      let twice := bitsOf req.material.toNat 0 256 = bitsOf req.material.toNat 256 256
      (¬ formed → exec (.keyInstall req session true) s = .next (respond s 1)) ∧
      (formed → ¬ free → exec (.keyInstall req session true) s = .next (respond s 2)) ∧
      (formed → free → 4096 ≤ s.keys.length → exec (.keyInstall req session true) s = .next (respond s 3)) ∧
      (formed → free → s.keys.length < 4096 → twice → exec (.keyInstall req session true) s = .next (respond s 6)) ∧
      (formed → free → s.keys.length < 4096 → ¬ twice → exec (.keyInstall req session true) s =
        .next (respond { s with keys := s.keys ++ [⟨req.handle, req.domain, req.flags.getLsbD 0, req.material⟩] } 0))) ∧
    (∀ (domain : Half) (handle : Word) (session : Fin 4) (k : VKey), s.spdm = true → s.inSession session true = true → handle ≠ 0 →
      s.vaultKey handle domain = some k →
      ∃ t : State, exec (.keyRemove domain handle session true) s = .next t ∧ t = { s with keys := s.keys.erase k, out := t.out } ∧
        t.out = s.out ++ [.response 0 (leBytes 2 0x8002 ++ leBytes 2 0)] ∧ (s.keys.Nodup → k ∉ t.keys)) ∧
    (∀ (ring : Half) (id : DWord) (nonce : BitVec 256) (session : Fin 4), s.spdm = true → s.inSession session true = true →
      (s.reportedJob ring id = none → exec (.jobReport ring id 0 nonce session true) s = .next (s.respond 3 5 [])) ∧
      (∀ h j c st code, s.reportedJob ring id = some (h, j, c, st, code) →
        exec (.jobReport ring id 0 nonce session true) s = .next (s.respond 3 0 (signed (s.reportBytes h j c st code nonce))) ∧
        (s.reportBytes h j c st code nonce).length = 512)) ∧
    (∀ (req : KeyReq) (domain ring : Half) (handle : Word) (id : DWord) (nonce : BitVec 256) (session : Fin 4), s.spdm = true →
      exec (.keyInstall req session false) s = .next (s.respond 1 4 []) ∧ exec (.keyRemove domain handle session false) s =
        .next (s.respond 2 4 []) ∧ exec (.jobReport ring id 0 nonce session false) s = .next (s.respond 3 4 [])) ∧
    (∀ nonce : BitVec 256, s.spdm = true →
      (∃ l, exec (.getMeasurements nonce) s = .next (s.give (.response 0 (l ++ leBytes 64 (Config.sign l).toNat))) ∧
        l = s.measBytes 1 ++ s.measBytes 2 ++ s.measBytes 3 ++ s.measBytes 4 ++ s.measBytes 5 ++ leBytes 32 nonce.toNat) ∧
      (∃ l, exec (.challenge nonce) s = .next (s.give (.response 0 (l ++ leBytes 64 (Config.sign l).toNat))) ∧
        l = s.measBytes 5 ++ leBytes 32 nonce.toNat)) ∧
    (∀ session : Fin 4, s.spdm = true → ∃ t : State, exec (.spdmSessionStart session) s = .next t ∧ t = { s with sessions := t.sessions } ∧
      ∀ i, i < 4 → t.sessions.getLsbD i = (s.sessions.getLsbD i || decide (i = session.val))) ∧
    (∀ (cmd : DWord) (check : ImageCheck), s.hostOpen (foy 0x0210) = true → fget cmd 32 32 ≤ 2 ^ 25 → fget cmd 32 32 % 64 = 0 →
      s.grantGap (fget cmd 16 16) false (s.rget (foy 0x0208)).toNat (fget cmd 32 32) = none →
      let img : Image := { svn := check.svn, version := check.version, digest := check.digest }
      let slots := fun (t : State) => if s.runningB = true then t.flash.slotA = img ∧ t.flash.slotB = s.flash.slotB
        else t.flash.slotB = img ∧ t.flash.slotA = s.flash.slotA
      (check.fail = none → s.flash.svnFused ≤ check.svn →
        ∃ t : State, exec (.fwupdWrite cmd check true) s = .next t ∧ t = { s with reg := t.reg, flash := t.flash } ∧ slots t ∧
          t.flash.preferB = !s.runningB ∧ t.flash.trial = true ∧ t.flash.tried = false ∧ t.flash.svnFused = s.flash.svnFused ∧
          t.fld (foy 0x0218) 8 8 = 0) ∧
      (∀ r, (check.fail ≠ none ∧ r = 2) ∨ (check.fail = none ∧ check.svn < s.flash.svnFused ∧ r = 3) →
        ∃ t : State, exec (.fwupdWrite cmd check true) s = .next t ∧ t = { s with reg := t.reg } ∧ t.fld (foy 0x0218) 8 8 = r)) ∧
    (s.hostOpen (foy 0x0210) = true →
      let run := s.fld (foy 0x0200) 40 8
      (¬ (s.flash.trial = true ∧ s.runningB = s.flash.preferB) →
        ∃ t : State, exec .svnCommit s = .next t ∧ t = { s with reg := t.reg, flash := { s.flash with svnFused := t.flash.svnFused } } ∧
          t.flash.svnFused.toNat = max s.flash.svnFused.toNat run ∧ t.fld (foy 0x0218) 8 8 = 0) ∧
      (s.flash.trial = true → s.runningB = s.flash.preferB →
        ∃ t : State, exec .svnCommit s = .next t ∧ t = { s with reg := t.reg } ∧ t.fld (foy 0x0218) 8 8 = 6)) ∧
    (∀ (scope : BitVec 2) (testEn good : Bool), s.hostOpen (foy 0x0220) = true → s.fld (foy 0x0228) 8 4 < 8 →
      ∃ t : State, exec (.testGo .host scope testEn good) s = .next t ∧
        (Config.isLD = false → t.fld (foy 0x0228) 4 4 = 4 ∧ t.jobs = s.jobs ∧ t.phase = s.phase ∧ t.keys = s.keys) ∧
        (∀ r, Config.isLD = true → (testEn = false ∧ r = 2) ∨ (testEn = true ∧ good = false ∧ r = 3) →
          t.fld (foy 0x0228) 8 4 = s.fld (foy 0x0228) 8 4 + 1 ∧ t.fld (foy 0x0228) 4 4 = r ∧
          t.rget (foy 0x0230) = BitVec.ofNat 64 (bitsOf (Config.nonce s.fresh).toNat 0 64) ∧ t.fresh = s.fresh + 1 ∧
          t.jobs = s.jobs ∧ t.phase = s.phase ∧ t.keys = s.keys) ∧
        (Config.isLD = true → testEn = true → good = true → t.phase = .test ∧ t.keys = [] ∧ t.keySlots = [] ∧ t.sram = [] ∧ t.hbm = [] ∧
          t.identity = false ∧ t.testScope = s.testScope ||| scope ∧ t.fld (foy 0x0200) 3 1 = 1 ∧ t.fld 0x0008 0 1 = 0 ∧
          t.fld (foy 0x0228) 4 4 = 1 ∧ ∀ n, n < 4096 → t.rget (tempoSlot n 0x30) = 0))

/-- R498, R500, R470, R476: power comes up, samples MOD_ADDR and leaves every register at its reset value; a loss of power loses every job and
every memory but the flash; MOD_RESET_N keeps the test latch, and PERST_N the Visitor Book and the time as well. R410, R412, R414, R501: the
boot runs the preferred image that passes its checks, or the other with FALLBACK, and reaches start-up with every cluster in service when
every slice passes (R14); else the device stays in reset-hold. READY opens the device; while a device recovery stands it
has no effect (log entry 192, the model's choice). R506: a staged Profile that passes becomes the stored one. -/
def Obligations.StartUpAndResets : Prop :=
  ∀ (s : State),
    (∀ modAddr : BitVec 3, s.phase = .off → s.latched = false → s.latchNews = false →
      ∃ t : State, exec (.powerUp modAddr) s = .next t ∧
        t = { s with reg := t.reg, phase := .powered, pins := { s.pins with pwrEn := true, pwrGood := true, modAddr := modAddr } } ∧
        t.fld (foy 0x0728) 0 4 = s.latchCause.toNat ∧ ∀ o, o ≠ foy 0x0728 → t.rget o = s.rget o) ∧
    (∃ t : State, exec .powerLoss s = .next t ∧ t.phase = .off ∧ t.reg = State.reset.reg ∧ t.jobs = [] ∧ t.keys = [] ∧ t.sram = [] ∧ t.hbm = [] ∧
      t.cores = [] ∧ t.vb = [] ∧ t.flash = s.flash ∧ t.latched = false ∧ t.pins.pwrGood = false ∧ t.pins.pwrEn = false ∧ t.out = s.out) ∧
    (s.phase ≠ .off → s.phase ≠ .safe →
      (∃ t : State, exec .modReset s = .next t ∧ t.phase = .powered ∧ t.jobs = [] ∧ t.keys = [] ∧ t.sram = [] ∧ t.hbm = [] ∧ t.vb = [] ∧
        t.flash = s.flash ∧ t.hclk = s.hclk ∧ t.fld (foy 0x0200) 3 1 = s.fld (foy 0x0200) 3 1 ∧
        ∀ o, o ≠ foy 0x0200 → o ≠ foy 0x0728 → t.rget o = State.reset.rget o) ∧
      (∃ t : State, exec .perst s = .next t ∧ t.phase = .powered ∧ t.jobs = [] ∧ t.keys = [] ∧ t.sram = [] ∧ t.hbm = [] ∧ t.flash = s.flash ∧
        t.vb = s.vb ∧ t.vbWait = s.vbWait ∧ t.vbLast = s.vbLast ∧ t.rget (vbReg 0x10) = s.rget (vbReg 0x10) ∧
        t.rget (foy 0x0708) = s.rget (foy 0x0708) ∧ t.fld (foy 0x0200) 3 1 = s.fld (foy 0x0200) 3 1)) ∧
    (∀ (slotA slotB : Option (Fin 3)) (profileOk : Bool) (fails : List (BitVec 11 × Word)), s.phase = .powered → s.flash.trial = false →
      let good := fun (b : Bool) => imageFault (if b then slotB else slotA) (if b then s.flash.slotB else s.flash.slotA) s.flash.svnFused = none
      let runs := fun (t : State) (b fallback : Bool) =>
        let img := if b then s.flash.slotB else s.flash.slotA
        t.runningB = b ∧ t.fld (foy 0x0200) 1 1 = (if fallback then 1 else 0) ∧ t.fld (foy 0x0200) 40 8 = img.svn.toNat ∧
        t.fld 0x0010 0 32 = img.version.toNat ∧ t.phase = .booting ∧ t.identity = decide (s.fld (foy 0x0200) 3 1 = 0) ∧ t.defaultsOn = true ∧
        t.fld (foy 0x0570) 32 1 = 1 ∧ t.flash = s.flash ∧ t.fld 0x0008 0 1 = s.fld 0x0008 0 1 ∧ t.fld (foy 0x0008) 0 32 = 0xFFFFFFFF
      let held := fun (t : State) => t.phase = .bootFail ∧ t.fld 0x0008 1 1 = 1 ∧ t.pins.faultN = false ∧ t.flash = s.flash
      (good s.flash.preferB → ∃ t : State, exec (.bootStart slotA slotB true profileOk []) s = .next t ∧ runs t s.flash.preferB false) ∧
      (¬ good s.flash.preferB → good (!s.flash.preferB) →
        ∃ t : State, exec (.bootStart slotA slotB true profileOk []) s = .next t ∧ runs t (!s.flash.preferB) true) ∧
      (∀ factoryOk, (¬ good false ∧ ¬ good true) ∨ factoryOk = false ∨ fails ≠ [] →
        ∃ t : State, exec (.bootStart slotA slotB factoryOk profileOk fails) s = .next t ∧ held t)) ∧
    (s.recoveries.any (fun (r : Recovery) => decide (r.scope = .device)) = true → exec .ready s = .next s) ∧
    (s.phase = .booting → s.fld (foy 0x0200) 3 1 = 0 → s.recoveries.any (fun (r : Recovery) => decide (r.scope = .device)) = false →
      ∃ t : State, exec .ready s = .next t ∧ t.phase = .service ∧ t.fld 0x0008 0 1 = 1 ∧ t.pins.faultN = true ∧ t.fld (foy 0x0008) 0 32 = s.fld (foy 0x0008) 0 32 ∧
        t.fld 0x0028 0 1 = 1 ∧ t.flash.slotA = s.flash.slotA ∧ t.flash.slotB = s.flash.slotB ∧ t.jobs = s.jobs ∧ t.cores = s.cores ∧
        (s.flash.trial = true → s.runningB = s.flash.preferB → t.flash.trial = false)) ∧
    (∀ (sigOk flashOk : Bool), s.hostOpen (foy 0x0800) = true → s.claimed (foy 0x0800) .host = 0 →
      let l := s.stagedImage
      let r := profileResult l sigOk s.flash.ownerKey (if s.flash.profile.isEmpty then none else some s.flash.profileSeq.toNat)
      (r = 0 → flashOk = true → ∃ t : State, exec (.profileCommit .host sigOk flashOk) s = .next t ∧
        t = { s with
          reg := t.reg, written := t.written, writtenAt := t.writtenAt
          flash := { s.flash with profile := l, profileSeq := BitVec.ofNat 32 (fieldAt l 4 4) } } ∧
        t.fld (foy 0x0808) 4 4 = 0) ∧
      (r ≠ 0 ∨ flashOk = false → ∃ t : State, exec (.profileCommit .host sigOk flashOk) s = .next t ∧
        t = { s with reg := t.reg, written := t.written, writtenAt := t.writtenAt } ∧ t.fld (foy 0x0808) 4 4 = if r = 0 then 6 else r))

/-! Power and temperature, recovery, Inventory and cables (R75, R433 to R449, R455 to R481). -/

/-- R75, R459: at the end of its window a core's STEP goes one down when an engine's replay rate is above 1 in 1,000, one up to the fused floor
when every rate is below 1 in 100,000, and stays otherwise or after a change of the divider. R460, R461, R467, R468: an
evaluation reads the averages and the highest live diode, forms the two requests, and the slower divider and the lower duty come into force. -/
def Obligations.VoltageLoopAndController : Prop :=
  (∀ (core : Fin 256) (s : State),
    let n := core.val
    let c := s.core n
    let step := s.fld (coreReg n 0xC0) 0 6
    let cw := (s.fld (coreReg n 0) 0 48 + 2 ^ 48 - Assoc.get 0 c.winC 0) % 2 ^ 48
    let rate := fun (e : Nat) => (s.fld (coreReg n (0x40 + 8 * e)) 0 48 + 2 ^ 48 - Assoc.get 0 c.winN e) % 2 ^ 48
    let high := ∃ e, e < 16 ∧ cw < rate e * 1000
    let low := 100000 ≤ cw ∧ ∀ e, e < 16 → rate e * 100000 < cw
    ∃ t : State, exec (.voltageLoopWindow core) s = .next t ∧ (t.core n).winDiv = false ∧ (∀ m, m ≠ n → t.core m = s.core m) ∧
      Assoc.get 0 (t.core n).winC 0 = s.fld (coreReg n 0) 0 48 ∧
      (∀ e, e < 16 → Assoc.get 0 (t.core n).winN e = s.fld (coreReg n (0x40 + 8 * e)) 0 48) ∧
      (c.winDiv = true ∨ (¬ high ∧ ¬ low) → t.rget (coreReg n 0xC0) = s.rget (coreReg n 0xC0)) ∧
      (c.winDiv = false → high → t.fld (coreReg n 0xC0) 0 6 = step - 1) ∧
      (c.winDiv = false → ¬ high → low → t.fld (coreReg n 0xC0) 0 6 = if fusedFloor (s.fld (foy 0x600) 0 2) ≤ step then step else step + 1)) ∧
  (∀ (samples : PowerSample) (diodes : List (BitVec 8)) (s : State),
    let reading := fun (d : Nat) => ((diodes[d]?).getD 0).toNat
    let live := fun (d : Nat) => d < 64 ∧ bitAt (s.rget (foy 0x05A0)).toNat d = false
    let p := s.power
    s.phase = .service → p.capDiv ≤ 3 → p.thDiv ≤ 3 → p.capDuty ≤ 8 → p.thDuty ≤ 8 →
    ∃ t : State, exec (.controllerEvaluation samples diodes) s = .next t ∧
      t.fld (foy 0x0620) 0 11 = min samples.p1 2047 ∧ t.fld (foy 0x0620) 16 11 = min samples.p100 2047 ∧
      t.fld (foy 0x0620) 28 8 = min samples.volt4 255 ∧ t.fld (foy 0x0620) 36 8 = min samples.amp4 255 ∧
      (∀ d, live d → reading d ≤ t.fld (foy 0x0630) 0 8) ∧
      (t.fld (foy 0x0630) 0 8 = 0 ∨ ∃ d, live d ∧ reading d = t.fld (foy 0x0630) 0 8 ∧ t.fld (foy 0x0630) 8 6 = d) ∧
      t.power = thermalRequest (if s.clampOn = true then p else capRequest p samples.p1 (s.fld (foy 0x0608) 0 11))
        (s.fld (foy 0x0600) 0 2) (s.fld (foy 0x0620) 44 4) (t.fld (foy 0x0630) 0 8) (s.fld (foy 0x0628) 0 8) ∧
      t.fld (foy 0x0630) 16 1 = (if t.power.thDiv ≠ 0 ∨ t.power.thDuty ≠ 8 then 1 else 0) ∧
      (s.fld (foy 0x0630) 17 1 = 0 → t.fld (foy 0x0600) 0 2 = max t.power.capDiv t.power.thDiv ∧
        t.fld (foy 0x0620) 44 4 = min t.power.capDuty t.power.thDuty) ∧ t.jobs = s.jobs) ∧
  (∀ (p : Power) (p1 cap div duty t throttle : Nat), 5 ≤ throttle → 1 ≤ p.capDuty →
    let q := capRequest p p1 cap
    let r := thermalRequest p div duty t throttle
    (cap < p1 → q = { p with capDiv := if p.capDiv < 3 then p.capDiv + 1 else p.capDiv, under := 0,
                             capDuty := if p.capDiv < 3 then p.capDuty else max 1 (p.capDuty - 1) }) ∧
    (p1 * 100 ≤ cap * 95 → p.under < 9 → q = { p with under := p.under + 1 }) ∧
    (p1 * 100 ≤ cap * 95 → 9 ≤ p.under → q = { p with under := 0, capDuty := if p.capDuty < 8 then p.capDuty + 1 else p.capDuty,
                                                        capDiv := if p.capDuty < 8 then p.capDiv else p.capDiv - 1 }) ∧
    (p1 ≤ cap → cap * 95 < p1 * 100 → q = { p with under := 0 }) ∧
    (throttle ≤ t → r.cool = 0 ∧ (div < 3 → r.thDiv = div + 1 ∧ r.thDuty = duty) ∧ (3 ≤ div → r.thDiv = 3 ∧ r.thDuty = max 1 (duty - 1))) ∧
    (t + 5 ≤ throttle → p.cool < 9 → r = { p with cool := p.cool + 1 }) ∧
    (t + 5 ≤ throttle → 9 ≤ p.cool → r = { p with cool := 0, thDuty := if p.thDuty < 8 then p.thDuty + 1 else p.thDuty,
                                                    thDiv := if p.thDuty < 8 then p.thDiv else p.thDiv - 1 }) ∧
    (t < throttle → throttle < t + 5 → r = { p with cool := 0 }))

/-- R464: the clamp sets divider 8 and half duty, counts, and asserts ALERT_N until it releases. R469: a thermal trip asserts THERM_TRIP_N, puts
the HBM into self-refresh, ends every job and begins the device recovery, which starts over when every live diode reads 85 or less. R455: the
same for a lost reference. R477, R478: an input fault latches the stage off, or ends every job; its end starts the recovery's time again. -/
def Obligations.ClampTripAndInputFaults : Prop :=
  ∀ (s : State),
    let noDevice := ∀ r ∈ s.recoveries, r.scope ≠ .device
    let jobsEnd := fun (t : State) => ∀ h j, s.job h = some j → ∀ k, t.job h = some k → k.phase = .ended
    let deviceBegins := fun (t : State) => (∃ r ∈ t.recoveries, r.scope = .device ∧ r.since = s.hclk) ∧ t.fld 0x0008 0 1 = 0 ∧
      t.pins.faultN = false ∧ t.fld (foy 0x0500) 32 1 = 1
    let again := fun (t : State) => ∀ r ∈ t.recoveries, r.scope = .device → r.since = s.hclk
    (s.phase = .service → s.clampOn = false → s.power.thDiv ≤ 3 → s.fld (foy 0x0720) 1 1 = 0 →
      ∃ t : State, exec .powerClamp s = .next t ∧ t.clampOn = true ∧ t.power = { s.power with capDiv := 3, capDuty := 4, under := 0 } ∧
        t.fld (foy 0x0620) 50 1 = 1 ∧ t.fld (foy 0x0688) 0 48 = (s.fld (foy 0x0688) 0 48 + 1) % 2 ^ 48 ∧ t.fld (foy 0x0600) 0 2 = 3 ∧
        t.fld (foy 0x0620) 44 4 = min 4 s.power.thDuty ∧ t.fld (foy 0x0720) 1 1 = 1 ∧ t.pins.alertN = false ∧ t.jobs = s.jobs) ∧
    (s.clampOn = true → ∃ t : State, exec .clampRelease s = .next t ∧ t.clampOn = false ∧ t.fld (foy 0x0620) 50 1 = 0 ∧
      t.fld (foy 0x0720) 1 1 = 0 ∧ t.power = s.power ∧ t.jobs = s.jobs ∧ t.fld (foy 0x0600) 0 2 = s.fld (foy 0x0600) 0 2) ∧
    (∀ diode : Fin 64, s.phase = .service → bitAt (s.rget (foy 0x05A0)).toNat diode.val = false → s.fld (foy 0x0630) 17 1 = 0 → noDevice →
      ∃ t : State, exec (.thermalTrip diode) s = .next t ∧ t.selfRefresh = 0xFF ∧ t.pins.thermTripN = false ∧ t.fld (foy 0x0630) 17 1 = 1 ∧
        t.fld (foy 0x0698) 0 48 = (s.fld (foy 0x0698) 0 48 + 1) % 2 ^ 48 ∧ t.fld (foy 0x0600) 0 2 = 3 ∧ jobsEnd t ∧ deviceBegins t) ∧
    (s.fld (foy 0x0630) 17 1 = 1 → (∀ d, d < 64 → bitAt (s.rget (foy 0x05A0)).toNat d = true ∨ s.diodeAt d ≤ 85) →
      ∃ t : State, exec .thermalTripClear s = .next t ∧ t.pins.thermTripN = true ∧ t.fld (foy 0x0630) 17 1 = 0 ∧ again t ∧
        ∀ o, o ≠ foy 0x0630 → t.rget o = s.rget o) ∧
    (s.fld (foy 0x0630) 17 1 = 1 → (∃ d, d < 64 ∧ bitAt (s.rget (foy 0x05A0)).toNat d = false ∧ 85 < s.diodeAt d) →
      exec .thermalTripClear s = .next s) ∧
    (s.fld (foy 0x0600) 2 1 = 1 → noDevice → ∃ t : State, exec .refclkLoss s = .next t ∧ t.fld (foy 0x0600) 2 1 = 0 ∧ deviceBegins t ∧
      t.jobs = s.jobs) ∧
    (s.fld (foy 0x0600) 2 1 = 0 → s.phase = .service → ∃ t : State, exec .refclkRestored s = .next t ∧ t.fld (foy 0x0600) 2 1 = 1 ∧ again t ∧
      ∀ o, o ≠ foy 0x0600 → t.rget o = s.rget o) ∧
    (∀ cause : BitVec 4, s.phase ≠ .off →
      ((cause = 1 ∨ cause = 2 ∨ cause = 5 ∨ cause = 6) → ∃ t : State, exec (.inputLatchOff cause) s = .next t ∧ t.phase = .off ∧
        t.latchCause = cause ∧ t.latchNews = true ∧ t.latched = decide (cause ≠ 5) ∧ t.jobs = [] ∧ t.sram = [] ∧ t.hbm = [] ∧ t.keys = [] ∧
        t.flash = s.flash ∧ t.pins.pwrGood = false) ∧
      ((cause = 3 ∨ cause = 4) → s.phase = .service → noDevice → ∃ t : State, exec (.powerInput cause) s = .next t ∧ t.power.hold = true ∧
        t.fld (foy 0x0728) 0 4 = cause.toNat ∧ jobsEnd t ∧ deviceBegins t)) ∧
    (s.power.hold = true → ∃ t : State, exec .inputRestored s = .next t ∧ t = { s with power := t.power, recoveries := t.recoveries } ∧
      t.power = { s.power with hold := false } ∧ again t) ∧
    (∀ warn : Bool, s.phase ≠ .off → ∃ t : State, exec (.inputWarn warn) s = .next t ∧ t.fld (foy 0x0728) 4 1 = (if warn = true then 1 else 0) ∧
      t.fld (foy 0x0720) 6 1 = (if warn = true then 1 else 0) ∧ t.jobs = s.jobs ∧ t.phase = s.phase)

/-- R437, R438, R440, R441, R449: a watchdog begins the recovery of its scope, whose units are fenced at once; when it runs, the jobs of the scope
end and its units are reset; at its end the units serve again with STEP 0 (R76), or stay fenced until the next power cycle, which at device scope is the safe
state. R445: a due slice runs, a late one is forced, and its end counts, releases the target and keeps its time. -/
def Obligations.RecoveriesAndInventory : Prop :=
  ∀ (s : State),
    (∀ c : Fin 32, (∀ r ∈ s.recoveries, r.scope ≠ .cluster c ∧ scopeContains r.scope (.cluster c) = false) →
      ∃ t : State, exec (.watchdogExpiry (some c)) s = .next t ∧ (∃ r ∈ t.recoveries, r.scope = .cluster c ∧ r.since = s.hclk ∧ r.reset = false) ∧
        clusterServing t c.val = false ∧ (∀ d, d < 32 → d ≠ c.val → clusterServing t d = clusterServing s d) ∧
        t.fld (foy 0x0538) 0 48 = (s.fld (foy 0x0538) 0 48 + 1) % 2 ^ 48 ∧ t.fld (foy 0x0550) 16 16 = 0x2000 + c.val ∧ t.jobs = s.jobs) ∧
    (∀ (sc : Scope) (r : Recovery), s.recoveries.find? (fun r => decide (r.scope = sc)) = some r → r.reset = false → r.stuck = false →
      sc ≠ .device → s.reports = [] →
      ∃ t : State, exec (.recoveryStart sc) s = .next t ∧ (∀ q ∈ t.recoveries, q.scope = sc → q.reset = true) ∧
        (∀ h j, s.job h = some j → j.phase = .running → s.jobInScope sc h j = true → t.job h = none ∧
          (j.scrubbed = false → ∃ k, (h, k) ∈ t.scrubs ∧ k.phase = .ended ∧ k.cores = j.cores)) ∧
        (∀ h j, s.job h = some j → j.phase ≠ .ended → j.phase ≠ .running → s.jobInScope sc h j = true ∨ j.cutBy sc = true →
          t.job h = none) ∧
        (∀ n ∈ scopeCores sc, (t.core n).running = false ∧ (t.core n).acm = [] ∧ (t.core n).s = [] ∧ t.fld (coreReg n 0xC0) 0 6 = 0) ∧
        (∀ c ∈ scopeClusters sc, ∀ i, i < 8 → ∀ a, salonBase (8 * c + i) ≤ a → a < salonBase (8 * c + i) + 2 ^ 22 → Assoc.get 0 t.sram a = 0)) ∧
    (s.recoveryHeld = true → (∃ r ∈ s.recoveries, r.scope = .device) → (∀ r ∈ s.recoveries, r.stuck = false) →
      exec (.recoveryStart .device) s = .next s) ∧
    (∀ (c : Fin 32) (r : Recovery) (passed : Bool),
      s.recoveries.find? (fun r => decide (r.scope = .cluster c) && r.reset) = some r → s.clusterPermanent c.val = false →
      ∃ t : State, exec (.recoveryEnd (.cluster c) passed) s = .next t ∧ (∀ q ∈ t.recoveries, q.scope ≠ .cluster c) ∧ t.jobs = s.jobs ∧
        (passed = true → r.stuck = false → clusterServing t c.val = true ∧ s.fld (foy 0x0508) c.val 1 = t.fld (foy 0x0508) c.val 1 ∧
          ∀ n ∈ scopeCores (.cluster c), bitAt (s.rget (foy (0x0510 + 8 * (n / 64)))).toNat (n % 64) = false →
            coreFenced t n = false ∧ t.fld (coreReg n 0xC0) 0 6 = 0) ∧
        (passed = false ∨ r.stuck = true → t.fld (foy 0x0508) c.val 1 = 1 ∧ t.fld (foy 0x0500) 1 1 = 1 ∧ t.fld (foy 0x0500) 0 1 = 1 ∧
          clusterServing t c.val = clusterServing s c.val)) ∧
    (∀ r : Recovery, s.recoveries.find? (fun r => decide (r.scope = .device)) = some r → s.recoveryHeld = false → r.since + 1500000000 ≤ s.hclk →
      ∃ t : State, exec .deviceRecoveryTimeout s = .next t ∧ t.phase = .safe ∧ t.fld 0x0008 2 1 = 1 ∧ t.fld 0x0008 0 1 = 0 ∧
        t.pins.faultN = false ∧ (∀ l, l < 32 → t.linkState l = 0) ∧ (∀ q ∈ t.recoveries, q.scope ≠ .device)) ∧
    (∀ target : BitVec 11,
      let n := target.toNat
      let grace := 600000000 * min 60 (max 1 (s.fld (foy 0x0568) 16 6))
      (s.sliceStarts n = true → ∃ t : State, exec (.inventorySliceDue target) s = .next t ∧
        t = { s with invRun := t.invRun, clusters := t.clusters } ∧ (∀ m, m ∈ t.invRun ↔ m = n ∨ m ∈ s.invRun)) ∧
      (s.sliceStarts n = false → exec (.inventorySliceDue target) s = .next s) ∧
      (n < 1045 → s.phase = .service → s.due n = true → s.dueAt n + grace ≤ s.hclk → s.invHeld.contains n = false →
        ∃ t : State, exec (.inventoryForce target) s = .next t ∧ (∀ m, m ∈ t.invHeld ↔ m = n ∨ m ∈ s.invHeld) ∧
          t.fld (foy 0x0588) 0 48 = (s.fld (foy 0x0588) 0 48 + 1) % 2 ^ 48 ∧ (∀ m, m ∈ t.invRun ↔ (m = n ∧ s.sliceStarts n = true) ∨ m ∈ s.invRun)) ∧
      (∀ sig : BitVec 64, s.invRun.contains n = true →
        ∃ t : State, exec (.inventorySliceEnd target sig) s = .next t ∧ n ∉ t.invRun ∧ n ∉ t.invHeld ∧ Assoc.find t.invLast n = some s.hclk ∧
          t.fld (foy 0x0580) 0 48 = (s.fld (foy 0x0580) 0 48 + 1) % 2 ^ 48 ∧
          (n < 256 → sig.setWidth 32 = Config.bistSignature 0 → t.recoveries = s.recoveries ∧ (n ∈ t.invPassed ∨ t.invPassed = [])) ∧
          (n < 256 → sig.setWidth 32 ≠ Config.bistSignature 0 → t.fld (foy 0x0598) 0 16 = 0x8000 + n ∧
            ∃ r ∈ t.recoveries, r.scope = .core (Fin.ofNat 256 n) ∨ scopeContains r.scope (.core (Fin.ofNat 256 n)) = true)))

/-- R481, R482, R498: a cable's presence turns its supply on and its memory selects the channel; a removal clears both; an eFuse that trips turns
it off and retries, and latches off at the third trip in a row within 100 ms of a retry. -/
def Obligations.CablesAndFuses : Prop :=
  ∀ (cable : Fin 8) (s : State),
    let c := cable.val
    s.phase ≠ .off →
    (s.cable c 0 1 = 0 → ∃ t : State, exec (.cablePresent cable) s = .next t ∧ t.cable c 0 1 = 1 ∧ t.cable c 1 2 = 0 ∧ t.cable c 4 3 = 0 ∧
      Assoc.get 0 t.fuseFast c = 0 ∧ ∀ d, d < 8 → d ≠ c → t.rget (cableReg d) = s.rget (cableReg d)) ∧
    (∀ medium, s.cable c 0 1 = 1 → s.cable c 1 2 = 0 → ∃ t : State, exec (.cableMemoryRead cable medium) s = .next t ∧
      t.cable c 4 3 = mediaCode medium ∧ t.cable c 0 1 = 1 ∧ (∀ l, l < 32 → t.linkAllowed l = false → t.linkState l = 0)) ∧
    (s.cable c 0 1 = 1 → ∃ t : State, exec (.cableRemoved cable) s = .next t ∧ t.cable c 0 1 = 0 ∧ t.cable c 4 3 = 0 ∧
      t.cable c 1 2 = (if s.cable c 1 2 = 1 then 0 else s.cable c 1 2) ∧ ∀ i, i < 4 → t.linkState (4 * c + i) = 0) ∧
    (s.cable c 0 1 = 1 → s.cable c 1 2 = 0 → ∃ t : State, exec (.efuseTrip cable) s = .next t ∧ t.cable c 1 2 = 1 ∧
      t.cable c 8 8 = (s.cable c 8 8 + 1) % 2 ^ 8 ∧ Assoc.get 0 t.fuseFast c = 0 ∧ ∀ i, i < 4 → t.linkState (4 * c + i) = 0) ∧
    (s.cable c 1 2 = 1 →
      (∃ t : State, exec (.efuseRetry cable true) s = .next t ∧ t.cable c 1 2 = 0 ∧ Assoc.get 0 t.fuseFast c = 0) ∧
      (∃ t : State, exec (.efuseRetry cable false) s = .next t ∧ t.cable c 1 2 = (if 2 ≤ Assoc.get 0 s.fuseFast c then 2 else 1) ∧
        t.cable c 8 8 = (s.cable c 8 8 + 1) % 2 ^ 8 ∧ Assoc.get 0 t.fuseFast c = Assoc.get 0 s.fuseFast c + 1))

/-! Links, packets, the module's endpoint and the Visitor Book (R371 to R404, R479 to R496). -/

/-- R371, R373, R377, R378: training ends in Authenticate where the lanes arrive straight or reversed, else Down; a named peer brings Soak with fresh
keys, a failed exchange AUTH_FAIL and Down; after Soak the link is Up; a Down link counts and abandons its replay buffer, and trains
again. R374, R375: a flit in order is accepted and acknowledged, and its ACKSEQ clears the replay buffer; a bad one is counted and answered with
a NAK; a NAK resends what follows it. R374, R376, R426: the credits in a header let a packet go that waited for them. -/
def Obligations.LinkStatesAndFlits : Prop :=
  ∀ (link : Fin 32) (s : State),
    let l := link.val
    let st := s.linkState l
    let downs := fun (t : State) => t.linkState l = 1 ∧ t.fld (linkReg l 0x28) 0 48 = (s.fld (linkReg l 0x28) 0 48 + 1) % 2 ^ 48 ∧
      (t.link l).replay = [] ∧ (t.link l).nakked = false ∧ (t.link l).waiting = []
    let others := fun (t : State) => ∀ k, k < 32 → k ≠ l → t.linkState k = s.linkState k ∧ t.link k = s.link k
    let apart := fun (t : State) => ∀ k, k < 32 → k ≠ l → t.linkState k = s.linkState k ∧ ((s.link l).waiting = [] → t.link k = s.link k)
    (∀ lanes polarity, st = 2 →
      ((lanes = List.range 16 ∨ lanes = (List.range 16).reverse) → ∃ t : State, exec (.linkTrainingDone link lanes polarity) s = .next t ∧
        t.linkState l = 3 ∧ t.fld (linkReg l 0) 3 1 = (if lanes = List.range 16 then 0 else 1) ∧ t.fld (linkReg l 0) 5 1 = 0 ∧
        t.fld (linkReg l 0) 16 16 = polarity.toNat ∧ others t) ∧
      (lanes ≠ List.range 16 → lanes ≠ (List.range 16).reverse → ∃ t : State, exec (.linkTrainingDone link lanes polarity) s = .next t ∧
        downs t ∧ t.fld (linkReg l 0) 5 1 = 1 ∧ apart t)) ∧
    (st = 3 → s.identity = true →
      (∃ t : State, exec (.linkAuthenticate link none) s = .next t ∧ downs t ∧ t.fld (linkReg l 0) 4 1 = 1 ∧ apart t) ∧
      (∀ d n, ∃ t : State, exec (.linkAuthenticate link (some (d, n))) s = .next t ∧ t.linkState l = 4 ∧ t.fld (linkReg l 0) 4 1 = 0 ∧
        t.fld (linkReg l 0x40) 0 12 = d.toNat ∧ t.fld (linkReg l 0x40) 16 5 = n.toNat ∧ t.fld (linkReg l 0x40) 31 1 = 1 ∧
        t.link l = { txKey := (s.link l).txKey + 1, rxKey := (s.link l).rxKey + 1 } ∧ others t)) ∧
    (st = 4 → ∃ t : State, exec (.linkSoakEnd link) s = .next t ∧ t.linkState l = 5 ∧ t.link l = s.link l ∧ others t) ∧
    (∀ cause, 1 < st → cause ≠ .disabled → ∃ t : State, exec (.linkDownEvent link cause) s = .next t ∧ downs t ∧ apart t) ∧
    (1 < st → s.linkAllowed l = false → ∃ t : State, exec (.linkDownEvent link .disabled) s = .next t ∧ t.linkState l = 0 ∧
      (t.link l).replay = [] ∧ (t.link l).waiting = [] ∧ apart t) ∧
    (st = 1 → s.linkAllowed l = true → ∃ t : State, exec (.linkRetrain link) s = .next t ∧ t.linkState l = 2 ∧
      t.fld (linkReg l 0x40) 31 1 = 0 ∧ t.link l = s.link l ∧ others t) ∧
    (∀ tx, 4 ≤ st → ∃ t : State, exec (.linkRekey link tx) s = .next t ∧ t = { s with links := t.links } ∧
      t.link l = (if tx = true then { s.link l with txKey := (s.link l).txKey + 1 } else { s.link l with rxKey := (s.link l).rxKey + 1 }) ∧ others t) ∧
    (∀ (hdr : FlitHdr) (fecOk tagOk : Bool), 4 ≤ st →
      let x := s.link l
      let good := fecOk = true ∧ tagOk = true
      let recv := exec (.flitReceive link hdr fecOk tagOk) s
      let nak : Out := .flitNak l (x.rxNext - 1)
      let ack : Out := .flitAck l hdr.fseq
      let rest := afterAck hdr.ackseq x.replay
      let y : LinkSt := { x with
        rxNext := x.rxNext + 1, nakked := false, replay := rest
        resent := x.resent.filter (fun e => rest.any (fun g => g.toNat == e.1))
        spent := Assoc.modify 0 x.spent hdr.cls.toNat (fun k => k - hdr.credits.toNat) }
      (good → hdr.fseq = x.rxNext → hdr.nak = false → ∃ t : State, recv = .next t ∧ t = { s with reg := t.reg, links := t.links, out := t.out } ∧
        t.fld (linkReg l 0x38) 0 48 = (s.fld (linkReg l 0x38) 0 48 + 1) % 2 ^ 48 ∧ others t ∧
        (x.waiting = [] → t.link l = y ∧ t.out = s.out ++ [ack]) ∧
        (∀ w, x.waiting = [w] → w.held = none →
          (y.ready s.hclk w.hdr w.data.length = true → (t.link l).waiting = [] ∧ t.out = s.out ++ [ack, .packet l w.hdr w.data]) ∧
          (y.ready s.hclk w.hdr w.data.length = false → t.link l = y ∧ t.out = s.out ++ [ack]))) ∧
      (good → hdr.fseq = x.rxNext → hdr.nak = true → x.waiting = [] → (∀ f ∈ rest, Assoc.get 0 x.resent f.toNat < 7) →
        ∃ t : State, recv = .next t ∧ t.linkState l = st ∧ (t.link l).rxNext = x.rxNext + 1 ∧ (t.link l).replay = rest ∧
          t.fld (linkReg l 0x20) 0 48 = (s.fld (linkReg l 0x20) 0 48 + rest.length) % 2 ^ 48 ∧ t.out = s.out ++ [ack] ∧ others t) ∧
      (∀ o, (fecOk = false ∧ o = 0x10) ∨ (fecOk = true ∧ tagOk = false ∧ o = 0x18) →
        ∃ t : State, recv = .next t ∧ t = { s with reg := t.reg, links := t.links, out := s.out ++ [nak] } ∧
          t.link l = { x with nakked := true } ∧ t.fld (linkReg l o) 0 48 = (s.fld (linkReg l o) 0 48 + 1) % 2 ^ 48 ∧ others t) ∧
      (good → hdr.fseq ≠ x.rxNext → x.nakked = true → recv = .next s) ∧
      (good → hdr.fseq ≠ x.rxNext → x.nakked = false → recv = .next ((s.setLink l { x with nakked := true }).give nak))) ∧
    (∀ (fseq : Half), 4 ≤ st →
      let x := s.link l
      let rest := afterAck fseq x.replay
      ∃ t : State, exec (.nakResend link fseq) s = .next t ∧ t.fld (linkReg l 0x20) 0 48 = (s.fld (linkReg l 0x20) 0 48 + rest.length) % 2 ^ 48 ∧
        ((∀ f ∈ rest, Assoc.get 0 x.resent f.toNat < 7) → t.linkState l = st ∧ (t.link l).replay = rest ∧ (t.link l).txNext = x.txNext ∧
          (∀ f ∈ rest, Assoc.get 0 (t.link l).resent f.toNat = Assoc.get 0 x.resent f.toNat + 1)) ∧
        ((∃ f ∈ rest, 7 ≤ Assoc.get 0 x.resent f.toNat) → downs t) ∧ apart t)

/-- R376, R379, R381, R382: a packet for another device goes on over the first usable choice of its route with one hop more, when that link has
credits for it, and waits there until then, or is dropped, counted and answered with NO_ROUTE; its receive buffer is free once it has gone.
R229, R383, R386, R394: a request out of order is discarded, one in order that its owner's checks refuse is answered with the code
and counted, one that passes lands, and one whose slot does not permit it waits. R383, R385, R388: a completion acknowledges its packet; a
NO_ROUTE, or a wait of E2E_TIMEOUT, resends what is open or fails its transfer with LINK_DOWN; GET data lands in LOCAL. Data that does
not fit its header is no packet. -/
def Obligations.PacketsForwardedAndAnswered : Prop :=
  ∀ (link : Fin 32) (hdr : PktHdr) (data : List Byte) (s : State),
    let l := link.val
    let hall := l / 8
    let len := data.length
    let fits := hdrFits hdr data = true
    let self := s.isSelf hdr.dest.toNat = true
    let carried := s.carries l hdr = true
    let credit : Out := .credit l (classOf hdr) (flitsOf len)
    let done : Out := .credit l (classOf hdr) (flitsOf 0)
    let free := fun (m : Nat) (p : PktHdr) (n : Nat) =>
      (s.link m).ready s.hclk p n = true ∧ ∀ v ∈ (s.link m).waiting, classOf v.hdr ≠ classOf p
    let arrives := exec (.packetArrival link hdr ⟨data, []⟩) s
    let forward := exec (.packetForward link hdr data) s
    (¬ fits → (∀ ecc, exec (.packetArrival link hdr ⟨data, ecc⟩) s = .fault .malformed) ∧ forward = .fault .malformed ∧
      exec (.getDataReceive link hdr data) s = .fault .malformed) ∧
    (fits → carried → ¬ self →
      (∀ k m, s.assigned = true → hdr.hops.toNat < 7 → s.route hdr.dest.toNat 0 = some (k, m) →
        let up := { hdr with hops := hdr.hops + 1 }
        let x := s.link m
        let used := if x.fillAt = s.hclk then x.fill else 0
        let n := ceilDiv (used + 32 + len) 232 - ceilDiv used 232
        (free m up len → ∃ t : State, forward = .next t ∧ t = { s with reg := t.reg, links := t.links, out := t.out } ∧
          t.out = s.out ++ [.packet m up data, credit] ∧ (t.link m).txNext = x.txNext + BitVec.ofNat 16 n ∧
          (t.link m).replay.length = x.replay.length + n ∧
          Assoc.get 0 (t.link m).spent (classOf up) = Assoc.get 0 x.spent (classOf up) + flitsOf len ∧
          t.fld (linkReg m 0x30) 0 48 = (s.fld (linkReg m 0x30) 0 48 + n) % 2 ^ 48 ∧ ∀ j, j ≠ m → t.link j = s.link j) ∧
        (¬ free m up len → forward = .next (s.setLink m { x with waiting := x.waiting ++ [⟨up, data, some (l, classOf hdr)⟩] }))) ∧
      ((s.assigned = false ∨ 7 ≤ hdr.hops.toNat ∨ s.route hdr.dest.toNat 0 = none) →
        let notice := { hdr with dest := hdr.src, src := hdr.dest, type := 7, hops := 0 }
        ∃ t : State, forward = .next t ∧ t.fld (foy 0x0120) 0 48 = (s.fld (foy 0x0120) 0 48 + 1) % 2 ^ 48 ∧ t.sram = s.sram ∧ t.hbm = s.hbm ∧
          (vcOf hdr = 2 ∨ s.assigned = false ∨ s.route hdr.src.toNat 0 = none → t.out = s.out ++ [credit]) ∧
          (∀ k m, vcOf hdr ≠ 2 → s.assigned = true → s.route hdr.src.toNat 0 = some (k, m) → free m notice 0 →
            t.out = s.out ++ [credit, .packet m notice []]))) ∧
    (fits → carried → self → isRequest hdr = true → (∀ a ∈ s.arrivals, ¬ (a.hdr.src = hdr.src ∧ a.hdr.seq = hdr.seq)) →
      let src := hdr.src.toNat
      let next := Assoc.get 0 s.seqRx src
      (hdr.seq ≠ next → (seqBefore hdr.seq next = false ∨ s.keptStatus src hdr.seq.toNat = none) → arrives = .next (s.give credit)) ∧
      (∀ c, hdr.seq = next → s.accept hdr = .error (c, none) →
        ∃ t : State, arrives = .next t ∧ Assoc.get 0 t.seqRx src = next + 1 ∧
          (s.keptStatus src hdr.seq.toNat = none → t.keptStatus src hdr.seq.toNat = some c) ∧
          t.fld (hallCour hall 0x10) 0 48 = (s.fld (hallCour hall 0x10) 0 48 + 1) % 2 ^ 48 ∧ t.sram = s.sram ∧ t.hbm = s.hbm ∧
          (s.route src 0 = none → t.out = s.out ++ [credit]) ∧
          (∀ k m, s.route src 0 = some (k, m) → free m (answerHdr hdr c {} []) 0 →
            t.out = s.out ++ [.packet m (answerHdr hdr c {} []) [], credit])) ∧
      (∀ h n w, hdr.seq = next → hdr.type = 0 → s.accept hdr = .ok (h, n, w) →
        let a := w.base + hdr.offset.toNat
        ((∀ b ∈ linesOf a (pktBytes hdr), s.slotOf b = none) → (∀ i, i < len → s.slotOf (a + i) = none) →
          ∃ t : State, arrives = .next t ∧ t.readBytes a len = data ∧ (∀ b, b < a ∨ a + len ≤ b → t.memAt b = s.memAt b) ∧
            Assoc.get 0 t.seqRx src = next + 1 ∧ t.fld (hallCour h 0x08) 0 48 = (s.fld (hallCour h 0x08) 0 48 + 1) % 2 ^ 48) ∧
        (∀ x, (∀ b ∈ linesOf a (pktBytes hdr), s.slotOf b = some x) → (∀ i, i < len → s.slotOf (a + i) = some x) → s.slotFull x = true →
          arrives = .next { s.bump (hallCour h 0x08) 1 with
            arrivals := s.arrivals ++ [⟨hdr, data, (h, n), some l, s.hclk, []⟩] }))) ∧
    (∀ q : SentPkt, carried → self → s.sent.find? (fun q => decide (q.hdr.dest = hdr.src ∧ q.hdr.seq = hdr.seq)) = some q →
      (hdr.type = 5 → q.hdr.type ≠ 1 → hdr.intSat = false → hdr.nanSeen = false →
        (∀ r ∈ s.sent, r.hdr.dest = hdr.src → r.hdr.type ≠ 1 → seqBefore r.hdr.seq hdr.seq = false) →
        ∃ t : State, exec (.completionReceive link hdr) s = .next t ∧
          (∀ r, r ∈ t.sent ↔ r ∈ s.sent ∧ ¬ (r.hdr.dest = hdr.src ∧ r.hdr.seq = hdr.seq)) ∧ t.sram = s.sram ∧ t.hbm = s.hbm ∧
          t.out = s.out ++ [done] ∧
          (∀ i x, (i, x) ∈ s.xfers → i = q.xfer → ∃ y, (i, y) ∈ t.xfers ∧ y.left = x.left - 1 ∧
            (hdr.status = 0 → y.refusal = x.refusal) ∧ (hdr.status ≠ 0 → x.refusal = none → y.refusal = some (q.hdr.offset.toNat, hdr.status)))) ∧
      (hdr.type = 2 → q.hdr.type = 1 → fits → ((linesOf q.loc len).filterMap s.slotOf) = [] →
        ∃ t : State, exec (.getDataReceive link hdr data) s = .next t ∧ t.readBytes q.loc len = data ∧
          (∀ a, a < q.loc ∨ q.loc + len ≤ a → t.memAt a = s.memAt a) ∧
          (∀ r, r ∈ t.sent ↔ r ∈ s.sent ∧ ¬ (r.hdr.dest = hdr.src ∧ r.hdr.seq = hdr.seq)) ∧ t.out = s.out ++ [credit]) ∧
      (∀ i x, hdr.type = 7 → s.xfers.find? (fun x => x.1 == q.xfer) = some (i, x) → (4 ≤ q.sends ∨ s.route q.hdr.dest.toNat (max x.used (q.choice + 1)) = none) →
        ∃ t : State, exec (.noRouteReceive link hdr) s = .next t ∧ (∀ r ∈ t.sent, r.xfer ≠ q.xfer) ∧ (∀ r ∈ t.xfers, r.1 ≠ q.xfer) ∧
          (t.core x.core).stopped = true ∧ ∃ r, t.reports = s.reports ++ [r] ∧ r.job = (s.core x.core).job ∧ r.code = codeLinkDown ∧ r.iaddr = x.iaddr ∧
            r.aux = BitVec.ofNat 16 x.dest) ∧
      (∀ k m i x, hdr.type = 7 → s.xfers.find? (fun x => x.1 == q.xfer) = some (i, x) → q.sends < 4 →
        s.route q.hdr.dest.toNat (max x.used (q.choice + 1)) = some (k, m) →
        free m q.hdr (s.pktData q).length →
        ∃ t : State, exec (.noRouteReceive link hdr) s = .next t ∧ t.out = s.out ++ [done, .packet m q.hdr (s.pktData q)] ∧
          t.fld (foy 0x0128) 0 48 = (s.fld (foy 0x0128) 0 48 + 1) % 2 ^ 48 ∧ { q with sends := q.sends + 1, since := s.hclk, choice := k } ∈ t.sent)) ∧
    (∀ (g : Fin 4) (q : SentPkt) (k m i : Nat) (x : Xfer), s.openPkts g.val = [q] → q.since + 600 * s.fld (foy 0x0108) 32 16 ≤ s.hclk → q.sends < 4 →
      s.assigned = true → s.xfers.find? (fun x => x.1 == q.xfer) = some (i, x) → s.route q.hdr.dest.toNat x.used = some (k, m) → free m q.hdr (s.pktData q).length →
      ∃ t : State, exec (.e2eTimeout g) s = .next t ∧ t.out = s.out ++ [.packet m q.hdr (s.pktData q)] ∧
        t.fld (foy 0x0128) 0 48 = (s.fld (foy 0x0128) 0 48 + 1) % 2 ^ 48 ∧ { q with sends := q.sends + 1, since := s.hclk, choice := k } ∈ t.sent)

/-- R400 to R403: a running collective job sends heartbeats to the members of its peer set, one that arrives renews its sender for the job, and a
member that has been silent too long fences the job as PARTITION, unless a fault that the job reported before prevails. R485: an edge of PPS sets the time's seconds and its error; without
edges the time is not synchronized; a written value waits for the next edge. R479, R480: three samples that agree change a
sensor's state. R483, R484: the endpoint answers a malformed transfer, a misaligned or unreadable address and a closed register each with its status. -/
def Obligations.HeartbeatsTimeAndSensors : Prop :=
  ∀ (s : State),
    (∀ h j d k l, s.collective = [(h, j)] → s.otherMembers j.peerset = [d] → d < 4096 → s.assigned = true → s.route d 0 = some (k, l) →
      (s.link l).ready s.hclk (heartbeatHdr s.node d j h) 0 = true → (∀ v ∈ (s.link l).waiting, classOf v.hdr ≠ 16) →
      ∃ t : State, exec .heartbeatSend s = .next t ∧ t.out = s.out ++ [.packet l (heartbeatHdr s.node d j h) []] ∧ t.jobs = s.jobs) ∧
    (∀ (link : Fin 32) (hdr : PktHdr) (h : Nat) (j : Job), s.carries link.val hdr = true → s.isSelf hdr.dest.toNat = true → hdr.type = 6 →
      let d := hdr.src.toNat
      let credit : Out := .credit link.val 16 (flitsOf 0)
      s.isSelf d = false → s.collective = [(h, j)] →
      ((s.otherMembers j.peerset).contains d = true → ∃ t : State, exec (.heartbeatReceive link hdr []) s = .next t ∧
        t = { s with jobs := t.jobs, out := s.out ++ [credit] } ∧ t.job h = some { j with heard := Assoc.insert j.heard d s.hclk } ∧
        ∀ g, g ≠ h → t.job g = s.job g) ∧
      ((s.otherMembers j.peerset).contains d = false → exec (.heartbeatReceive link hdr []) s = .next (s.give credit))) ∧
    (∀ h j, s.collective = [(h, j)] → s.job h = some j →
      (s.unreachable j = [] → exec .reachabilityTest s = .next s) ∧
      (∀ d ds, s.unreachable j = d :: ds → (∀ r ∈ s.reports, r.job.toNat ≠ h) →
        exec .reachabilityTest s = .next ((s.bump (foy 0x0110) 1).endJob h 4 codePartition 0 (BitVec.ofNat 16 d)
          (BitVec.ofNat 16 (min (ds.length + 1) 65535)) .write)) ∧
      (∀ d ds x, s.unreachable j = d :: ds → (∀ y ∈ s.reports, y.job.toNat = h ↔ y = x) → s.reports.count x = 1 → x.job.toNat = h →
        x.extra = [] → x.sent ≠ s.hclk → exec .reachabilityTest s =
          .next ({ s.bump (foy 0x0110) 1 with reports := s.reports.erase x }.endJob h 1 x.code x.iaddr x.unit x.aux .write))) ∧
    (let tm := foy 0x0708
     let ns := s.fld tm 0 30
     let sec := s.fld tm 30 32
     s.phase ≠ .off → (∀ e, s.ppsAt = some e → e + 540000000 ≤ s.hclk) →
     ∃ t : State, exec .timePps s = .next t ∧ t = { s with reg := t.reg, timeSet := none, ppsAt := some s.hclk } ∧ t.fld tm 0 30 = 0 ∧ t.fld tm 62 1 = 1 ∧
       (s.timeSet = none → t.fld tm 30 32 = if 500000000 ≤ ns then (sec + 1) % 2 ^ 32 else sec) ∧
       (∀ v, s.timeSet = some v → t.fld tm 30 32 = v.toNat) ∧
       t.fld (foy 0x0718) 0 32 = (BitVec.ofInt 32 (if 500000000 ≤ ns then (ns : Int) - 1000000000 else ns)).toNat ∧
       t.fld (foy 0x0718) 32 32 = (s.fld (foy 0x0718) 32 32 + 1) % 2 ^ 32 ∧ ∀ o, o ≠ tm → o ≠ foy 0x0718 → t.rget o = s.rget o) ∧
    (∀ e, s.ppsAt = some e → s.hclk < e + 540000000 → exec .timePps s = .next s) ∧
    (∀ e, s.ppsAt = some e → e + 1200000000 ≤ s.hclk → ∃ t : State, exec .ppsSyncLost s = .next t ∧ t = { s with reg := t.reg } ∧
      t.fld (foy 0x0708) 62 1 = 0 ∧ t.fld (foy 0x0708) 0 62 = s.fld (foy 0x0708) 0 62) ∧
    (∀ value : DWord, s.hostOpen (foy 0x0710) = true →
      (s.fld (foy 0x0708) 62 1 = 1 → exec (.timeSet value) s = .next { s with timeSet := some (value.setWidth 32) }) ∧
      (s.fld (foy 0x0708) 62 1 = 0 → ∃ t : State, exec (.timeSet value) s = .next t ∧ t = { s with reg := t.reg } ∧
        t.fld (foy 0x0708) 30 32 = fget value 0 32 ∧ t.fld (foy 0x0708) 0 30 = 0)) ∧
    (∀ (state : Fin 3) (reading : BitVec 11), s.phase ≠ .off →
      let now := s.fld (foy 0x0730) 12 2
      ∃ t : State, exec (.coolantSample state reading) s = .next t ∧ t.jobs = s.jobs ∧
        (state.val = now → t.fld (foy 0x0730) 12 2 = now ∧ t.coolDeb = {}) ∧
        (state.val ≠ now → s.coolDeb.state = state.val → 2 ≤ s.coolDeb.count → t.fld (foy 0x0730) 12 2 = state.val ∧ t.coolDeb = {}) ∧
        (state.val ≠ now → s.coolDeb.state = state.val → s.coolDeb.count < 2 → t.fld (foy 0x0730) 12 2 = now ∧
          t.coolDeb = { state := state.val, count := s.coolDeb.count + 1 }) ∧
        (t.fld (foy 0x0730) 12 2 = 0 → state.val = 0 → t.fld (foy 0x0730) 0 11 = reading.toNat) ∧
        (t.fld (foy 0x0730) 12 2 ≠ 0 → t.fld (foy 0x0730) 0 11 = 0x7FF)) ∧
    (∀ (a b : BitVec 2), s.phase ≠ .off → ∃ t : State, exec (.leakSample a b) s = .next t ∧ t.jobs = s.jobs ∧
      t.fld (foy 0x0730) 16 2 = (debounce s.leakA (s.fld (foy 0x0730) 16 2) a.toNat).2 ∧
      t.fld (foy 0x0730) 18 2 = (debounce s.leakB (s.fld (foy 0x0730) 18 2) b.toNat).2 ∧
      t.fld (foy 0x0720) 2 1 = if t.fld (foy 0x0730) 16 2 = 1 ∨ t.fld (foy 0x0730) 18 2 = 1 then 1 else 0) ∧
    (∀ addr : BitVec 7, s.phase ≠ .off →
      (∃ t : State, exec (.dynamicAddressAssign addr) s = .next t ∧ t = { s with reg := t.reg } ∧ t.fld (foy 0x0700) 8 7 = addr.toNat ∧
        t.fld (foy 0x0700) 15 1 = 1 ∧ ∀ o, o ≠ foy 0x0700 → t.rget o = s.rget o) ∧
      (∃ t : State, exec .dynamicAddressReset s = .next t ∧ t = { s with reg := t.reg } ∧ t.fld (foy 0x0700) 8 7 = 0 ∧
        t.fld (foy 0x0700) 15 1 = 0 ∧ ∀ o, o ≠ foy 0x0700 → t.rget o = s.rget o)) ∧
    (∀ (bytes : List Byte) (sigOk testEn flashOk : Bool),
      let op := fieldAt bytes 0 1
      let off := fieldAt bytes 1 4
      let n := fieldAt bytes 5 1
      let formed := 7 ≤ bytes.length ∧ bytes.getLast? = some (crc8 bytes.dropLast) ∧ 1 ≤ n ∧ n ≤ 16 ∧
        ((op = 1 ∧ bytes.length = 7) ∨ (op = 2 ∧ bytes.length = 7 + 8 * n))
      let readable := off % 8 = 0 ∧ ∀ i, i < n → endpointReads (off + 8 * i) = true
      let answer := fun (t : State) (status : Byte) (l : List Byte) => t.give (.data (status :: l ++ [crc8 (status :: l)]))
      let a := exec (.mgmtAccess bytes sigOk testEn flashOk) s
      (s.phase = .off → a = .next (s.give .nakTransfer)) ∧
      (s.phase ≠ .off →
        (¬ formed → a = .next (answer s 1 [])) ∧
        (formed → ¬ readable → a = .next (answer s 2 [])) ∧
        (formed → readable → op = 1 → (∀ i, i < n → off + 8 * i ≠ vbReg 0) →
          a = .next (answer s 0 ((List.range n).flatMap (fun i => leBytes 8 (s.regView (off + 8 * i)).toNat)))) ∧
        (formed → readable → op = 2 → (∃ i, i < n ∧ s.endpointOpen (off + 8 * i) = false) → a = .next (answer s 3 [])) ∧
        (formed → readable → op = 2 → n = 1 → s.endpointOpen off = true → off ≠ foy 0x0220 → off ≠ foy 0x0800 →
          a = .next (answer (s.regWrite off (BitVec.ofNat 64 (fieldAt bytes 6 8)) 8 .endpoint) 0 []))))

/-- R488, R490, R492: a commit takes the oldest packet of the next source into the FIFO, and what it does not hold falls out oldest first and is
counted. R492: a read takes the oldest entry, with its end-mark and truncation bit in VB.META; of an empty FIFO it gives the last value and sets
UNDERFLOW; a 4-byte read gives 0. DROP_PACKET passes the next end-mark. R8, R495: watermarks are taken within their limits, or discarded whole; one that is
locked keeps its value, which is recorded. R346, R369: an access that the device does not take reads as 0 and changes nothing. R9: what the
host has written stands against a later write of the same HCLK. -/
def Obligations.VisitorBookKeepsItsOrder : Prop :=
  ∀ (s : State),
    (∃ t : State, exec .vbCommit s = .next t ∧ (s.vbWait = [] → t = s) ∧
      (s.vbWait ≠ [] → ∃ q : VPkt, q ∈ s.vbWait ∧ t.vbWait = dropFirst q.source s.vbWait ∧ t.vbSource = q.source ∧
        ((∃ r ∈ s.vbWait, s.vbSource < r.source) → s.vbSource < q.source ∧ ∀ r ∈ s.vbWait, s.vbSource < r.source → q.source ≤ r.source) ∧
        ((∀ r ∈ s.vbWait, r.source ≤ s.vbSource) → ∀ r ∈ s.vbWait, q.source ≤ r.source) ∧
        (q.payload.length ≤ 15 →
          t.vb.map (fun e => e.val) = (s.vb.map (fun e => e.val) ++ q.words).drop (s.vb.length + q.words.length - 8192)) ∧
        t.fld (vbReg 0x28) 16 32 = (s.fld (vbReg 0x28) 16 32 + (s.vb.length + q.words.length - 8192)) % 2 ^ 32 ∧
        (s.vb.length + q.words.length ≤ 8192 → t.vb = s.vb ++ entriesOf q.words ∧
          t.fld (vbReg 0x10) 0 14 = (s.fld (vbReg 0x10) 0 14 + q.words.length) % 2 ^ 14 ∧
          t.fld (vbReg 0x10) 16 14 = s.fld (vbReg 0x10) 16 14 ∧ t.fld (vbReg 0x10) 32 14 = t.vb.length % 2 ^ 14))) ∧
    (∀ wide : Bool, ∃ t : State, exec (.vbDataRead wide) s = .next t ∧
      (s.hostOpen (vbReg 0) = false → t = { s with out := s.out ++ [.data (List.replicate (if wide = true then 8 else 4) 0)] }) ∧
      (s.hostOpen (vbReg 0) = true →
        (∀ e es, wide = true → s.vb = e :: es → t.vb = es ∧ t.vbLast = e.val ∧
          t.out.getLast? = some (.data (leBytes 8 e.val.toNat)) ∧ t.fld (vbReg 0x08) 0 1 = (if e.fin = true then 1 else 0) ∧
          t.fld (vbReg 0x08) 1 1 = (if e.trunc = true then 1 else 0) ∧ t.fld (vbReg 0x08) 2 1 = 0 ∧
          t.fld (vbReg 0x10) 16 14 = (s.fld (vbReg 0x10) 16 14 + 1) % 2 ^ 14 ∧ t.fld (vbReg 0x10) 0 14 = s.fld (vbReg 0x10) 0 14 ∧
          t.fld (vbReg 0x10) 32 14 = es.length % 2 ^ 14 ∧ t.vbWait = s.vbWait) ∧
        (wide = true → s.vb = [] → t = { s with reg := t.reg, out := s.out ++ [.data (leBytes 8 s.vbLast.toNat)] } ∧
          t.fld (vbReg 0x08) 2 1 = 1 ∧ t.fld (vbReg 0x28) 0 1 = 1 ∧ t.rget (vbReg 0x10) = s.rget (vbReg 0x10)) ∧
        (wide = false → t = { s with reg := t.reg, out := s.out ++ [.data [0, 0, 0, 0]] } ∧
          t.fld (vbReg 0x28) 1 1 = 1 ∧ t.rget (vbReg 0x10) = s.rget (vbReg 0x10)))) ∧
    (∃ t : State, exec .dropPacket s = .next t ∧ (s.hostOpen (vbReg 0x18) = false → t = s) ∧
      (s.hostOpen (vbReg 0x18) = true → t.vbWait = s.vbWait ∧ t.vbLast = s.vbLast ∧
        (∀ pre e post, s.vb = pre ++ e :: post → e.fin = true → (∀ x ∈ pre, x.fin = false) → t.vb = post ∧
          t.fld (vbReg 0x10) 16 14 = (s.fld (vbReg 0x10) 16 14 + pre.length + 1) % 2 ^ 14) ∧
        ((∀ x ∈ s.vb, x.fin = false) → t.vb = []))) ∧
    (∀ value : DWord,
      let lock := Assoc.get 0 s.locks (vbReg 0x20)
      let v := (value &&& ~~~lock) ||| (s.rget (vbReg 0x20) &&& lock)
      let h := min 8192 (max 1 (fget v 0 14))
      let l := fget v 16 14
      ∃ t : State, exec (.vbWmWrite value) s = .next t ∧ (s.hostOpen (vbReg 0x20) = false → t = s) ∧
        (s.hostOpen (vbReg 0x20) = true → t.vb = s.vb ∧ (∀ w, w ≠ .host → t.claimed (vbReg 0x20) w = BitVec.allOnes 64) ∧
          (l < h → t.fld (vbReg 0x20) 0 14 = h ∧ t.fld (vbReg 0x20) 16 14 = l ∧ (h ≤ s.vb.length → t.pins.vbAttnN = false) ∧
            (s.vb.length ≤ l → t.pins.vbAttnN = true) ∧ (l < s.vb.length → s.vb.length < h → t.pins = s.pins)) ∧
          (h ≤ l → t.rget (vbReg 0x20) = s.rget (vbReg 0x20) ∧ t.pins = s.pins) ∧
          (lock = 0 → l < h → t.vbWait = s.vbWait) ∧
          (lock ≠ 0 ∨ h ≤ l → (s.vbWait.filter (fun q => q.kind == 0 && q.num == 0)).length < 4 →
            t.vbWait = s.vbWait ++ [⟨0x1050, 0, 0, 0, s.time, [BitVec.ofNat 64 (vbReg 0x20), value]⟩])))

/-! Reset, the whole machine, and the instruction words. -/

/-- The state after reset: the register fields whose value after reset the register tables give (R83, R138, R173, R202, R243, R405, R452, R471,
R495, R496), every other register 0, memories, vault, jobs and the Visitor Book empty, and the form and the bounds that the invariants name. -/
def Obligations.ResetLeavesTheTablesValues : Prop :=
  let s := State.reset
  s.memOk = true ∧ s.storesOk = true ∧ s.phase = .powered ∧ s.pending = [] ∧ s.jobs = [] ∧ s.keys = [] ∧ s.vb = [] ∧ s.vbWait = [] ∧
  s.sram = [] ∧ s.hbm = [] ∧ s.fld (foy 0x0048) 0 5 = 10 ∧ s.fld (foy 0x0058) 0 4 = 4 ∧ s.fld (foy 0x0058) 8 8 = 16 ∧
  s.fld (foy 0x0058) 32 32 = 0x3F800000 ∧ s.fld (foy 0x0080) 0 10 = 950 ∧ s.fld (foy 0x0088) 0 16 = 100 ∧ s.fld (foy 0x0088) 16 5 = 6 ∧
  s.fld (foy 0x0088) 24 8 = 8 ∧ s.fld (foy 0x00B0) 0 32 = 10000 ∧ s.fld (foy 0x0108) 32 16 = 5000 ∧ s.fld (foy 0x0568) 0 12 = 60 ∧
  s.fld (foy 0x0568) 16 6 = 5 ∧ s.fld (foy 0x0608) 0 11 = 1500 ∧ s.fld (foy 0x0610) 16 1 = 1 ∧ s.fld (foy 0x0620) 44 4 = 8 ∧
  s.fld (foy 0x0628) 0 8 = 95 ∧ s.fld (vbReg 0x20) 0 14 = 4096 ∧ s.fld (vbReg 0x20) 16 14 = 1024 ∧ s.fld 0x0008 0 5 = 0 ∧
  ∀ off, (Assoc.find State.resetRegs off).isNone = true → s.rget off = 0

/-- The memories and the register file keep their canonical form: whatever the block does, from every state that has it. -/
def Obligations.MemoryFormIsKept : Prop :=
  ∀ s t : State, s.memOk = true → step s = .next t → t.memOk = true

/-- The stores keep the bounds that the manual gives them: the Visitor Book's 8,192 entries and four waiting packets of a source, the vault's 4,096
keys, handles 1 to 32,767 in rising order, the 1,024 ended jobs, the 4,096 retired pages. -/
def Obligations.StoresKeepTheirBounds : Prop :=
  ∀ s t : State, s.storesOk = true → step s = .next t → t.storesOk = true

/-- R413: SVN_FUSED never decreases, and only SVN_COMMIT changes it: the command raises it to the SVN of the running image, or leaves all but
RESULT as it is where that SVN is not above it; while the running slot is TRIAL it is refused with RESULT 6, otherwise it reports RESULT 0. -/
def Obligations.SvnFusesOnlyRise : Prop :=
  (∀ (c : Instr) (s t : State), exec c s = .next t →
    s.flash.svnFused ≤ t.flash.svnFused ∧ (c ≠ .svnCommit → t.flash.svnFused = s.flash.svnFused)) ∧
  (∀ s : State, s.hostOpen (foy 0x0210) = true →
    let run := s.fld (foy 0x0200) 40 8
    let onTrial := s.flash.trial = true ∧ s.runningB = s.flash.preferB
    ∃ t : State, exec .svnCommit s = .next t ∧ t = { s with reg := t.reg, flash := { s.flash with svnFused := t.flash.svnFused } } ∧
      (∀ off, off ≠ foy 0x0218 → t.rget off = s.rget off) ∧ t.fld (foy 0x0218) 0 8 = s.fld (foy 0x0218) 0 8 ∧
      t.fld (foy 0x0218) 16 48 = s.fld (foy 0x0218) 16 48 ∧
      (onTrial → t.flash.svnFused = s.flash.svnFused ∧ t.fld (foy 0x0218) 8 8 = 6) ∧
      (¬ onTrial → t.flash.svnFused.toNat = max s.flash.svnFused.toNat run ∧ t.fld (foy 0x0218) 8 8 = 0))

/-- R430, R449, R498: HOST.STATUS.READY is 1 in service alone; only a loss of power, or test access, leaves the safe state; and nothing but a
loss of power clears TEST_LATCH. -/
def Obligations.ReadySafeAndTestStatesHold : Prop :=
  ∀ s t : State, step s = .next t →
    ((s.fld 0x0008 0 1 = 1 → s.phase = .service) → t.fld 0x0008 0 1 = 1 → t.phase = .service) ∧
    (s.phase = .safe → t.phase = .safe ∨ t.phase = .off ∨ t.phase = .test) ∧
    (s.fld (foy 0x0200) 3 1 = 1 → t.fld (foy 0x0200) 3 1 = 1 ∨ t.phase = .off)

/-- R252 to R256: the word of every Nupor instruction decodes to that instruction, with every field at every value. -/
def Obligations.DecodeOfEncodeIsTheInstruction : Prop :=
  ∀ (i : Instr) (h : NHdr), headerOf i = some h → h.ecc = [] →
    ∃ w, Nupor.encodeWord i = some w ∧ Nupor.decodeWord h.core w = some i

/-- R252 to R256: words of each family written out from their fields decode to the instruction that they stand for, and a reserved opcode to none. -/
def Obligations.WordsOfEachFamilyDecode : Prop :=
  ∀ core : Fin 256,
    let h := fun (pred : BitVec 4) (pneg fence : Bool) => (⟨core, pred, pneg, fence, []⟩ : NHdr)
    let dec := fun (w : Nat) => Nupor.decodeWord core (BitVec.ofNat 128 w)
    dec (0x07 + 2 * 2 ^ 8 + 2 ^ 12 + 3 * 2 ^ 16 + 0xDEADBEEF * 2 ^ 64) = some (.movi (h 2 true false) 3 0xDEADBEEF) ∧
    dec (0x14 + 2 ^ 13 + 9 * 2 ^ 16 + 7 * 2 ^ 26 + 2 ^ 31 + 5 * 2 ^ 32 + 2 * 2 ^ 36 + 2 ^ 38 + 6 * 2 ^ 64) =
      some (.vload (h 0 false true) 9 7 true 5 2 true 6) ∧
    dec (0x31 + 2 ^ 16 + 2 * 2 ^ 21 + 3 * 2 ^ 26 + 4 * 2 ^ 31 + 5 * 2 ^ 35 + 6 * 2 ^ 39 + 7 * 2 ^ 42 + 2 ^ 45 + 2 * 2 ^ 47 + 2 ^ 49 + 2 ^ 50 + 2 * 2 ^ 52) =
      some (.bsmm2 (h 0 false false) ⟨1, 2, 3, 4, 5, 6, 7, 1, 2, true, 1, 2⟩) ∧
    dec (0x42 + 4 * 2 ^ 16 + 2 ^ 31 + 0xABC * 2 ^ 64) = some (.tempo (h 0 false false) 4 true 0xABC) ∧
    dec (0x53 + 4 * 2 ^ 16 + 5 * 2 ^ 21 + 0x123 * 2 ^ 64 + 640 * 2 ^ 96) = some (.catadd (h 0 false false) 4 5 0x123 640) ∧
    dec (0x60 + 2 ^ 16 + 2 * 2 ^ 21 + 3 * 2 ^ 26 + 0x12 * 2 ^ 31 + 2 ^ 37 + 0x3F800000 * 2 ^ 64) =
      some (.cvec (h 0 false false) 1 2 3 0x12 true 0x3F800000) ∧
    dec (0x73 + 0x5A * 2 ^ 31 + 0xFF00 * 2 ^ 64) = some (.barrier (h 0 false false) 0x5A 0xFF00) ∧
    dec (0xF0 + 6 * 2 ^ 16 + 0x007 * 2 ^ 64) = some (.csrr (h 0 false false) 6 7) ∧
    (∀ w : InstrWord, (w.extractLsb' 0 8).toNat ∈ [0x0B, 0x0F, 0x15, 0x2F, 0x36, 0x44, 0x57, 0x65, 0x7C, 0xEF, 0xF3, 0xFF] →
      Nupor.decodeWord core w = none)

/-- R53 to R55, R67: the slot that the plane pairs of a chunk form is the exact dot product of the two's-complement or unsigned elements that the
planes spell, over the lanes of the slot, each weight lane with the activation that its position code selects under 2:4. -/
def Obligations.SlotIsTheExactDotProduct : Prop :=
  ∀ (k : ChunkCtx) (c : CoreSt) (e r n g : Nat), isBinary k.f = false →
    let element := fun (plane : Nat → Nat) (planes : Nat) (signed : Bool) (l : Nat) =>
      foldOver (fun (acc : Int) i =>
        let x : Int := if bitAt (plane i) l then 2 ^ i else 0
        if signed = true ∧ i + 1 = planes then acc - x else acc + x) 0 (List.range planes)
    let partner := fun (l : Nat) => if is24 k.f = true then 4 * (l / 2) + k.posCode c e r l else l
    k.slotValue c e r n g = foldOver (fun (acc : Int) i =>
      let l := (k.slotLanes g).1 + i
      if 256 ≤ l then acc
      else acc + element (k.wPlane c e r) k.w.width k.w.fm.signed l * element (k.aPlane c n) k.planes k.signA (partner l)) 0
      (List.range (k.slotLanes g).2)
end

