-- ==== Sys2Proof/Laws/Assoc.lean ====
section
/-! SUPPORT. Laws of sparse tables: read after write, a write over a write, and that writes keep the canonical form. -/

namespace Sys2Proof.Machine

theorem Assoc.find_insert_same {α : Type} (t : Assoc α) (k : Nat) (v : α) : Assoc.find (Assoc.insert t k v) k = some v := by
  induction t with
  | nil => simp [Assoc.insert, Assoc.find]
  | cons e t ih =>
    obtain ⟨j, w⟩ := e
    unfold Assoc.insert
    split
    · simp [Assoc.find]
    · split
      · simp [Assoc.find]
      · rename_i h1 h2
        have : j ≠ k := fun e => h2 e.symm
        simp [Assoc.find, this, ih]

theorem Assoc.find_insert_other {α : Type} (t : Assoc α) (k j : Nat) (v : α) (h : j ≠ k) :
    Assoc.find (Assoc.insert t k v) j = Assoc.find t j := by
  induction t with
  | nil => simp [Assoc.insert, Assoc.find, Ne.symm h]
  | cons e t ih =>
    obtain ⟨i, w⟩ := e
    unfold Assoc.insert
    split
    · simp [Assoc.find, Ne.symm h]
    · split
      · rename_i hk; subst hk; simp [Assoc.find, Ne.symm h]
      · by_cases hi : i = j
        · simp [Assoc.find, hi]
        · simp [Assoc.find, hi, ih]

/-- Reading with a default is finding, or the default. -/
theorem Assoc.get_eq_find {α : Type} (d : α) (t : Assoc α) (k : Nat) : Assoc.get d t k = (Assoc.find t k).getD d := by
  induction t with
  | nil => rfl
  | cons e t ih =>
    obtain ⟨j, w⟩ := e
    by_cases h : j = k <;> simp [Assoc.get, Assoc.find, h, ih]

theorem Assoc.find_erase_same {α : Type} (t : Assoc α) (k : Nat) : Assoc.find (Assoc.erase t k) k = none := by
  induction t with
  | nil => rfl
  | cons e t ih =>
    obtain ⟨j, w⟩ := e
    by_cases h : j = k
    · simpa [Assoc.erase, h] using ih
    · simpa [Assoc.erase, Assoc.find, h] using ih

theorem Assoc.find_erase_other {α : Type} (t : Assoc α) (k j : Nat) (h : j ≠ k) :
    Assoc.find (Assoc.erase t k) j = Assoc.find t j := by
  induction t with
  | nil => rfl
  | cons e t ih =>
    obtain ⟨i, w⟩ := e
    by_cases hi : i = k
    · subst hi
      simpa [Assoc.erase, Assoc.find, Ne.symm h] using ih
    · by_cases hj : i = j
      · simp [Assoc.erase, Assoc.find, hj, h]
      · simpa [Assoc.erase, Assoc.find, hi, hj] using ih

/-- A read after a write to the same key gives the value written. -/
@[simp] theorem Assoc.get_put_same {α : Type} [DecidableEq α] (d : α) (t : Assoc α) (k : Nat) (v : α) :
    Assoc.get d (Assoc.put d t k v) k = v := by
  rw [Assoc.get_eq_find]
  unfold Assoc.put
  split
  · rename_i h; simp [Assoc.find_erase_same, h]
  · simp [Assoc.find_insert_same]

/-- A write leaves every other key alone. -/
theorem Assoc.get_put_other {α : Type} [DecidableEq α] (d : α) (t : Assoc α) (k j : Nat) (v : α) (h : j ≠ k) :
    Assoc.get d (Assoc.put d t k v) j = Assoc.get d t j := by
  rw [Assoc.get_eq_find, Assoc.get_eq_find]
  unfold Assoc.put
  split
  · rw [Assoc.find_erase_other _ _ _ h]
  · rw [Assoc.find_insert_other _ _ _ _ h, Assoc.find_erase_other _ _ _ h]

theorem Assoc.erase_insert {α : Type} (t : Assoc α) (k : Nat) (v : α) : Assoc.erase (Assoc.insert t k v) k = Assoc.erase t k := by
  induction t with
  | nil => simp [Assoc.erase, Assoc.insert]
  | cons e t ih =>
    obtain ⟨j, w⟩ := e
    unfold Assoc.insert
    split
    · simp [Assoc.erase]
    · split
      · rename_i h; subst h; simp [Assoc.erase]
      · simp only [Assoc.erase, List.filter_cons] at ih ⊢
        rw [ih]

theorem Assoc.erase_erase {α : Type} (t : Assoc α) (k : Nat) : Assoc.erase (Assoc.erase t k) k = Assoc.erase t k := by
  simp [Assoc.erase]

/-- A second write to the same key is the only one that counts. -/
@[simp] theorem Assoc.put_put {α : Type} [DecidableEq α] (d : α) (t : Assoc α) (k : Nat) (v w : α) :
    Assoc.put d (Assoc.put d t k v) k w = Assoc.put d t k w := by
  have : Assoc.erase (Assoc.put d t k v) k = Assoc.erase t k := by
    unfold Assoc.put
    split
    · exact Assoc.erase_erase t k
    · rw [Assoc.erase_insert, Assoc.erase_erase]
  unfold Assoc.put at this ⊢
  rw [this]

theorem Assoc.insert_insert {α : Type} (t : Assoc α) (k : Nat) (v w : α) :
    Assoc.insert (Assoc.insert t k v) k w = Assoc.insert t k w := by
  induction t with
  | nil => simp [Assoc.insert]
  | cons e t ih =>
    obtain ⟨j, x⟩ := e
    by_cases h1 : k < j
    · simp [Assoc.insert, h1]
    · by_cases h2 : k = j
      · simp [Assoc.insert, h2]
      · simp [Assoc.insert, h1, h2, ih]

theorem Assoc.sorted_weaken {α : Type} (t : Assoc α) (a b : Nat) (h : a ≤ b) (hs : Assoc.sorted (some b) t = true) :
    Assoc.sorted (some a) t = true := by
  cases t with
  | nil => rfl
  | cons e t => obtain ⟨j, w⟩ := e; simp [Assoc.sorted] at hs ⊢; exact ⟨by omega, hs.2⟩

theorem Assoc.sorted_tail {α : Type} (j : Nat) (w : α) (t : Assoc α) (lo : Option Nat) (h : Assoc.sorted lo ((j, w) :: t) = true) :
    Assoc.sorted (some j) t = true := by
  cases lo with
  | none => simpa [Assoc.sorted] using h
  | some l => simp [Assoc.sorted] at h; exact h.2

theorem Assoc.sorted_erase {α : Type} (t : Assoc α) (k : Nat) :
    ∀ lo : Option Nat, Assoc.sorted lo t = true → Assoc.sorted lo (Assoc.erase t k) = true := by
  induction t with
  | nil => intro lo _; rfl
  | cons e t ih =>
    obtain ⟨j, w⟩ := e
    intro lo hs
    have ht := Assoc.sorted_tail j w t lo hs
    have hi := ih (some j) ht
    by_cases h : j = k
    · have he : Assoc.erase ((j, w) :: t) k = Assoc.erase t k := by simp [Assoc.erase, h]
      rw [he]
      cases lo with
      | none =>
        cases hr : Assoc.erase t k with
        | nil => rfl
        | cons e r => obtain ⟨i, x⟩ := e; rw [hr] at hi; exact Assoc.sorted_tail i x r (some j) hi
      | some l =>
        simp [Assoc.sorted] at hs
        exact Assoc.sorted_weaken _ l j (by omega) hi
    · have he : Assoc.erase ((j, w) :: t) k = (j, w) :: Assoc.erase t k := by simp [Assoc.erase, h]
      rw [he]
      cases lo with
      | none => simpa [Assoc.sorted] using hi
      | some l => simp [Assoc.sorted] at hs ⊢; exact ⟨hs.1, hi⟩

theorem Assoc.sorted_insert {α : Type} (t : Assoc α) (k : Nat) (v : α) :
    ∀ lo : Option Nat, Assoc.sorted lo t = true → (∀ l, lo = some l → l < k) → Assoc.sorted lo (Assoc.insert t k v) = true := by
  induction t with
  | nil =>
    intro lo _ hl
    cases lo with
    | none => rfl
    | some l => simp [Assoc.insert, Assoc.sorted, hl l rfl]
  | cons e t ih =>
    obtain ⟨j, w⟩ := e
    intro lo hs hl
    have hs' := Assoc.sorted_tail j w t lo hs
    unfold Assoc.insert
    split
    · rename_i hlt
      cases lo with
      | none => simp [Assoc.sorted, hlt, hs']
      | some l => simp [Assoc.sorted, hl l rfl, hlt, hs']
    · split
      · rename_i hk; subst hk
        cases lo with
        | none => simp [Assoc.sorted, hs']
        | some l => simp [Assoc.sorted, hl l rfl, hs']
      · rename_i h1 h2
        have hrec := ih (some j) hs' (by intro l e; cases e; omega)
        cases lo with
        | none => simp [Assoc.sorted, hrec]
        | some l =>
          simp [Assoc.sorted] at hs
          simp [Assoc.sorted, hs.1, hrec]

theorem Assoc.sorted_put {α : Type} [DecidableEq α] (d : α) (t : Assoc α) (k : Nat) (v : α) (h : Assoc.sorted none t = true) :
    Assoc.sorted none (Assoc.put d t k v) = true := by
  have he := Assoc.sorted_erase t k none h
  unfold Assoc.put
  split
  · exact he
  · exact Assoc.sorted_insert _ k v none he (by simp)

theorem Assoc.mem_insert {α : Type} (t : Assoc α) (k : Nat) (v : α) (e : Nat × α) (h : e ∈ Assoc.insert t k v) :
    e = (k, v) ∨ e ∈ t := by
  induction t with
  | nil => simpa [Assoc.insert] using h
  | cons x t ih =>
    obtain ⟨j, w⟩ := x
    unfold Assoc.insert at h
    split at h
    · simpa using h
    · split at h
      · rcases List.mem_cons.1 h with h | h
        · exact .inl h
        · exact .inr (List.mem_cons_of_mem _ h)
      · rcases List.mem_cons.1 h with h | h
        · exact .inr (h ▸ List.mem_cons_self)
        · rcases ih h with h | h
          · exact .inl h
          · exact .inr (List.mem_cons_of_mem _ h)

/-- Dropping entries keeps the order. -/
theorem Assoc.sorted_filter {α : Type} (p : Nat × α → Bool) (t : Assoc α) :
    ∀ lo : Option Nat, Assoc.sorted lo t = true → Assoc.sorted lo (t.filter p) = true := by
  induction t with
  | nil => intro lo _; rfl
  | cons e t ih =>
    obtain ⟨j, w⟩ := e
    intro lo h
    have ht := ih (some j) (Assoc.sorted_tail j w t lo h)
    rw [List.filter_cons]
    split
    · cases lo with
      | none => simpa [Assoc.sorted] using ht
      | some l => simp [Assoc.sorted] at h ⊢; exact ⟨h.1, ht⟩
    · cases lo with
      | none =>
        generalize t.filter p = u at ht
        cases u with
        | nil => rfl
        | cons f u => obtain ⟨k, v⟩ := f; exact Assoc.sorted_tail k v u (some j) ht
      | some l => simp [Assoc.sorted] at h; exact Assoc.sorted_weaken _ _ _ (by omega) ht

/-- Dropping entries keeps the canonical form. -/
theorem Assoc.wf_filter {α : Type} [DecidableEq α] (d : α) (p : Nat × α → Bool) (t : Assoc α) (h : Assoc.wf d t = true) :
    Assoc.wf d (t.filter p) = true := by
  simp only [Assoc.wf, Bool.and_eq_true, List.all_eq_true, decide_eq_true_eq] at h ⊢
  exact ⟨Assoc.sorted_filter p t none h.1, fun e he => h.2 e (List.mem_filter.1 he).1⟩

/-- Every write keeps the canonical form. -/
theorem Assoc.wf_put {α : Type} [DecidableEq α] (d : α) (t : Assoc α) (k : Nat) (v : α) (h : Assoc.wf d t = true) :
    Assoc.wf d (Assoc.put d t k v) = true := by
  simp only [Assoc.wf, Bool.and_eq_true, List.all_eq_true, decide_eq_true_eq] at h ⊢
  refine ⟨Assoc.sorted_put d t k v h.1, ?_⟩
  intro e he
  have keep : ∀ e ∈ Assoc.erase t k, e.2 ≠ d := fun e he => h.2 e (List.mem_filter.1 he).1
  unfold Assoc.put at he
  split at he
  · exact keep e he
  · rename_i hv
    rcases Assoc.mem_insert _ _ _ _ he with rfl | h'
    · exact hv
    · exact keep e h'

/-- What holds after each element of a fold holds at its end. -/
theorem foldOver_keeps {α β : Type} (P : β → Prop) (f : β → α → β) (h : ∀ b x, P b → P (f b x)) :
    ∀ (l : List α) (b : β), P b → P (foldOver f b l) := by
  intro l
  induction l with
  | nil => intro b hb; exact hb
  | cons x t ih => intro b hb; exact ih (f b x) (h b x hb)

/-- A value that no element changes is unchanged at the end of a fold. -/
theorem foldOver_same {α β γ : Type} (g : β → γ) (f : β → α → β) (h : ∀ b x, g (f b x) = g b) (l : List α) (b : β) :
    g (foldOver f b l) = g b := by
  induction l generalizing b with
  | nil => rfl
  | cons x t ih => simp [foldOver, ih, h]

end Sys2Proof.Machine
end

