-- ==== Sys2Proof/Laws/Bits.lean ====
section
/-! SUPPORT. Laws of bit fields: a field that is put reads back, and every other bit stays. -/

namespace Sys2Proof.Machine

theorem bitAt_eq_testBit (v i : Nat) : bitAt v i = v.testBit i := by
  simp [bitAt, Nat.testBit_eq_decide_div_mod_eq]

theorem bitsOf_testBit (v lo w i : Nat) : (bitsOf v lo w).testBit i = (decide (i < w) && v.testBit (lo + i)) := by
  simp only [bitsOf, Nat.testBit_mod_two_pow, Nat.testBit_div_two_pow, Nat.add_comm]

theorem bitsPut_eq (v lo w x : Nat) : bitsPut v lo w x = 2 ^ (lo + w) * (v / 2 ^ (lo + w)) + (2 ^ lo * (x % 2 ^ w) + v % 2 ^ lo) := by
  have h1 : v / 2 ^ lo = 2 ^ w * (v / 2 ^ lo / 2 ^ w) + v / 2 ^ lo % 2 ^ w := (Nat.div_add_mod _ _).symm
  have h2 : v = 2 ^ lo * (v / 2 ^ lo) + v % 2 ^ lo := (Nat.div_add_mod _ _).symm
  have h3 : v / 2 ^ (lo + w) = v / 2 ^ lo / 2 ^ w := by rw [Nat.div_div_eq_div_mul, Nat.pow_add]
  rw [bitsPut, bitsOf, h3, Nat.pow_add, Nat.mul_assoc]
  generalize v / 2 ^ lo / 2 ^ w = hi at *
  generalize hm : v / 2 ^ lo % 2 ^ w = mid at *
  have h4 : v = 2 ^ lo * (2 ^ w * hi) + 2 ^ lo * mid + v % 2 ^ lo := by rw [← Nat.mul_add, ← h1]; exact h2
  rw [Nat.mul_comm mid, Nat.mul_comm (x % 2 ^ w)]
  omega

theorem bitsPut_testBit (v lo w x i : Nat) :
    (bitsPut v lo w x).testBit i = if lo ≤ i ∧ i < lo + w then x.testBit (i - lo) else v.testBit i := by
  have hl : v % 2 ^ lo < 2 ^ lo := Nat.mod_lt _ (Nat.two_pow_pos lo)
  have hx : x % 2 ^ w < 2 ^ w := Nat.mod_lt _ (Nat.two_pow_pos w)
  have hm : 2 ^ lo * (x % 2 ^ w) + v % 2 ^ lo < 2 ^ (lo + w) := by
    rw [Nat.pow_add]
    calc 2 ^ lo * (x % 2 ^ w) + v % 2 ^ lo < 2 ^ lo * (x % 2 ^ w) + 2 ^ lo := by omega
      _ = 2 ^ lo * (x % 2 ^ w + 1) := by rw [Nat.mul_add, Nat.mul_one]
      _ ≤ 2 ^ lo * 2 ^ w := Nat.mul_le_mul_left _ hx
  rw [bitsPut_eq, Nat.testBit_two_pow_mul_add _ hm]
  by_cases h : i < lo + w
  · rw [if_pos h, Nat.testBit_two_pow_mul_add _ hl]
    by_cases g : i < lo
    · rw [if_pos g, if_neg (by omega), Nat.testBit_mod_two_pow]; simp [g]
    · rw [if_neg g, if_pos (by omega), Nat.testBit_mod_two_pow]
      have : i - lo < w := by omega
      simp [this]
  · rw [if_neg h, if_neg (by omega), Nat.testBit_div_two_pow]
    congr 1; omega

theorem bitsPut_lt (v lo w x : Nat) (n : Nat) (hv : v < 2 ^ n) (h : lo + w ≤ n) : bitsPut v lo w x < 2 ^ n := by
  apply Nat.lt_pow_two_of_testBit
  intro i hi
  rw [bitsPut_testBit, if_neg (by omega)]
  exact Nat.testBit_lt_two_pow (Nat.lt_of_lt_of_le hv (Nat.pow_le_pow_right (by omega) hi))

/-- A field that is put reads back, cut to its width. -/
theorem fget_fput_same (v : DWord) (lo w x : Nat) (h : lo + w ≤ 64) : fget (fput v lo w x) lo w = x % 2 ^ w := by
  unfold fget fput
  rw [BitVec.toNat_ofNat, Nat.mod_eq_of_lt (bitsPut_lt _ _ _ _ 64 v.isLt h)]
  apply Nat.eq_of_testBit_eq
  intro i
  rw [bitsOf_testBit, bitsPut_testBit, Nat.testBit_mod_two_pow]
  by_cases g : i < w
  · rw [if_pos (by omega)]; simp [g]
  · simp [g]

/-- Putting a field leaves a field apart from it alone. -/
theorem fget_fput_other (v : DWord) (lo w x lo' w' : Nat) (h : lo + w ≤ 64) (hd : lo + w ≤ lo' ∨ lo' + w' ≤ lo) :
    fget (fput v lo w x) lo' w' = fget v lo' w' := by
  unfold fget fput
  rw [BitVec.toNat_ofNat, Nat.mod_eq_of_lt (bitsPut_lt _ _ _ _ 64 v.isLt h)]
  apply Nat.eq_of_testBit_eq
  intro i
  rw [bitsOf_testBit, bitsOf_testBit, bitsPut_testBit]
  by_cases g : i < w'
  · rw [if_neg (by omega)]
  · simp [g]

theorem fget_lt (v : DWord) (lo w : Nat) : fget v lo w < 2 ^ w := Nat.mod_lt _ (Nat.two_pow_pos w)

end Sys2Proof.Machine
end

