-- ==== Sys2Proof/Laws/State.lean ====
section
/-! SUPPORT. What the updates of one field leave: each other field of the state is unchanged. -/

namespace Sys2Proof.Machine

@[simp] theorem State.rput_pending (s : State) (off : Nat) (v : DWord) : (s.rput off v).pending = s.pending := rfl
@[simp] theorem State.rput_locks (s : State) (off : Nat) (v : DWord) : (s.rput off v).locks = s.locks := rfl
@[simp] theorem State.rput_profiled (s : State) (off : Nat) (v : DWord) : (s.rput off v).profiled = s.profiled := rfl
@[simp] theorem State.rput_staging (s : State) (off : Nat) (v : DWord) : (s.rput off v).staging = s.staging := rfl
@[simp] theorem State.rput_sram (s : State) (off : Nat) (v : DWord) : (s.rput off v).sram = s.sram := rfl
@[simp] theorem State.rput_hbm (s : State) (off : Nat) (v : DWord) : (s.rput off v).hbm = s.hbm := rfl
@[simp] theorem State.rput_hostMem (s : State) (off : Nat) (v : DWord) : (s.rput off v).hostMem = s.hostMem := rfl
@[simp] theorem State.rput_pages (s : State) (off : Nat) (v : DWord) : (s.rput off v).pages = s.pages := rfl
@[simp] theorem State.rput_scrubPages (s : State) (off : Nat) (v : DWord) : (s.rput off v).scrubPages = s.scrubPages := rfl
@[simp] theorem State.rput_salonGate (s : State) (off : Nat) (v : DWord) : (s.rput off v).salonGate = s.salonGate := rfl
@[simp] theorem State.rput_selfRefresh (s : State) (off : Nat) (v : DWord) : (s.rput off v).selfRefresh = s.selfRefresh := rfl
@[simp] theorem State.rput_cores (s : State) (off : Nat) (v : DWord) : (s.rput off v).cores = s.cores := rfl
@[simp] theorem State.rput_clusters (s : State) (off : Nat) (v : DWord) : (s.rput off v).clusters = s.clusters := rfl
@[simp] theorem State.rput_halls (s : State) (off : Nat) (v : DWord) : (s.rput off v).halls = s.halls := rfl
@[simp] theorem State.rput_tempo (s : State) (off : Nat) (v : DWord) : (s.rput off v).tempo = s.tempo := rfl
@[simp] theorem State.rput_docent (s : State) (off : Nat) (v : DWord) : (s.rput off v).docent = s.docent := rfl
@[simp] theorem State.rput_jobs (s : State) (off : Nat) (v : DWord) : (s.rput off v).jobs = s.jobs := rfl
@[simp] theorem State.rput_scrubs (s : State) (off : Nat) (v : DWord) : (s.rput off v).scrubs = s.scrubs := rfl
@[simp] theorem State.rput_fetches (s : State) (off : Nat) (v : DWord) : (s.rput off v).fetches = s.fetches := rfl
@[simp] theorem State.rput_lastRing (s : State) (off : Nat) (v : DWord) : (s.rput off v).lastRing = s.lastRing := rfl
@[simp] theorem State.rput_coal (s : State) (off : Nat) (v : DWord) : (s.rput off v).coal = s.coal := rfl
@[simp] theorem State.rput_reports (s : State) (off : Nat) (v : DWord) : (s.rput off v).reports = s.reports := rfl
@[simp] theorem State.rput_mbxBusy (s : State) (off : Nat) (v : DWord) : (s.rput off v).mbxBusy = s.mbxBusy := rfl
@[simp] theorem State.rput_ide (s : State) (off : Nat) (v : DWord) : (s.rput off v).ide = s.ide := rfl
@[simp] theorem State.rput_msixTable (s : State) (off : Nat) (v : DWord) : (s.rput off v).msixTable = s.msixTable := rfl
@[simp] theorem State.rput_bar2Size (s : State) (off : Nat) (v : DWord) : (s.rput off v).bar2Size = s.bar2Size := rfl
@[simp] theorem State.rput_cfg (s : State) (off : Nat) (v : DWord) : (s.rput off v).cfg = s.cfg := rfl
@[simp] theorem State.rput_writtenAt (s : State) (off : Nat) (v : DWord) : (s.rput off v).writtenAt = s.writtenAt := rfl
@[simp] theorem State.rput_written (s : State) (off : Nat) (v : DWord) : (s.rput off v).written = s.written := rfl
@[simp] theorem State.rput_keys (s : State) (off : Nat) (v : DWord) : (s.rput off v).keys = s.keys := rfl
@[simp] theorem State.rput_keySlots (s : State) (off : Nat) (v : DWord) : (s.rput off v).keySlots = s.keySlots := rfl
@[simp] theorem State.rput_ended (s : State) (off : Nat) (v : DWord) : (s.rput off v).ended = s.ended := rfl
@[simp] theorem State.rput_sessions (s : State) (off : Nat) (v : DWord) : (s.rput off v).sessions = s.sessions := rfl
@[simp] theorem State.rput_identity (s : State) (off : Nat) (v : DWord) : (s.rput off v).identity = s.identity := rfl
@[simp] theorem State.rput_flash (s : State) (off : Nat) (v : DWord) : (s.rput off v).flash = s.flash := rfl
@[simp] theorem State.rput_links (s : State) (off : Nat) (v : DWord) : (s.rput off v).links = s.links := rfl
@[simp] theorem State.rput_seqTx (s : State) (off : Nat) (v : DWord) : (s.rput off v).seqTx = s.seqTx := rfl
@[simp] theorem State.rput_seqRx (s : State) (off : Nat) (v : DWord) : (s.rput off v).seqRx = s.seqRx := rfl
@[simp] theorem State.rput_statusRx (s : State) (off : Nat) (v : DWord) : (s.rput off v).statusRx = s.statusRx := rfl
@[simp] theorem State.rput_arrivals (s : State) (off : Nat) (v : DWord) : (s.rput off v).arrivals = s.arrivals := rfl
@[simp] theorem State.rput_sent (s : State) (off : Nat) (v : DWord) : (s.rput off v).sent = s.sent := rfl
@[simp] theorem State.rput_xfers (s : State) (off : Nat) (v : DWord) : (s.rput off v).xfers = s.xfers := rfl
@[simp] theorem State.rput_nextXfer (s : State) (off : Nat) (v : DWord) : (s.rput off v).nextXfer = s.nextXfer := rfl
@[simp] theorem State.rput_recoveries (s : State) (off : Nat) (v : DWord) : (s.rput off v).recoveries = s.recoveries := rfl
@[simp] theorem State.rput_history (s : State) (off : Nat) (v : DWord) : (s.rput off v).history = s.history := rfl
@[simp] theorem State.rput_invRun (s : State) (off : Nat) (v : DWord) : (s.rput off v).invRun = s.invRun := rfl
@[simp] theorem State.rput_invHeld (s : State) (off : Nat) (v : DWord) : (s.rput off v).invHeld = s.invHeld := rfl
@[simp] theorem State.rput_invPassed (s : State) (off : Nat) (v : DWord) : (s.rput off v).invPassed = s.invPassed := rfl
@[simp] theorem State.rput_invLast (s : State) (off : Nat) (v : DWord) : (s.rput off v).invLast = s.invLast := rfl
@[simp] theorem State.rput_invStart (s : State) (off : Nat) (v : DWord) : (s.rput off v).invStart = s.invStart := rfl
@[simp] theorem State.rput_invAmps (s : State) (off : Nat) (v : DWord) : (s.rput off v).invAmps = s.invAmps := rfl
@[simp] theorem State.rput_power (s : State) (off : Nat) (v : DWord) : (s.rput off v).power = s.power := rfl
@[simp] theorem State.rput_clampOn (s : State) (off : Nat) (v : DWord) : (s.rput off v).clampOn = s.clampOn := rfl
@[simp] theorem State.rput_pins (s : State) (off : Nat) (v : DWord) : (s.rput off v).pins = s.pins := rfl
@[simp] theorem State.rput_latchCause (s : State) (off : Nat) (v : DWord) : (s.rput off v).latchCause = s.latchCause := rfl
@[simp] theorem State.rput_latched (s : State) (off : Nat) (v : DWord) : (s.rput off v).latched = s.latched := rfl
@[simp] theorem State.rput_latchNews (s : State) (off : Nat) (v : DWord) : (s.rput off v).latchNews = s.latchNews := rfl
@[simp] theorem State.rput_testScope (s : State) (off : Nat) (v : DWord) : (s.rput off v).testScope = s.testScope := rfl
@[simp] theorem State.rput_coolDeb (s : State) (off : Nat) (v : DWord) : (s.rput off v).coolDeb = s.coolDeb := rfl
@[simp] theorem State.rput_leakA (s : State) (off : Nat) (v : DWord) : (s.rput off v).leakA = s.leakA := rfl
@[simp] theorem State.rput_leakB (s : State) (off : Nat) (v : DWord) : (s.rput off v).leakB = s.leakB := rfl
@[simp] theorem State.rput_fuseFast (s : State) (off : Nat) (v : DWord) : (s.rput off v).fuseFast = s.fuseFast := rfl
@[simp] theorem State.rput_vbWait (s : State) (off : Nat) (v : DWord) : (s.rput off v).vbWait = s.vbWait := rfl
@[simp] theorem State.rput_vb (s : State) (off : Nat) (v : DWord) : (s.rput off v).vb = s.vb := rfl
@[simp] theorem State.rput_vbLast (s : State) (off : Nat) (v : DWord) : (s.rput off v).vbLast = s.vbLast := rfl
@[simp] theorem State.rput_vbSource (s : State) (off : Nat) (v : DWord) : (s.rput off v).vbSource = s.vbSource := rfl
@[simp] theorem State.rput_timeSet (s : State) (off : Nat) (v : DWord) : (s.rput off v).timeSet = s.timeSet := rfl
@[simp] theorem State.rput_ppsAt (s : State) (off : Nat) (v : DWord) : (s.rput off v).ppsAt = s.ppsAt := rfl
@[simp] theorem State.rput_phase (s : State) (off : Nat) (v : DWord) : (s.rput off v).phase = s.phase := rfl
@[simp] theorem State.rput_defaultsOn (s : State) (off : Nat) (v : DWord) : (s.rput off v).defaultsOn = s.defaultsOn := rfl
@[simp] theorem State.rput_hclk (s : State) (off : Nat) (v : DWord) : (s.rput off v).hclk = s.hclk := rfl
@[simp] theorem State.rput_fresh (s : State) (off : Nat) (v : DWord) : (s.rput off v).fresh = s.fresh := rfl
@[simp] theorem State.rput_out (s : State) (off : Nat) (v : DWord) : (s.rput off v).out = s.out := rfl

@[simp] theorem State.setFld_pending (s : State) (off lo w x : Nat) : (s.setFld off lo w x).pending = s.pending := rfl
@[simp] theorem State.setFld_locks (s : State) (off lo w x : Nat) : (s.setFld off lo w x).locks = s.locks := rfl
@[simp] theorem State.setFld_profiled (s : State) (off lo w x : Nat) : (s.setFld off lo w x).profiled = s.profiled := rfl
@[simp] theorem State.setFld_staging (s : State) (off lo w x : Nat) : (s.setFld off lo w x).staging = s.staging := rfl
@[simp] theorem State.setFld_sram (s : State) (off lo w x : Nat) : (s.setFld off lo w x).sram = s.sram := rfl
@[simp] theorem State.setFld_hbm (s : State) (off lo w x : Nat) : (s.setFld off lo w x).hbm = s.hbm := rfl
@[simp] theorem State.setFld_hostMem (s : State) (off lo w x : Nat) : (s.setFld off lo w x).hostMem = s.hostMem := rfl
@[simp] theorem State.setFld_pages (s : State) (off lo w x : Nat) : (s.setFld off lo w x).pages = s.pages := rfl
@[simp] theorem State.setFld_scrubPages (s : State) (off lo w x : Nat) : (s.setFld off lo w x).scrubPages = s.scrubPages := rfl
@[simp] theorem State.setFld_salonGate (s : State) (off lo w x : Nat) : (s.setFld off lo w x).salonGate = s.salonGate := rfl
@[simp] theorem State.setFld_selfRefresh (s : State) (off lo w x : Nat) : (s.setFld off lo w x).selfRefresh = s.selfRefresh := rfl
@[simp] theorem State.setFld_cores (s : State) (off lo w x : Nat) : (s.setFld off lo w x).cores = s.cores := rfl
@[simp] theorem State.setFld_clusters (s : State) (off lo w x : Nat) : (s.setFld off lo w x).clusters = s.clusters := rfl
@[simp] theorem State.setFld_halls (s : State) (off lo w x : Nat) : (s.setFld off lo w x).halls = s.halls := rfl
@[simp] theorem State.setFld_tempo (s : State) (off lo w x : Nat) : (s.setFld off lo w x).tempo = s.tempo := rfl
@[simp] theorem State.setFld_docent (s : State) (off lo w x : Nat) : (s.setFld off lo w x).docent = s.docent := rfl
@[simp] theorem State.setFld_jobs (s : State) (off lo w x : Nat) : (s.setFld off lo w x).jobs = s.jobs := rfl
@[simp] theorem State.setFld_scrubs (s : State) (off lo w x : Nat) : (s.setFld off lo w x).scrubs = s.scrubs := rfl
@[simp] theorem State.setFld_fetches (s : State) (off lo w x : Nat) : (s.setFld off lo w x).fetches = s.fetches := rfl
@[simp] theorem State.setFld_lastRing (s : State) (off lo w x : Nat) : (s.setFld off lo w x).lastRing = s.lastRing := rfl
@[simp] theorem State.setFld_coal (s : State) (off lo w x : Nat) : (s.setFld off lo w x).coal = s.coal := rfl
@[simp] theorem State.setFld_reports (s : State) (off lo w x : Nat) : (s.setFld off lo w x).reports = s.reports := rfl
@[simp] theorem State.setFld_mbxBusy (s : State) (off lo w x : Nat) : (s.setFld off lo w x).mbxBusy = s.mbxBusy := rfl
@[simp] theorem State.setFld_ide (s : State) (off lo w x : Nat) : (s.setFld off lo w x).ide = s.ide := rfl
@[simp] theorem State.setFld_msixTable (s : State) (off lo w x : Nat) : (s.setFld off lo w x).msixTable = s.msixTable := rfl
@[simp] theorem State.setFld_bar2Size (s : State) (off lo w x : Nat) : (s.setFld off lo w x).bar2Size = s.bar2Size := rfl
@[simp] theorem State.setFld_cfg (s : State) (off lo w x : Nat) : (s.setFld off lo w x).cfg = s.cfg := rfl
@[simp] theorem State.setFld_writtenAt (s : State) (off lo w x : Nat) : (s.setFld off lo w x).writtenAt = s.writtenAt := rfl
@[simp] theorem State.setFld_written (s : State) (off lo w x : Nat) : (s.setFld off lo w x).written = s.written := rfl
@[simp] theorem State.setFld_keys (s : State) (off lo w x : Nat) : (s.setFld off lo w x).keys = s.keys := rfl
@[simp] theorem State.setFld_keySlots (s : State) (off lo w x : Nat) : (s.setFld off lo w x).keySlots = s.keySlots := rfl
@[simp] theorem State.setFld_ended (s : State) (off lo w x : Nat) : (s.setFld off lo w x).ended = s.ended := rfl
@[simp] theorem State.setFld_sessions (s : State) (off lo w x : Nat) : (s.setFld off lo w x).sessions = s.sessions := rfl
@[simp] theorem State.setFld_identity (s : State) (off lo w x : Nat) : (s.setFld off lo w x).identity = s.identity := rfl
@[simp] theorem State.setFld_flash (s : State) (off lo w x : Nat) : (s.setFld off lo w x).flash = s.flash := rfl
@[simp] theorem State.setFld_links (s : State) (off lo w x : Nat) : (s.setFld off lo w x).links = s.links := rfl
@[simp] theorem State.setFld_seqTx (s : State) (off lo w x : Nat) : (s.setFld off lo w x).seqTx = s.seqTx := rfl
@[simp] theorem State.setFld_seqRx (s : State) (off lo w x : Nat) : (s.setFld off lo w x).seqRx = s.seqRx := rfl
@[simp] theorem State.setFld_statusRx (s : State) (off lo w x : Nat) : (s.setFld off lo w x).statusRx = s.statusRx := rfl
@[simp] theorem State.setFld_arrivals (s : State) (off lo w x : Nat) : (s.setFld off lo w x).arrivals = s.arrivals := rfl
@[simp] theorem State.setFld_sent (s : State) (off lo w x : Nat) : (s.setFld off lo w x).sent = s.sent := rfl
@[simp] theorem State.setFld_xfers (s : State) (off lo w x : Nat) : (s.setFld off lo w x).xfers = s.xfers := rfl
@[simp] theorem State.setFld_nextXfer (s : State) (off lo w x : Nat) : (s.setFld off lo w x).nextXfer = s.nextXfer := rfl
@[simp] theorem State.setFld_recoveries (s : State) (off lo w x : Nat) : (s.setFld off lo w x).recoveries = s.recoveries := rfl
@[simp] theorem State.setFld_history (s : State) (off lo w x : Nat) : (s.setFld off lo w x).history = s.history := rfl
@[simp] theorem State.setFld_invRun (s : State) (off lo w x : Nat) : (s.setFld off lo w x).invRun = s.invRun := rfl
@[simp] theorem State.setFld_invHeld (s : State) (off lo w x : Nat) : (s.setFld off lo w x).invHeld = s.invHeld := rfl
@[simp] theorem State.setFld_invPassed (s : State) (off lo w x : Nat) : (s.setFld off lo w x).invPassed = s.invPassed := rfl
@[simp] theorem State.setFld_invLast (s : State) (off lo w x : Nat) : (s.setFld off lo w x).invLast = s.invLast := rfl
@[simp] theorem State.setFld_invStart (s : State) (off lo w x : Nat) : (s.setFld off lo w x).invStart = s.invStart := rfl
@[simp] theorem State.setFld_invAmps (s : State) (off lo w x : Nat) : (s.setFld off lo w x).invAmps = s.invAmps := rfl
@[simp] theorem State.setFld_power (s : State) (off lo w x : Nat) : (s.setFld off lo w x).power = s.power := rfl
@[simp] theorem State.setFld_clampOn (s : State) (off lo w x : Nat) : (s.setFld off lo w x).clampOn = s.clampOn := rfl
@[simp] theorem State.setFld_pins (s : State) (off lo w x : Nat) : (s.setFld off lo w x).pins = s.pins := rfl
@[simp] theorem State.setFld_latchCause (s : State) (off lo w x : Nat) : (s.setFld off lo w x).latchCause = s.latchCause := rfl
@[simp] theorem State.setFld_latched (s : State) (off lo w x : Nat) : (s.setFld off lo w x).latched = s.latched := rfl
@[simp] theorem State.setFld_latchNews (s : State) (off lo w x : Nat) : (s.setFld off lo w x).latchNews = s.latchNews := rfl
@[simp] theorem State.setFld_testScope (s : State) (off lo w x : Nat) : (s.setFld off lo w x).testScope = s.testScope := rfl
@[simp] theorem State.setFld_coolDeb (s : State) (off lo w x : Nat) : (s.setFld off lo w x).coolDeb = s.coolDeb := rfl
@[simp] theorem State.setFld_leakA (s : State) (off lo w x : Nat) : (s.setFld off lo w x).leakA = s.leakA := rfl
@[simp] theorem State.setFld_leakB (s : State) (off lo w x : Nat) : (s.setFld off lo w x).leakB = s.leakB := rfl
@[simp] theorem State.setFld_fuseFast (s : State) (off lo w x : Nat) : (s.setFld off lo w x).fuseFast = s.fuseFast := rfl
@[simp] theorem State.setFld_vbWait (s : State) (off lo w x : Nat) : (s.setFld off lo w x).vbWait = s.vbWait := rfl
@[simp] theorem State.setFld_vb (s : State) (off lo w x : Nat) : (s.setFld off lo w x).vb = s.vb := rfl
@[simp] theorem State.setFld_vbLast (s : State) (off lo w x : Nat) : (s.setFld off lo w x).vbLast = s.vbLast := rfl
@[simp] theorem State.setFld_vbSource (s : State) (off lo w x : Nat) : (s.setFld off lo w x).vbSource = s.vbSource := rfl
@[simp] theorem State.setFld_timeSet (s : State) (off lo w x : Nat) : (s.setFld off lo w x).timeSet = s.timeSet := rfl
@[simp] theorem State.setFld_ppsAt (s : State) (off lo w x : Nat) : (s.setFld off lo w x).ppsAt = s.ppsAt := rfl
@[simp] theorem State.setFld_phase (s : State) (off lo w x : Nat) : (s.setFld off lo w x).phase = s.phase := rfl
@[simp] theorem State.setFld_defaultsOn (s : State) (off lo w x : Nat) : (s.setFld off lo w x).defaultsOn = s.defaultsOn := rfl
@[simp] theorem State.setFld_hclk (s : State) (off lo w x : Nat) : (s.setFld off lo w x).hclk = s.hclk := rfl
@[simp] theorem State.setFld_fresh (s : State) (off lo w x : Nat) : (s.setFld off lo w x).fresh = s.fresh := rfl
@[simp] theorem State.setFld_out (s : State) (off lo w x : Nat) : (s.setFld off lo w x).out = s.out := rfl

@[simp] theorem State.bump_pending (s : State) (off n : Nat) : (s.bump off n).pending = s.pending := rfl
@[simp] theorem State.bump_locks (s : State) (off n : Nat) : (s.bump off n).locks = s.locks := rfl
@[simp] theorem State.bump_profiled (s : State) (off n : Nat) : (s.bump off n).profiled = s.profiled := rfl
@[simp] theorem State.bump_staging (s : State) (off n : Nat) : (s.bump off n).staging = s.staging := rfl
@[simp] theorem State.bump_sram (s : State) (off n : Nat) : (s.bump off n).sram = s.sram := rfl
@[simp] theorem State.bump_hbm (s : State) (off n : Nat) : (s.bump off n).hbm = s.hbm := rfl
@[simp] theorem State.bump_hostMem (s : State) (off n : Nat) : (s.bump off n).hostMem = s.hostMem := rfl
@[simp] theorem State.bump_pages (s : State) (off n : Nat) : (s.bump off n).pages = s.pages := rfl
@[simp] theorem State.bump_scrubPages (s : State) (off n : Nat) : (s.bump off n).scrubPages = s.scrubPages := rfl
@[simp] theorem State.bump_salonGate (s : State) (off n : Nat) : (s.bump off n).salonGate = s.salonGate := rfl
@[simp] theorem State.bump_selfRefresh (s : State) (off n : Nat) : (s.bump off n).selfRefresh = s.selfRefresh := rfl
@[simp] theorem State.bump_cores (s : State) (off n : Nat) : (s.bump off n).cores = s.cores := rfl
@[simp] theorem State.bump_clusters (s : State) (off n : Nat) : (s.bump off n).clusters = s.clusters := rfl
@[simp] theorem State.bump_halls (s : State) (off n : Nat) : (s.bump off n).halls = s.halls := rfl
@[simp] theorem State.bump_tempo (s : State) (off n : Nat) : (s.bump off n).tempo = s.tempo := rfl
@[simp] theorem State.bump_docent (s : State) (off n : Nat) : (s.bump off n).docent = s.docent := rfl
@[simp] theorem State.bump_jobs (s : State) (off n : Nat) : (s.bump off n).jobs = s.jobs := rfl
@[simp] theorem State.bump_scrubs (s : State) (off n : Nat) : (s.bump off n).scrubs = s.scrubs := rfl
@[simp] theorem State.bump_fetches (s : State) (off n : Nat) : (s.bump off n).fetches = s.fetches := rfl
@[simp] theorem State.bump_lastRing (s : State) (off n : Nat) : (s.bump off n).lastRing = s.lastRing := rfl
@[simp] theorem State.bump_coal (s : State) (off n : Nat) : (s.bump off n).coal = s.coal := rfl
@[simp] theorem State.bump_reports (s : State) (off n : Nat) : (s.bump off n).reports = s.reports := rfl
@[simp] theorem State.bump_mbxBusy (s : State) (off n : Nat) : (s.bump off n).mbxBusy = s.mbxBusy := rfl
@[simp] theorem State.bump_ide (s : State) (off n : Nat) : (s.bump off n).ide = s.ide := rfl
@[simp] theorem State.bump_msixTable (s : State) (off n : Nat) : (s.bump off n).msixTable = s.msixTable := rfl
@[simp] theorem State.bump_bar2Size (s : State) (off n : Nat) : (s.bump off n).bar2Size = s.bar2Size := rfl
@[simp] theorem State.bump_cfg (s : State) (off n : Nat) : (s.bump off n).cfg = s.cfg := rfl
@[simp] theorem State.bump_writtenAt (s : State) (off n : Nat) : (s.bump off n).writtenAt = s.writtenAt := rfl
@[simp] theorem State.bump_written (s : State) (off n : Nat) : (s.bump off n).written = s.written := rfl
@[simp] theorem State.bump_keys (s : State) (off n : Nat) : (s.bump off n).keys = s.keys := rfl
@[simp] theorem State.bump_keySlots (s : State) (off n : Nat) : (s.bump off n).keySlots = s.keySlots := rfl
@[simp] theorem State.bump_ended (s : State) (off n : Nat) : (s.bump off n).ended = s.ended := rfl
@[simp] theorem State.bump_sessions (s : State) (off n : Nat) : (s.bump off n).sessions = s.sessions := rfl
@[simp] theorem State.bump_identity (s : State) (off n : Nat) : (s.bump off n).identity = s.identity := rfl
@[simp] theorem State.bump_flash (s : State) (off n : Nat) : (s.bump off n).flash = s.flash := rfl
@[simp] theorem State.bump_links (s : State) (off n : Nat) : (s.bump off n).links = s.links := rfl
@[simp] theorem State.bump_seqTx (s : State) (off n : Nat) : (s.bump off n).seqTx = s.seqTx := rfl
@[simp] theorem State.bump_seqRx (s : State) (off n : Nat) : (s.bump off n).seqRx = s.seqRx := rfl
@[simp] theorem State.bump_statusRx (s : State) (off n : Nat) : (s.bump off n).statusRx = s.statusRx := rfl
@[simp] theorem State.bump_arrivals (s : State) (off n : Nat) : (s.bump off n).arrivals = s.arrivals := rfl
@[simp] theorem State.bump_sent (s : State) (off n : Nat) : (s.bump off n).sent = s.sent := rfl
@[simp] theorem State.bump_xfers (s : State) (off n : Nat) : (s.bump off n).xfers = s.xfers := rfl
@[simp] theorem State.bump_nextXfer (s : State) (off n : Nat) : (s.bump off n).nextXfer = s.nextXfer := rfl
@[simp] theorem State.bump_recoveries (s : State) (off n : Nat) : (s.bump off n).recoveries = s.recoveries := rfl
@[simp] theorem State.bump_history (s : State) (off n : Nat) : (s.bump off n).history = s.history := rfl
@[simp] theorem State.bump_invRun (s : State) (off n : Nat) : (s.bump off n).invRun = s.invRun := rfl
@[simp] theorem State.bump_invHeld (s : State) (off n : Nat) : (s.bump off n).invHeld = s.invHeld := rfl
@[simp] theorem State.bump_invPassed (s : State) (off n : Nat) : (s.bump off n).invPassed = s.invPassed := rfl
@[simp] theorem State.bump_invLast (s : State) (off n : Nat) : (s.bump off n).invLast = s.invLast := rfl
@[simp] theorem State.bump_invStart (s : State) (off n : Nat) : (s.bump off n).invStart = s.invStart := rfl
@[simp] theorem State.bump_invAmps (s : State) (off n : Nat) : (s.bump off n).invAmps = s.invAmps := rfl
@[simp] theorem State.bump_power (s : State) (off n : Nat) : (s.bump off n).power = s.power := rfl
@[simp] theorem State.bump_clampOn (s : State) (off n : Nat) : (s.bump off n).clampOn = s.clampOn := rfl
@[simp] theorem State.bump_pins (s : State) (off n : Nat) : (s.bump off n).pins = s.pins := rfl
@[simp] theorem State.bump_latchCause (s : State) (off n : Nat) : (s.bump off n).latchCause = s.latchCause := rfl
@[simp] theorem State.bump_latched (s : State) (off n : Nat) : (s.bump off n).latched = s.latched := rfl
@[simp] theorem State.bump_latchNews (s : State) (off n : Nat) : (s.bump off n).latchNews = s.latchNews := rfl
@[simp] theorem State.bump_testScope (s : State) (off n : Nat) : (s.bump off n).testScope = s.testScope := rfl
@[simp] theorem State.bump_coolDeb (s : State) (off n : Nat) : (s.bump off n).coolDeb = s.coolDeb := rfl
@[simp] theorem State.bump_leakA (s : State) (off n : Nat) : (s.bump off n).leakA = s.leakA := rfl
@[simp] theorem State.bump_leakB (s : State) (off n : Nat) : (s.bump off n).leakB = s.leakB := rfl
@[simp] theorem State.bump_fuseFast (s : State) (off n : Nat) : (s.bump off n).fuseFast = s.fuseFast := rfl
@[simp] theorem State.bump_vbWait (s : State) (off n : Nat) : (s.bump off n).vbWait = s.vbWait := rfl
@[simp] theorem State.bump_vb (s : State) (off n : Nat) : (s.bump off n).vb = s.vb := rfl
@[simp] theorem State.bump_vbLast (s : State) (off n : Nat) : (s.bump off n).vbLast = s.vbLast := rfl
@[simp] theorem State.bump_vbSource (s : State) (off n : Nat) : (s.bump off n).vbSource = s.vbSource := rfl
@[simp] theorem State.bump_timeSet (s : State) (off n : Nat) : (s.bump off n).timeSet = s.timeSet := rfl
@[simp] theorem State.bump_ppsAt (s : State) (off n : Nat) : (s.bump off n).ppsAt = s.ppsAt := rfl
@[simp] theorem State.bump_phase (s : State) (off n : Nat) : (s.bump off n).phase = s.phase := rfl
@[simp] theorem State.bump_defaultsOn (s : State) (off n : Nat) : (s.bump off n).defaultsOn = s.defaultsOn := rfl
@[simp] theorem State.bump_hclk (s : State) (off n : Nat) : (s.bump off n).hclk = s.hclk := rfl
@[simp] theorem State.bump_fresh (s : State) (off n : Nat) : (s.bump off n).fresh = s.fresh := rfl
@[simp] theorem State.bump_out (s : State) (off n : Nat) : (s.bump off n).out = s.out := rfl

@[simp] theorem State.bumpFld_pending (s : State) (off lo w n : Nat) : (s.bumpFld off lo w n).pending = s.pending := rfl
@[simp] theorem State.bumpFld_locks (s : State) (off lo w n : Nat) : (s.bumpFld off lo w n).locks = s.locks := rfl
@[simp] theorem State.bumpFld_profiled (s : State) (off lo w n : Nat) : (s.bumpFld off lo w n).profiled = s.profiled := rfl
@[simp] theorem State.bumpFld_staging (s : State) (off lo w n : Nat) : (s.bumpFld off lo w n).staging = s.staging := rfl
@[simp] theorem State.bumpFld_sram (s : State) (off lo w n : Nat) : (s.bumpFld off lo w n).sram = s.sram := rfl
@[simp] theorem State.bumpFld_hbm (s : State) (off lo w n : Nat) : (s.bumpFld off lo w n).hbm = s.hbm := rfl
@[simp] theorem State.bumpFld_hostMem (s : State) (off lo w n : Nat) : (s.bumpFld off lo w n).hostMem = s.hostMem := rfl
@[simp] theorem State.bumpFld_pages (s : State) (off lo w n : Nat) : (s.bumpFld off lo w n).pages = s.pages := rfl
@[simp] theorem State.bumpFld_scrubPages (s : State) (off lo w n : Nat) : (s.bumpFld off lo w n).scrubPages = s.scrubPages := rfl
@[simp] theorem State.bumpFld_salonGate (s : State) (off lo w n : Nat) : (s.bumpFld off lo w n).salonGate = s.salonGate := rfl
@[simp] theorem State.bumpFld_selfRefresh (s : State) (off lo w n : Nat) : (s.bumpFld off lo w n).selfRefresh = s.selfRefresh := rfl
@[simp] theorem State.bumpFld_cores (s : State) (off lo w n : Nat) : (s.bumpFld off lo w n).cores = s.cores := rfl
@[simp] theorem State.bumpFld_clusters (s : State) (off lo w n : Nat) : (s.bumpFld off lo w n).clusters = s.clusters := rfl
@[simp] theorem State.bumpFld_halls (s : State) (off lo w n : Nat) : (s.bumpFld off lo w n).halls = s.halls := rfl
@[simp] theorem State.bumpFld_tempo (s : State) (off lo w n : Nat) : (s.bumpFld off lo w n).tempo = s.tempo := rfl
@[simp] theorem State.bumpFld_docent (s : State) (off lo w n : Nat) : (s.bumpFld off lo w n).docent = s.docent := rfl
@[simp] theorem State.bumpFld_jobs (s : State) (off lo w n : Nat) : (s.bumpFld off lo w n).jobs = s.jobs := rfl
@[simp] theorem State.bumpFld_scrubs (s : State) (off lo w n : Nat) : (s.bumpFld off lo w n).scrubs = s.scrubs := rfl
@[simp] theorem State.bumpFld_fetches (s : State) (off lo w n : Nat) : (s.bumpFld off lo w n).fetches = s.fetches := rfl
@[simp] theorem State.bumpFld_lastRing (s : State) (off lo w n : Nat) : (s.bumpFld off lo w n).lastRing = s.lastRing := rfl
@[simp] theorem State.bumpFld_coal (s : State) (off lo w n : Nat) : (s.bumpFld off lo w n).coal = s.coal := rfl
@[simp] theorem State.bumpFld_reports (s : State) (off lo w n : Nat) : (s.bumpFld off lo w n).reports = s.reports := rfl
@[simp] theorem State.bumpFld_mbxBusy (s : State) (off lo w n : Nat) : (s.bumpFld off lo w n).mbxBusy = s.mbxBusy := rfl
@[simp] theorem State.bumpFld_ide (s : State) (off lo w n : Nat) : (s.bumpFld off lo w n).ide = s.ide := rfl
@[simp] theorem State.bumpFld_msixTable (s : State) (off lo w n : Nat) : (s.bumpFld off lo w n).msixTable = s.msixTable := rfl
@[simp] theorem State.bumpFld_bar2Size (s : State) (off lo w n : Nat) : (s.bumpFld off lo w n).bar2Size = s.bar2Size := rfl
@[simp] theorem State.bumpFld_cfg (s : State) (off lo w n : Nat) : (s.bumpFld off lo w n).cfg = s.cfg := rfl
@[simp] theorem State.bumpFld_writtenAt (s : State) (off lo w n : Nat) : (s.bumpFld off lo w n).writtenAt = s.writtenAt := rfl
@[simp] theorem State.bumpFld_written (s : State) (off lo w n : Nat) : (s.bumpFld off lo w n).written = s.written := rfl
@[simp] theorem State.bumpFld_keys (s : State) (off lo w n : Nat) : (s.bumpFld off lo w n).keys = s.keys := rfl
@[simp] theorem State.bumpFld_keySlots (s : State) (off lo w n : Nat) : (s.bumpFld off lo w n).keySlots = s.keySlots := rfl
@[simp] theorem State.bumpFld_ended (s : State) (off lo w n : Nat) : (s.bumpFld off lo w n).ended = s.ended := rfl
@[simp] theorem State.bumpFld_sessions (s : State) (off lo w n : Nat) : (s.bumpFld off lo w n).sessions = s.sessions := rfl
@[simp] theorem State.bumpFld_identity (s : State) (off lo w n : Nat) : (s.bumpFld off lo w n).identity = s.identity := rfl
@[simp] theorem State.bumpFld_flash (s : State) (off lo w n : Nat) : (s.bumpFld off lo w n).flash = s.flash := rfl
@[simp] theorem State.bumpFld_links (s : State) (off lo w n : Nat) : (s.bumpFld off lo w n).links = s.links := rfl
@[simp] theorem State.bumpFld_seqTx (s : State) (off lo w n : Nat) : (s.bumpFld off lo w n).seqTx = s.seqTx := rfl
@[simp] theorem State.bumpFld_seqRx (s : State) (off lo w n : Nat) : (s.bumpFld off lo w n).seqRx = s.seqRx := rfl
@[simp] theorem State.bumpFld_statusRx (s : State) (off lo w n : Nat) : (s.bumpFld off lo w n).statusRx = s.statusRx := rfl
@[simp] theorem State.bumpFld_arrivals (s : State) (off lo w n : Nat) : (s.bumpFld off lo w n).arrivals = s.arrivals := rfl
@[simp] theorem State.bumpFld_sent (s : State) (off lo w n : Nat) : (s.bumpFld off lo w n).sent = s.sent := rfl
@[simp] theorem State.bumpFld_xfers (s : State) (off lo w n : Nat) : (s.bumpFld off lo w n).xfers = s.xfers := rfl
@[simp] theorem State.bumpFld_nextXfer (s : State) (off lo w n : Nat) : (s.bumpFld off lo w n).nextXfer = s.nextXfer := rfl
@[simp] theorem State.bumpFld_recoveries (s : State) (off lo w n : Nat) : (s.bumpFld off lo w n).recoveries = s.recoveries := rfl
@[simp] theorem State.bumpFld_history (s : State) (off lo w n : Nat) : (s.bumpFld off lo w n).history = s.history := rfl
@[simp] theorem State.bumpFld_invRun (s : State) (off lo w n : Nat) : (s.bumpFld off lo w n).invRun = s.invRun := rfl
@[simp] theorem State.bumpFld_invHeld (s : State) (off lo w n : Nat) : (s.bumpFld off lo w n).invHeld = s.invHeld := rfl
@[simp] theorem State.bumpFld_invPassed (s : State) (off lo w n : Nat) : (s.bumpFld off lo w n).invPassed = s.invPassed := rfl
@[simp] theorem State.bumpFld_invLast (s : State) (off lo w n : Nat) : (s.bumpFld off lo w n).invLast = s.invLast := rfl
@[simp] theorem State.bumpFld_invStart (s : State) (off lo w n : Nat) : (s.bumpFld off lo w n).invStart = s.invStart := rfl
@[simp] theorem State.bumpFld_invAmps (s : State) (off lo w n : Nat) : (s.bumpFld off lo w n).invAmps = s.invAmps := rfl
@[simp] theorem State.bumpFld_power (s : State) (off lo w n : Nat) : (s.bumpFld off lo w n).power = s.power := rfl
@[simp] theorem State.bumpFld_clampOn (s : State) (off lo w n : Nat) : (s.bumpFld off lo w n).clampOn = s.clampOn := rfl
@[simp] theorem State.bumpFld_pins (s : State) (off lo w n : Nat) : (s.bumpFld off lo w n).pins = s.pins := rfl
@[simp] theorem State.bumpFld_latchCause (s : State) (off lo w n : Nat) : (s.bumpFld off lo w n).latchCause = s.latchCause := rfl
@[simp] theorem State.bumpFld_latched (s : State) (off lo w n : Nat) : (s.bumpFld off lo w n).latched = s.latched := rfl
@[simp] theorem State.bumpFld_latchNews (s : State) (off lo w n : Nat) : (s.bumpFld off lo w n).latchNews = s.latchNews := rfl
@[simp] theorem State.bumpFld_testScope (s : State) (off lo w n : Nat) : (s.bumpFld off lo w n).testScope = s.testScope := rfl
@[simp] theorem State.bumpFld_coolDeb (s : State) (off lo w n : Nat) : (s.bumpFld off lo w n).coolDeb = s.coolDeb := rfl
@[simp] theorem State.bumpFld_leakA (s : State) (off lo w n : Nat) : (s.bumpFld off lo w n).leakA = s.leakA := rfl
@[simp] theorem State.bumpFld_leakB (s : State) (off lo w n : Nat) : (s.bumpFld off lo w n).leakB = s.leakB := rfl
@[simp] theorem State.bumpFld_fuseFast (s : State) (off lo w n : Nat) : (s.bumpFld off lo w n).fuseFast = s.fuseFast := rfl
@[simp] theorem State.bumpFld_vbWait (s : State) (off lo w n : Nat) : (s.bumpFld off lo w n).vbWait = s.vbWait := rfl
@[simp] theorem State.bumpFld_vb (s : State) (off lo w n : Nat) : (s.bumpFld off lo w n).vb = s.vb := rfl
@[simp] theorem State.bumpFld_vbLast (s : State) (off lo w n : Nat) : (s.bumpFld off lo w n).vbLast = s.vbLast := rfl
@[simp] theorem State.bumpFld_vbSource (s : State) (off lo w n : Nat) : (s.bumpFld off lo w n).vbSource = s.vbSource := rfl
@[simp] theorem State.bumpFld_timeSet (s : State) (off lo w n : Nat) : (s.bumpFld off lo w n).timeSet = s.timeSet := rfl
@[simp] theorem State.bumpFld_ppsAt (s : State) (off lo w n : Nat) : (s.bumpFld off lo w n).ppsAt = s.ppsAt := rfl
@[simp] theorem State.bumpFld_phase (s : State) (off lo w n : Nat) : (s.bumpFld off lo w n).phase = s.phase := rfl
@[simp] theorem State.bumpFld_defaultsOn (s : State) (off lo w n : Nat) : (s.bumpFld off lo w n).defaultsOn = s.defaultsOn := rfl
@[simp] theorem State.bumpFld_hclk (s : State) (off lo w n : Nat) : (s.bumpFld off lo w n).hclk = s.hclk := rfl
@[simp] theorem State.bumpFld_fresh (s : State) (off lo w n : Nat) : (s.bumpFld off lo w n).fresh = s.fresh := rfl
@[simp] theorem State.bumpFld_out (s : State) (off lo w n : Nat) : (s.bumpFld off lo w n).out = s.out := rfl

@[simp] theorem State.setCore_pending (s : State) (n : Nat) (c : CoreSt) : (s.setCore n c).pending = s.pending := rfl
@[simp] theorem State.setCore_reg (s : State) (n : Nat) (c : CoreSt) : (s.setCore n c).reg = s.reg := rfl
@[simp] theorem State.setCore_locks (s : State) (n : Nat) (c : CoreSt) : (s.setCore n c).locks = s.locks := rfl
@[simp] theorem State.setCore_profiled (s : State) (n : Nat) (c : CoreSt) : (s.setCore n c).profiled = s.profiled := rfl
@[simp] theorem State.setCore_staging (s : State) (n : Nat) (c : CoreSt) : (s.setCore n c).staging = s.staging := rfl
@[simp] theorem State.setCore_sram (s : State) (n : Nat) (c : CoreSt) : (s.setCore n c).sram = s.sram := rfl
@[simp] theorem State.setCore_hbm (s : State) (n : Nat) (c : CoreSt) : (s.setCore n c).hbm = s.hbm := rfl
@[simp] theorem State.setCore_hostMem (s : State) (n : Nat) (c : CoreSt) : (s.setCore n c).hostMem = s.hostMem := rfl
@[simp] theorem State.setCore_pages (s : State) (n : Nat) (c : CoreSt) : (s.setCore n c).pages = s.pages := rfl
@[simp] theorem State.setCore_scrubPages (s : State) (n : Nat) (c : CoreSt) : (s.setCore n c).scrubPages = s.scrubPages := rfl
@[simp] theorem State.setCore_salonGate (s : State) (n : Nat) (c : CoreSt) : (s.setCore n c).salonGate = s.salonGate := rfl
@[simp] theorem State.setCore_selfRefresh (s : State) (n : Nat) (c : CoreSt) : (s.setCore n c).selfRefresh = s.selfRefresh := rfl
@[simp] theorem State.setCore_clusters (s : State) (n : Nat) (c : CoreSt) : (s.setCore n c).clusters = s.clusters := rfl
@[simp] theorem State.setCore_halls (s : State) (n : Nat) (c : CoreSt) : (s.setCore n c).halls = s.halls := rfl
@[simp] theorem State.setCore_tempo (s : State) (n : Nat) (c : CoreSt) : (s.setCore n c).tempo = s.tempo := rfl
@[simp] theorem State.setCore_docent (s : State) (n : Nat) (c : CoreSt) : (s.setCore n c).docent = s.docent := rfl
@[simp] theorem State.setCore_jobs (s : State) (n : Nat) (c : CoreSt) : (s.setCore n c).jobs = s.jobs := rfl
@[simp] theorem State.setCore_scrubs (s : State) (n : Nat) (c : CoreSt) : (s.setCore n c).scrubs = s.scrubs := rfl
@[simp] theorem State.setCore_fetches (s : State) (n : Nat) (c : CoreSt) : (s.setCore n c).fetches = s.fetches := rfl
@[simp] theorem State.setCore_lastRing (s : State) (n : Nat) (c : CoreSt) : (s.setCore n c).lastRing = s.lastRing := rfl
@[simp] theorem State.setCore_coal (s : State) (n : Nat) (c : CoreSt) : (s.setCore n c).coal = s.coal := rfl
@[simp] theorem State.setCore_reports (s : State) (n : Nat) (c : CoreSt) : (s.setCore n c).reports = s.reports := rfl
@[simp] theorem State.setCore_mbxBusy (s : State) (n : Nat) (c : CoreSt) : (s.setCore n c).mbxBusy = s.mbxBusy := rfl
@[simp] theorem State.setCore_ide (s : State) (n : Nat) (c : CoreSt) : (s.setCore n c).ide = s.ide := rfl
@[simp] theorem State.setCore_msixTable (s : State) (n : Nat) (c : CoreSt) : (s.setCore n c).msixTable = s.msixTable := rfl
@[simp] theorem State.setCore_bar2Size (s : State) (n : Nat) (c : CoreSt) : (s.setCore n c).bar2Size = s.bar2Size := rfl
@[simp] theorem State.setCore_cfg (s : State) (n : Nat) (c : CoreSt) : (s.setCore n c).cfg = s.cfg := rfl
@[simp] theorem State.setCore_writtenAt (s : State) (n : Nat) (c : CoreSt) : (s.setCore n c).writtenAt = s.writtenAt := rfl
@[simp] theorem State.setCore_written (s : State) (n : Nat) (c : CoreSt) : (s.setCore n c).written = s.written := rfl
@[simp] theorem State.setCore_keys (s : State) (n : Nat) (c : CoreSt) : (s.setCore n c).keys = s.keys := rfl
@[simp] theorem State.setCore_keySlots (s : State) (n : Nat) (c : CoreSt) : (s.setCore n c).keySlots = s.keySlots := rfl
@[simp] theorem State.setCore_ended (s : State) (n : Nat) (c : CoreSt) : (s.setCore n c).ended = s.ended := rfl
@[simp] theorem State.setCore_sessions (s : State) (n : Nat) (c : CoreSt) : (s.setCore n c).sessions = s.sessions := rfl
@[simp] theorem State.setCore_identity (s : State) (n : Nat) (c : CoreSt) : (s.setCore n c).identity = s.identity := rfl
@[simp] theorem State.setCore_flash (s : State) (n : Nat) (c : CoreSt) : (s.setCore n c).flash = s.flash := rfl
@[simp] theorem State.setCore_links (s : State) (n : Nat) (c : CoreSt) : (s.setCore n c).links = s.links := rfl
@[simp] theorem State.setCore_seqTx (s : State) (n : Nat) (c : CoreSt) : (s.setCore n c).seqTx = s.seqTx := rfl
@[simp] theorem State.setCore_seqRx (s : State) (n : Nat) (c : CoreSt) : (s.setCore n c).seqRx = s.seqRx := rfl
@[simp] theorem State.setCore_statusRx (s : State) (n : Nat) (c : CoreSt) : (s.setCore n c).statusRx = s.statusRx := rfl
@[simp] theorem State.setCore_arrivals (s : State) (n : Nat) (c : CoreSt) : (s.setCore n c).arrivals = s.arrivals := rfl
@[simp] theorem State.setCore_sent (s : State) (n : Nat) (c : CoreSt) : (s.setCore n c).sent = s.sent := rfl
@[simp] theorem State.setCore_xfers (s : State) (n : Nat) (c : CoreSt) : (s.setCore n c).xfers = s.xfers := rfl
@[simp] theorem State.setCore_nextXfer (s : State) (n : Nat) (c : CoreSt) : (s.setCore n c).nextXfer = s.nextXfer := rfl
@[simp] theorem State.setCore_recoveries (s : State) (n : Nat) (c : CoreSt) : (s.setCore n c).recoveries = s.recoveries := rfl
@[simp] theorem State.setCore_history (s : State) (n : Nat) (c : CoreSt) : (s.setCore n c).history = s.history := rfl
@[simp] theorem State.setCore_invRun (s : State) (n : Nat) (c : CoreSt) : (s.setCore n c).invRun = s.invRun := rfl
@[simp] theorem State.setCore_invHeld (s : State) (n : Nat) (c : CoreSt) : (s.setCore n c).invHeld = s.invHeld := rfl
@[simp] theorem State.setCore_invPassed (s : State) (n : Nat) (c : CoreSt) : (s.setCore n c).invPassed = s.invPassed := rfl
@[simp] theorem State.setCore_invLast (s : State) (n : Nat) (c : CoreSt) : (s.setCore n c).invLast = s.invLast := rfl
@[simp] theorem State.setCore_invStart (s : State) (n : Nat) (c : CoreSt) : (s.setCore n c).invStart = s.invStart := rfl
@[simp] theorem State.setCore_invAmps (s : State) (n : Nat) (c : CoreSt) : (s.setCore n c).invAmps = s.invAmps := rfl
@[simp] theorem State.setCore_power (s : State) (n : Nat) (c : CoreSt) : (s.setCore n c).power = s.power := rfl
@[simp] theorem State.setCore_clampOn (s : State) (n : Nat) (c : CoreSt) : (s.setCore n c).clampOn = s.clampOn := rfl
@[simp] theorem State.setCore_pins (s : State) (n : Nat) (c : CoreSt) : (s.setCore n c).pins = s.pins := rfl
@[simp] theorem State.setCore_latchCause (s : State) (n : Nat) (c : CoreSt) : (s.setCore n c).latchCause = s.latchCause := rfl
@[simp] theorem State.setCore_latched (s : State) (n : Nat) (c : CoreSt) : (s.setCore n c).latched = s.latched := rfl
@[simp] theorem State.setCore_latchNews (s : State) (n : Nat) (c : CoreSt) : (s.setCore n c).latchNews = s.latchNews := rfl
@[simp] theorem State.setCore_testScope (s : State) (n : Nat) (c : CoreSt) : (s.setCore n c).testScope = s.testScope := rfl
@[simp] theorem State.setCore_coolDeb (s : State) (n : Nat) (c : CoreSt) : (s.setCore n c).coolDeb = s.coolDeb := rfl
@[simp] theorem State.setCore_leakA (s : State) (n : Nat) (c : CoreSt) : (s.setCore n c).leakA = s.leakA := rfl
@[simp] theorem State.setCore_leakB (s : State) (n : Nat) (c : CoreSt) : (s.setCore n c).leakB = s.leakB := rfl
@[simp] theorem State.setCore_fuseFast (s : State) (n : Nat) (c : CoreSt) : (s.setCore n c).fuseFast = s.fuseFast := rfl
@[simp] theorem State.setCore_vbWait (s : State) (n : Nat) (c : CoreSt) : (s.setCore n c).vbWait = s.vbWait := rfl
@[simp] theorem State.setCore_vb (s : State) (n : Nat) (c : CoreSt) : (s.setCore n c).vb = s.vb := rfl
@[simp] theorem State.setCore_vbLast (s : State) (n : Nat) (c : CoreSt) : (s.setCore n c).vbLast = s.vbLast := rfl
@[simp] theorem State.setCore_vbSource (s : State) (n : Nat) (c : CoreSt) : (s.setCore n c).vbSource = s.vbSource := rfl
@[simp] theorem State.setCore_timeSet (s : State) (n : Nat) (c : CoreSt) : (s.setCore n c).timeSet = s.timeSet := rfl
@[simp] theorem State.setCore_ppsAt (s : State) (n : Nat) (c : CoreSt) : (s.setCore n c).ppsAt = s.ppsAt := rfl
@[simp] theorem State.setCore_phase (s : State) (n : Nat) (c : CoreSt) : (s.setCore n c).phase = s.phase := rfl
@[simp] theorem State.setCore_defaultsOn (s : State) (n : Nat) (c : CoreSt) : (s.setCore n c).defaultsOn = s.defaultsOn := rfl
@[simp] theorem State.setCore_hclk (s : State) (n : Nat) (c : CoreSt) : (s.setCore n c).hclk = s.hclk := rfl
@[simp] theorem State.setCore_fresh (s : State) (n : Nat) (c : CoreSt) : (s.setCore n c).fresh = s.fresh := rfl
@[simp] theorem State.setCore_out (s : State) (n : Nat) (c : CoreSt) : (s.setCore n c).out = s.out := rfl

@[simp] theorem State.setCluster_pending (s : State) (n : Nat) (x : ClusterSt) : (s.setCluster n x).pending = s.pending := rfl
@[simp] theorem State.setCluster_reg (s : State) (n : Nat) (x : ClusterSt) : (s.setCluster n x).reg = s.reg := rfl
@[simp] theorem State.setCluster_locks (s : State) (n : Nat) (x : ClusterSt) : (s.setCluster n x).locks = s.locks := rfl
@[simp] theorem State.setCluster_profiled (s : State) (n : Nat) (x : ClusterSt) : (s.setCluster n x).profiled = s.profiled := rfl
@[simp] theorem State.setCluster_staging (s : State) (n : Nat) (x : ClusterSt) : (s.setCluster n x).staging = s.staging := rfl
@[simp] theorem State.setCluster_sram (s : State) (n : Nat) (x : ClusterSt) : (s.setCluster n x).sram = s.sram := rfl
@[simp] theorem State.setCluster_hbm (s : State) (n : Nat) (x : ClusterSt) : (s.setCluster n x).hbm = s.hbm := rfl
@[simp] theorem State.setCluster_hostMem (s : State) (n : Nat) (x : ClusterSt) : (s.setCluster n x).hostMem = s.hostMem := rfl
@[simp] theorem State.setCluster_pages (s : State) (n : Nat) (x : ClusterSt) : (s.setCluster n x).pages = s.pages := rfl
@[simp] theorem State.setCluster_scrubPages (s : State) (n : Nat) (x : ClusterSt) : (s.setCluster n x).scrubPages = s.scrubPages := rfl
@[simp] theorem State.setCluster_salonGate (s : State) (n : Nat) (x : ClusterSt) : (s.setCluster n x).salonGate = s.salonGate := rfl
@[simp] theorem State.setCluster_selfRefresh (s : State) (n : Nat) (x : ClusterSt) : (s.setCluster n x).selfRefresh = s.selfRefresh := rfl
@[simp] theorem State.setCluster_cores (s : State) (n : Nat) (x : ClusterSt) : (s.setCluster n x).cores = s.cores := rfl
@[simp] theorem State.setCluster_halls (s : State) (n : Nat) (x : ClusterSt) : (s.setCluster n x).halls = s.halls := rfl
@[simp] theorem State.setCluster_tempo (s : State) (n : Nat) (x : ClusterSt) : (s.setCluster n x).tempo = s.tempo := rfl
@[simp] theorem State.setCluster_docent (s : State) (n : Nat) (x : ClusterSt) : (s.setCluster n x).docent = s.docent := rfl
@[simp] theorem State.setCluster_jobs (s : State) (n : Nat) (x : ClusterSt) : (s.setCluster n x).jobs = s.jobs := rfl
@[simp] theorem State.setCluster_scrubs (s : State) (n : Nat) (x : ClusterSt) : (s.setCluster n x).scrubs = s.scrubs := rfl
@[simp] theorem State.setCluster_fetches (s : State) (n : Nat) (x : ClusterSt) : (s.setCluster n x).fetches = s.fetches := rfl
@[simp] theorem State.setCluster_lastRing (s : State) (n : Nat) (x : ClusterSt) : (s.setCluster n x).lastRing = s.lastRing := rfl
@[simp] theorem State.setCluster_coal (s : State) (n : Nat) (x : ClusterSt) : (s.setCluster n x).coal = s.coal := rfl
@[simp] theorem State.setCluster_reports (s : State) (n : Nat) (x : ClusterSt) : (s.setCluster n x).reports = s.reports := rfl
@[simp] theorem State.setCluster_mbxBusy (s : State) (n : Nat) (x : ClusterSt) : (s.setCluster n x).mbxBusy = s.mbxBusy := rfl
@[simp] theorem State.setCluster_ide (s : State) (n : Nat) (x : ClusterSt) : (s.setCluster n x).ide = s.ide := rfl
@[simp] theorem State.setCluster_msixTable (s : State) (n : Nat) (x : ClusterSt) : (s.setCluster n x).msixTable = s.msixTable := rfl
@[simp] theorem State.setCluster_bar2Size (s : State) (n : Nat) (x : ClusterSt) : (s.setCluster n x).bar2Size = s.bar2Size := rfl
@[simp] theorem State.setCluster_cfg (s : State) (n : Nat) (x : ClusterSt) : (s.setCluster n x).cfg = s.cfg := rfl
@[simp] theorem State.setCluster_writtenAt (s : State) (n : Nat) (x : ClusterSt) : (s.setCluster n x).writtenAt = s.writtenAt := rfl
@[simp] theorem State.setCluster_written (s : State) (n : Nat) (x : ClusterSt) : (s.setCluster n x).written = s.written := rfl
@[simp] theorem State.setCluster_keys (s : State) (n : Nat) (x : ClusterSt) : (s.setCluster n x).keys = s.keys := rfl
@[simp] theorem State.setCluster_keySlots (s : State) (n : Nat) (x : ClusterSt) : (s.setCluster n x).keySlots = s.keySlots := rfl
@[simp] theorem State.setCluster_ended (s : State) (n : Nat) (x : ClusterSt) : (s.setCluster n x).ended = s.ended := rfl
@[simp] theorem State.setCluster_sessions (s : State) (n : Nat) (x : ClusterSt) : (s.setCluster n x).sessions = s.sessions := rfl
@[simp] theorem State.setCluster_identity (s : State) (n : Nat) (x : ClusterSt) : (s.setCluster n x).identity = s.identity := rfl
@[simp] theorem State.setCluster_flash (s : State) (n : Nat) (x : ClusterSt) : (s.setCluster n x).flash = s.flash := rfl
@[simp] theorem State.setCluster_links (s : State) (n : Nat) (x : ClusterSt) : (s.setCluster n x).links = s.links := rfl
@[simp] theorem State.setCluster_seqTx (s : State) (n : Nat) (x : ClusterSt) : (s.setCluster n x).seqTx = s.seqTx := rfl
@[simp] theorem State.setCluster_seqRx (s : State) (n : Nat) (x : ClusterSt) : (s.setCluster n x).seqRx = s.seqRx := rfl
@[simp] theorem State.setCluster_statusRx (s : State) (n : Nat) (x : ClusterSt) : (s.setCluster n x).statusRx = s.statusRx := rfl
@[simp] theorem State.setCluster_arrivals (s : State) (n : Nat) (x : ClusterSt) : (s.setCluster n x).arrivals = s.arrivals := rfl
@[simp] theorem State.setCluster_sent (s : State) (n : Nat) (x : ClusterSt) : (s.setCluster n x).sent = s.sent := rfl
@[simp] theorem State.setCluster_xfers (s : State) (n : Nat) (x : ClusterSt) : (s.setCluster n x).xfers = s.xfers := rfl
@[simp] theorem State.setCluster_nextXfer (s : State) (n : Nat) (x : ClusterSt) : (s.setCluster n x).nextXfer = s.nextXfer := rfl
@[simp] theorem State.setCluster_recoveries (s : State) (n : Nat) (x : ClusterSt) : (s.setCluster n x).recoveries = s.recoveries := rfl
@[simp] theorem State.setCluster_history (s : State) (n : Nat) (x : ClusterSt) : (s.setCluster n x).history = s.history := rfl
@[simp] theorem State.setCluster_invRun (s : State) (n : Nat) (x : ClusterSt) : (s.setCluster n x).invRun = s.invRun := rfl
@[simp] theorem State.setCluster_invHeld (s : State) (n : Nat) (x : ClusterSt) : (s.setCluster n x).invHeld = s.invHeld := rfl
@[simp] theorem State.setCluster_invPassed (s : State) (n : Nat) (x : ClusterSt) : (s.setCluster n x).invPassed = s.invPassed := rfl
@[simp] theorem State.setCluster_invLast (s : State) (n : Nat) (x : ClusterSt) : (s.setCluster n x).invLast = s.invLast := rfl
@[simp] theorem State.setCluster_invStart (s : State) (n : Nat) (x : ClusterSt) : (s.setCluster n x).invStart = s.invStart := rfl
@[simp] theorem State.setCluster_invAmps (s : State) (n : Nat) (x : ClusterSt) : (s.setCluster n x).invAmps = s.invAmps := rfl
@[simp] theorem State.setCluster_power (s : State) (n : Nat) (x : ClusterSt) : (s.setCluster n x).power = s.power := rfl
@[simp] theorem State.setCluster_clampOn (s : State) (n : Nat) (x : ClusterSt) : (s.setCluster n x).clampOn = s.clampOn := rfl
@[simp] theorem State.setCluster_pins (s : State) (n : Nat) (x : ClusterSt) : (s.setCluster n x).pins = s.pins := rfl
@[simp] theorem State.setCluster_latchCause (s : State) (n : Nat) (x : ClusterSt) : (s.setCluster n x).latchCause = s.latchCause := rfl
@[simp] theorem State.setCluster_latched (s : State) (n : Nat) (x : ClusterSt) : (s.setCluster n x).latched = s.latched := rfl
@[simp] theorem State.setCluster_latchNews (s : State) (n : Nat) (x : ClusterSt) : (s.setCluster n x).latchNews = s.latchNews := rfl
@[simp] theorem State.setCluster_testScope (s : State) (n : Nat) (x : ClusterSt) : (s.setCluster n x).testScope = s.testScope := rfl
@[simp] theorem State.setCluster_coolDeb (s : State) (n : Nat) (x : ClusterSt) : (s.setCluster n x).coolDeb = s.coolDeb := rfl
@[simp] theorem State.setCluster_leakA (s : State) (n : Nat) (x : ClusterSt) : (s.setCluster n x).leakA = s.leakA := rfl
@[simp] theorem State.setCluster_leakB (s : State) (n : Nat) (x : ClusterSt) : (s.setCluster n x).leakB = s.leakB := rfl
@[simp] theorem State.setCluster_fuseFast (s : State) (n : Nat) (x : ClusterSt) : (s.setCluster n x).fuseFast = s.fuseFast := rfl
@[simp] theorem State.setCluster_vbWait (s : State) (n : Nat) (x : ClusterSt) : (s.setCluster n x).vbWait = s.vbWait := rfl
@[simp] theorem State.setCluster_vb (s : State) (n : Nat) (x : ClusterSt) : (s.setCluster n x).vb = s.vb := rfl
@[simp] theorem State.setCluster_vbLast (s : State) (n : Nat) (x : ClusterSt) : (s.setCluster n x).vbLast = s.vbLast := rfl
@[simp] theorem State.setCluster_vbSource (s : State) (n : Nat) (x : ClusterSt) : (s.setCluster n x).vbSource = s.vbSource := rfl
@[simp] theorem State.setCluster_timeSet (s : State) (n : Nat) (x : ClusterSt) : (s.setCluster n x).timeSet = s.timeSet := rfl
@[simp] theorem State.setCluster_ppsAt (s : State) (n : Nat) (x : ClusterSt) : (s.setCluster n x).ppsAt = s.ppsAt := rfl
@[simp] theorem State.setCluster_phase (s : State) (n : Nat) (x : ClusterSt) : (s.setCluster n x).phase = s.phase := rfl
@[simp] theorem State.setCluster_defaultsOn (s : State) (n : Nat) (x : ClusterSt) : (s.setCluster n x).defaultsOn = s.defaultsOn := rfl
@[simp] theorem State.setCluster_hclk (s : State) (n : Nat) (x : ClusterSt) : (s.setCluster n x).hclk = s.hclk := rfl
@[simp] theorem State.setCluster_fresh (s : State) (n : Nat) (x : ClusterSt) : (s.setCluster n x).fresh = s.fresh := rfl
@[simp] theorem State.setCluster_out (s : State) (n : Nat) (x : ClusterSt) : (s.setCluster n x).out = s.out := rfl

@[simp] theorem State.setHall_pending (s : State) (n : Nat) (x : HallSt) : (s.setHall n x).pending = s.pending := rfl
@[simp] theorem State.setHall_reg (s : State) (n : Nat) (x : HallSt) : (s.setHall n x).reg = s.reg := rfl
@[simp] theorem State.setHall_locks (s : State) (n : Nat) (x : HallSt) : (s.setHall n x).locks = s.locks := rfl
@[simp] theorem State.setHall_profiled (s : State) (n : Nat) (x : HallSt) : (s.setHall n x).profiled = s.profiled := rfl
@[simp] theorem State.setHall_staging (s : State) (n : Nat) (x : HallSt) : (s.setHall n x).staging = s.staging := rfl
@[simp] theorem State.setHall_sram (s : State) (n : Nat) (x : HallSt) : (s.setHall n x).sram = s.sram := rfl
@[simp] theorem State.setHall_hbm (s : State) (n : Nat) (x : HallSt) : (s.setHall n x).hbm = s.hbm := rfl
@[simp] theorem State.setHall_hostMem (s : State) (n : Nat) (x : HallSt) : (s.setHall n x).hostMem = s.hostMem := rfl
@[simp] theorem State.setHall_pages (s : State) (n : Nat) (x : HallSt) : (s.setHall n x).pages = s.pages := rfl
@[simp] theorem State.setHall_scrubPages (s : State) (n : Nat) (x : HallSt) : (s.setHall n x).scrubPages = s.scrubPages := rfl
@[simp] theorem State.setHall_salonGate (s : State) (n : Nat) (x : HallSt) : (s.setHall n x).salonGate = s.salonGate := rfl
@[simp] theorem State.setHall_selfRefresh (s : State) (n : Nat) (x : HallSt) : (s.setHall n x).selfRefresh = s.selfRefresh := rfl
@[simp] theorem State.setHall_cores (s : State) (n : Nat) (x : HallSt) : (s.setHall n x).cores = s.cores := rfl
@[simp] theorem State.setHall_clusters (s : State) (n : Nat) (x : HallSt) : (s.setHall n x).clusters = s.clusters := rfl
@[simp] theorem State.setHall_tempo (s : State) (n : Nat) (x : HallSt) : (s.setHall n x).tempo = s.tempo := rfl
@[simp] theorem State.setHall_docent (s : State) (n : Nat) (x : HallSt) : (s.setHall n x).docent = s.docent := rfl
@[simp] theorem State.setHall_jobs (s : State) (n : Nat) (x : HallSt) : (s.setHall n x).jobs = s.jobs := rfl
@[simp] theorem State.setHall_scrubs (s : State) (n : Nat) (x : HallSt) : (s.setHall n x).scrubs = s.scrubs := rfl
@[simp] theorem State.setHall_fetches (s : State) (n : Nat) (x : HallSt) : (s.setHall n x).fetches = s.fetches := rfl
@[simp] theorem State.setHall_lastRing (s : State) (n : Nat) (x : HallSt) : (s.setHall n x).lastRing = s.lastRing := rfl
@[simp] theorem State.setHall_coal (s : State) (n : Nat) (x : HallSt) : (s.setHall n x).coal = s.coal := rfl
@[simp] theorem State.setHall_reports (s : State) (n : Nat) (x : HallSt) : (s.setHall n x).reports = s.reports := rfl
@[simp] theorem State.setHall_mbxBusy (s : State) (n : Nat) (x : HallSt) : (s.setHall n x).mbxBusy = s.mbxBusy := rfl
@[simp] theorem State.setHall_ide (s : State) (n : Nat) (x : HallSt) : (s.setHall n x).ide = s.ide := rfl
@[simp] theorem State.setHall_msixTable (s : State) (n : Nat) (x : HallSt) : (s.setHall n x).msixTable = s.msixTable := rfl
@[simp] theorem State.setHall_bar2Size (s : State) (n : Nat) (x : HallSt) : (s.setHall n x).bar2Size = s.bar2Size := rfl
@[simp] theorem State.setHall_cfg (s : State) (n : Nat) (x : HallSt) : (s.setHall n x).cfg = s.cfg := rfl
@[simp] theorem State.setHall_writtenAt (s : State) (n : Nat) (x : HallSt) : (s.setHall n x).writtenAt = s.writtenAt := rfl
@[simp] theorem State.setHall_written (s : State) (n : Nat) (x : HallSt) : (s.setHall n x).written = s.written := rfl
@[simp] theorem State.setHall_keys (s : State) (n : Nat) (x : HallSt) : (s.setHall n x).keys = s.keys := rfl
@[simp] theorem State.setHall_keySlots (s : State) (n : Nat) (x : HallSt) : (s.setHall n x).keySlots = s.keySlots := rfl
@[simp] theorem State.setHall_ended (s : State) (n : Nat) (x : HallSt) : (s.setHall n x).ended = s.ended := rfl
@[simp] theorem State.setHall_sessions (s : State) (n : Nat) (x : HallSt) : (s.setHall n x).sessions = s.sessions := rfl
@[simp] theorem State.setHall_identity (s : State) (n : Nat) (x : HallSt) : (s.setHall n x).identity = s.identity := rfl
@[simp] theorem State.setHall_flash (s : State) (n : Nat) (x : HallSt) : (s.setHall n x).flash = s.flash := rfl
@[simp] theorem State.setHall_links (s : State) (n : Nat) (x : HallSt) : (s.setHall n x).links = s.links := rfl
@[simp] theorem State.setHall_seqTx (s : State) (n : Nat) (x : HallSt) : (s.setHall n x).seqTx = s.seqTx := rfl
@[simp] theorem State.setHall_seqRx (s : State) (n : Nat) (x : HallSt) : (s.setHall n x).seqRx = s.seqRx := rfl
@[simp] theorem State.setHall_statusRx (s : State) (n : Nat) (x : HallSt) : (s.setHall n x).statusRx = s.statusRx := rfl
@[simp] theorem State.setHall_arrivals (s : State) (n : Nat) (x : HallSt) : (s.setHall n x).arrivals = s.arrivals := rfl
@[simp] theorem State.setHall_sent (s : State) (n : Nat) (x : HallSt) : (s.setHall n x).sent = s.sent := rfl
@[simp] theorem State.setHall_xfers (s : State) (n : Nat) (x : HallSt) : (s.setHall n x).xfers = s.xfers := rfl
@[simp] theorem State.setHall_nextXfer (s : State) (n : Nat) (x : HallSt) : (s.setHall n x).nextXfer = s.nextXfer := rfl
@[simp] theorem State.setHall_recoveries (s : State) (n : Nat) (x : HallSt) : (s.setHall n x).recoveries = s.recoveries := rfl
@[simp] theorem State.setHall_history (s : State) (n : Nat) (x : HallSt) : (s.setHall n x).history = s.history := rfl
@[simp] theorem State.setHall_invRun (s : State) (n : Nat) (x : HallSt) : (s.setHall n x).invRun = s.invRun := rfl
@[simp] theorem State.setHall_invHeld (s : State) (n : Nat) (x : HallSt) : (s.setHall n x).invHeld = s.invHeld := rfl
@[simp] theorem State.setHall_invPassed (s : State) (n : Nat) (x : HallSt) : (s.setHall n x).invPassed = s.invPassed := rfl
@[simp] theorem State.setHall_invLast (s : State) (n : Nat) (x : HallSt) : (s.setHall n x).invLast = s.invLast := rfl
@[simp] theorem State.setHall_invStart (s : State) (n : Nat) (x : HallSt) : (s.setHall n x).invStart = s.invStart := rfl
@[simp] theorem State.setHall_invAmps (s : State) (n : Nat) (x : HallSt) : (s.setHall n x).invAmps = s.invAmps := rfl
@[simp] theorem State.setHall_power (s : State) (n : Nat) (x : HallSt) : (s.setHall n x).power = s.power := rfl
@[simp] theorem State.setHall_clampOn (s : State) (n : Nat) (x : HallSt) : (s.setHall n x).clampOn = s.clampOn := rfl
@[simp] theorem State.setHall_pins (s : State) (n : Nat) (x : HallSt) : (s.setHall n x).pins = s.pins := rfl
@[simp] theorem State.setHall_latchCause (s : State) (n : Nat) (x : HallSt) : (s.setHall n x).latchCause = s.latchCause := rfl
@[simp] theorem State.setHall_latched (s : State) (n : Nat) (x : HallSt) : (s.setHall n x).latched = s.latched := rfl
@[simp] theorem State.setHall_latchNews (s : State) (n : Nat) (x : HallSt) : (s.setHall n x).latchNews = s.latchNews := rfl
@[simp] theorem State.setHall_testScope (s : State) (n : Nat) (x : HallSt) : (s.setHall n x).testScope = s.testScope := rfl
@[simp] theorem State.setHall_coolDeb (s : State) (n : Nat) (x : HallSt) : (s.setHall n x).coolDeb = s.coolDeb := rfl
@[simp] theorem State.setHall_leakA (s : State) (n : Nat) (x : HallSt) : (s.setHall n x).leakA = s.leakA := rfl
@[simp] theorem State.setHall_leakB (s : State) (n : Nat) (x : HallSt) : (s.setHall n x).leakB = s.leakB := rfl
@[simp] theorem State.setHall_fuseFast (s : State) (n : Nat) (x : HallSt) : (s.setHall n x).fuseFast = s.fuseFast := rfl
@[simp] theorem State.setHall_vbWait (s : State) (n : Nat) (x : HallSt) : (s.setHall n x).vbWait = s.vbWait := rfl
@[simp] theorem State.setHall_vb (s : State) (n : Nat) (x : HallSt) : (s.setHall n x).vb = s.vb := rfl
@[simp] theorem State.setHall_vbLast (s : State) (n : Nat) (x : HallSt) : (s.setHall n x).vbLast = s.vbLast := rfl
@[simp] theorem State.setHall_vbSource (s : State) (n : Nat) (x : HallSt) : (s.setHall n x).vbSource = s.vbSource := rfl
@[simp] theorem State.setHall_timeSet (s : State) (n : Nat) (x : HallSt) : (s.setHall n x).timeSet = s.timeSet := rfl
@[simp] theorem State.setHall_ppsAt (s : State) (n : Nat) (x : HallSt) : (s.setHall n x).ppsAt = s.ppsAt := rfl
@[simp] theorem State.setHall_phase (s : State) (n : Nat) (x : HallSt) : (s.setHall n x).phase = s.phase := rfl
@[simp] theorem State.setHall_defaultsOn (s : State) (n : Nat) (x : HallSt) : (s.setHall n x).defaultsOn = s.defaultsOn := rfl
@[simp] theorem State.setHall_hclk (s : State) (n : Nat) (x : HallSt) : (s.setHall n x).hclk = s.hclk := rfl
@[simp] theorem State.setHall_fresh (s : State) (n : Nat) (x : HallSt) : (s.setHall n x).fresh = s.fresh := rfl
@[simp] theorem State.setHall_out (s : State) (n : Nat) (x : HallSt) : (s.setHall n x).out = s.out := rfl

@[simp] theorem State.setTempoX_pending (s : State) (n : Nat) (x : TempoX) : (s.setTempoX n x).pending = s.pending := rfl
@[simp] theorem State.setTempoX_reg (s : State) (n : Nat) (x : TempoX) : (s.setTempoX n x).reg = s.reg := rfl
@[simp] theorem State.setTempoX_locks (s : State) (n : Nat) (x : TempoX) : (s.setTempoX n x).locks = s.locks := rfl
@[simp] theorem State.setTempoX_profiled (s : State) (n : Nat) (x : TempoX) : (s.setTempoX n x).profiled = s.profiled := rfl
@[simp] theorem State.setTempoX_staging (s : State) (n : Nat) (x : TempoX) : (s.setTempoX n x).staging = s.staging := rfl
@[simp] theorem State.setTempoX_sram (s : State) (n : Nat) (x : TempoX) : (s.setTempoX n x).sram = s.sram := rfl
@[simp] theorem State.setTempoX_hbm (s : State) (n : Nat) (x : TempoX) : (s.setTempoX n x).hbm = s.hbm := rfl
@[simp] theorem State.setTempoX_hostMem (s : State) (n : Nat) (x : TempoX) : (s.setTempoX n x).hostMem = s.hostMem := rfl
@[simp] theorem State.setTempoX_pages (s : State) (n : Nat) (x : TempoX) : (s.setTempoX n x).pages = s.pages := rfl
@[simp] theorem State.setTempoX_scrubPages (s : State) (n : Nat) (x : TempoX) : (s.setTempoX n x).scrubPages = s.scrubPages := rfl
@[simp] theorem State.setTempoX_salonGate (s : State) (n : Nat) (x : TempoX) : (s.setTempoX n x).salonGate = s.salonGate := rfl
@[simp] theorem State.setTempoX_selfRefresh (s : State) (n : Nat) (x : TempoX) : (s.setTempoX n x).selfRefresh = s.selfRefresh := rfl
@[simp] theorem State.setTempoX_cores (s : State) (n : Nat) (x : TempoX) : (s.setTempoX n x).cores = s.cores := rfl
@[simp] theorem State.setTempoX_clusters (s : State) (n : Nat) (x : TempoX) : (s.setTempoX n x).clusters = s.clusters := rfl
@[simp] theorem State.setTempoX_halls (s : State) (n : Nat) (x : TempoX) : (s.setTempoX n x).halls = s.halls := rfl
@[simp] theorem State.setTempoX_docent (s : State) (n : Nat) (x : TempoX) : (s.setTempoX n x).docent = s.docent := rfl
@[simp] theorem State.setTempoX_jobs (s : State) (n : Nat) (x : TempoX) : (s.setTempoX n x).jobs = s.jobs := rfl
@[simp] theorem State.setTempoX_scrubs (s : State) (n : Nat) (x : TempoX) : (s.setTempoX n x).scrubs = s.scrubs := rfl
@[simp] theorem State.setTempoX_fetches (s : State) (n : Nat) (x : TempoX) : (s.setTempoX n x).fetches = s.fetches := rfl
@[simp] theorem State.setTempoX_lastRing (s : State) (n : Nat) (x : TempoX) : (s.setTempoX n x).lastRing = s.lastRing := rfl
@[simp] theorem State.setTempoX_coal (s : State) (n : Nat) (x : TempoX) : (s.setTempoX n x).coal = s.coal := rfl
@[simp] theorem State.setTempoX_reports (s : State) (n : Nat) (x : TempoX) : (s.setTempoX n x).reports = s.reports := rfl
@[simp] theorem State.setTempoX_mbxBusy (s : State) (n : Nat) (x : TempoX) : (s.setTempoX n x).mbxBusy = s.mbxBusy := rfl
@[simp] theorem State.setTempoX_ide (s : State) (n : Nat) (x : TempoX) : (s.setTempoX n x).ide = s.ide := rfl
@[simp] theorem State.setTempoX_msixTable (s : State) (n : Nat) (x : TempoX) : (s.setTempoX n x).msixTable = s.msixTable := rfl
@[simp] theorem State.setTempoX_bar2Size (s : State) (n : Nat) (x : TempoX) : (s.setTempoX n x).bar2Size = s.bar2Size := rfl
@[simp] theorem State.setTempoX_cfg (s : State) (n : Nat) (x : TempoX) : (s.setTempoX n x).cfg = s.cfg := rfl
@[simp] theorem State.setTempoX_writtenAt (s : State) (n : Nat) (x : TempoX) : (s.setTempoX n x).writtenAt = s.writtenAt := rfl
@[simp] theorem State.setTempoX_written (s : State) (n : Nat) (x : TempoX) : (s.setTempoX n x).written = s.written := rfl
@[simp] theorem State.setTempoX_keys (s : State) (n : Nat) (x : TempoX) : (s.setTempoX n x).keys = s.keys := rfl
@[simp] theorem State.setTempoX_keySlots (s : State) (n : Nat) (x : TempoX) : (s.setTempoX n x).keySlots = s.keySlots := rfl
@[simp] theorem State.setTempoX_ended (s : State) (n : Nat) (x : TempoX) : (s.setTempoX n x).ended = s.ended := rfl
@[simp] theorem State.setTempoX_sessions (s : State) (n : Nat) (x : TempoX) : (s.setTempoX n x).sessions = s.sessions := rfl
@[simp] theorem State.setTempoX_identity (s : State) (n : Nat) (x : TempoX) : (s.setTempoX n x).identity = s.identity := rfl
@[simp] theorem State.setTempoX_flash (s : State) (n : Nat) (x : TempoX) : (s.setTempoX n x).flash = s.flash := rfl
@[simp] theorem State.setTempoX_links (s : State) (n : Nat) (x : TempoX) : (s.setTempoX n x).links = s.links := rfl
@[simp] theorem State.setTempoX_seqTx (s : State) (n : Nat) (x : TempoX) : (s.setTempoX n x).seqTx = s.seqTx := rfl
@[simp] theorem State.setTempoX_seqRx (s : State) (n : Nat) (x : TempoX) : (s.setTempoX n x).seqRx = s.seqRx := rfl
@[simp] theorem State.setTempoX_statusRx (s : State) (n : Nat) (x : TempoX) : (s.setTempoX n x).statusRx = s.statusRx := rfl
@[simp] theorem State.setTempoX_arrivals (s : State) (n : Nat) (x : TempoX) : (s.setTempoX n x).arrivals = s.arrivals := rfl
@[simp] theorem State.setTempoX_sent (s : State) (n : Nat) (x : TempoX) : (s.setTempoX n x).sent = s.sent := rfl
@[simp] theorem State.setTempoX_xfers (s : State) (n : Nat) (x : TempoX) : (s.setTempoX n x).xfers = s.xfers := rfl
@[simp] theorem State.setTempoX_nextXfer (s : State) (n : Nat) (x : TempoX) : (s.setTempoX n x).nextXfer = s.nextXfer := rfl
@[simp] theorem State.setTempoX_recoveries (s : State) (n : Nat) (x : TempoX) : (s.setTempoX n x).recoveries = s.recoveries := rfl
@[simp] theorem State.setTempoX_history (s : State) (n : Nat) (x : TempoX) : (s.setTempoX n x).history = s.history := rfl
@[simp] theorem State.setTempoX_invRun (s : State) (n : Nat) (x : TempoX) : (s.setTempoX n x).invRun = s.invRun := rfl
@[simp] theorem State.setTempoX_invHeld (s : State) (n : Nat) (x : TempoX) : (s.setTempoX n x).invHeld = s.invHeld := rfl
@[simp] theorem State.setTempoX_invPassed (s : State) (n : Nat) (x : TempoX) : (s.setTempoX n x).invPassed = s.invPassed := rfl
@[simp] theorem State.setTempoX_invLast (s : State) (n : Nat) (x : TempoX) : (s.setTempoX n x).invLast = s.invLast := rfl
@[simp] theorem State.setTempoX_invStart (s : State) (n : Nat) (x : TempoX) : (s.setTempoX n x).invStart = s.invStart := rfl
@[simp] theorem State.setTempoX_invAmps (s : State) (n : Nat) (x : TempoX) : (s.setTempoX n x).invAmps = s.invAmps := rfl
@[simp] theorem State.setTempoX_power (s : State) (n : Nat) (x : TempoX) : (s.setTempoX n x).power = s.power := rfl
@[simp] theorem State.setTempoX_clampOn (s : State) (n : Nat) (x : TempoX) : (s.setTempoX n x).clampOn = s.clampOn := rfl
@[simp] theorem State.setTempoX_pins (s : State) (n : Nat) (x : TempoX) : (s.setTempoX n x).pins = s.pins := rfl
@[simp] theorem State.setTempoX_latchCause (s : State) (n : Nat) (x : TempoX) : (s.setTempoX n x).latchCause = s.latchCause := rfl
@[simp] theorem State.setTempoX_latched (s : State) (n : Nat) (x : TempoX) : (s.setTempoX n x).latched = s.latched := rfl
@[simp] theorem State.setTempoX_latchNews (s : State) (n : Nat) (x : TempoX) : (s.setTempoX n x).latchNews = s.latchNews := rfl
@[simp] theorem State.setTempoX_testScope (s : State) (n : Nat) (x : TempoX) : (s.setTempoX n x).testScope = s.testScope := rfl
@[simp] theorem State.setTempoX_coolDeb (s : State) (n : Nat) (x : TempoX) : (s.setTempoX n x).coolDeb = s.coolDeb := rfl
@[simp] theorem State.setTempoX_leakA (s : State) (n : Nat) (x : TempoX) : (s.setTempoX n x).leakA = s.leakA := rfl
@[simp] theorem State.setTempoX_leakB (s : State) (n : Nat) (x : TempoX) : (s.setTempoX n x).leakB = s.leakB := rfl
@[simp] theorem State.setTempoX_fuseFast (s : State) (n : Nat) (x : TempoX) : (s.setTempoX n x).fuseFast = s.fuseFast := rfl
@[simp] theorem State.setTempoX_vbWait (s : State) (n : Nat) (x : TempoX) : (s.setTempoX n x).vbWait = s.vbWait := rfl
@[simp] theorem State.setTempoX_vb (s : State) (n : Nat) (x : TempoX) : (s.setTempoX n x).vb = s.vb := rfl
@[simp] theorem State.setTempoX_vbLast (s : State) (n : Nat) (x : TempoX) : (s.setTempoX n x).vbLast = s.vbLast := rfl
@[simp] theorem State.setTempoX_vbSource (s : State) (n : Nat) (x : TempoX) : (s.setTempoX n x).vbSource = s.vbSource := rfl
@[simp] theorem State.setTempoX_timeSet (s : State) (n : Nat) (x : TempoX) : (s.setTempoX n x).timeSet = s.timeSet := rfl
@[simp] theorem State.setTempoX_ppsAt (s : State) (n : Nat) (x : TempoX) : (s.setTempoX n x).ppsAt = s.ppsAt := rfl
@[simp] theorem State.setTempoX_phase (s : State) (n : Nat) (x : TempoX) : (s.setTempoX n x).phase = s.phase := rfl
@[simp] theorem State.setTempoX_defaultsOn (s : State) (n : Nat) (x : TempoX) : (s.setTempoX n x).defaultsOn = s.defaultsOn := rfl
@[simp] theorem State.setTempoX_hclk (s : State) (n : Nat) (x : TempoX) : (s.setTempoX n x).hclk = s.hclk := rfl
@[simp] theorem State.setTempoX_fresh (s : State) (n : Nat) (x : TempoX) : (s.setTempoX n x).fresh = s.fresh := rfl
@[simp] theorem State.setTempoX_out (s : State) (n : Nat) (x : TempoX) : (s.setTempoX n x).out = s.out := rfl

@[simp] theorem State.setDocX_pending (s : State) (n : Nat) (x : DocX) : (s.setDocX n x).pending = s.pending := rfl
@[simp] theorem State.setDocX_reg (s : State) (n : Nat) (x : DocX) : (s.setDocX n x).reg = s.reg := rfl
@[simp] theorem State.setDocX_locks (s : State) (n : Nat) (x : DocX) : (s.setDocX n x).locks = s.locks := rfl
@[simp] theorem State.setDocX_profiled (s : State) (n : Nat) (x : DocX) : (s.setDocX n x).profiled = s.profiled := rfl
@[simp] theorem State.setDocX_staging (s : State) (n : Nat) (x : DocX) : (s.setDocX n x).staging = s.staging := rfl
@[simp] theorem State.setDocX_sram (s : State) (n : Nat) (x : DocX) : (s.setDocX n x).sram = s.sram := rfl
@[simp] theorem State.setDocX_hbm (s : State) (n : Nat) (x : DocX) : (s.setDocX n x).hbm = s.hbm := rfl
@[simp] theorem State.setDocX_hostMem (s : State) (n : Nat) (x : DocX) : (s.setDocX n x).hostMem = s.hostMem := rfl
@[simp] theorem State.setDocX_pages (s : State) (n : Nat) (x : DocX) : (s.setDocX n x).pages = s.pages := rfl
@[simp] theorem State.setDocX_scrubPages (s : State) (n : Nat) (x : DocX) : (s.setDocX n x).scrubPages = s.scrubPages := rfl
@[simp] theorem State.setDocX_salonGate (s : State) (n : Nat) (x : DocX) : (s.setDocX n x).salonGate = s.salonGate := rfl
@[simp] theorem State.setDocX_selfRefresh (s : State) (n : Nat) (x : DocX) : (s.setDocX n x).selfRefresh = s.selfRefresh := rfl
@[simp] theorem State.setDocX_cores (s : State) (n : Nat) (x : DocX) : (s.setDocX n x).cores = s.cores := rfl
@[simp] theorem State.setDocX_clusters (s : State) (n : Nat) (x : DocX) : (s.setDocX n x).clusters = s.clusters := rfl
@[simp] theorem State.setDocX_halls (s : State) (n : Nat) (x : DocX) : (s.setDocX n x).halls = s.halls := rfl
@[simp] theorem State.setDocX_tempo (s : State) (n : Nat) (x : DocX) : (s.setDocX n x).tempo = s.tempo := rfl
@[simp] theorem State.setDocX_jobs (s : State) (n : Nat) (x : DocX) : (s.setDocX n x).jobs = s.jobs := rfl
@[simp] theorem State.setDocX_scrubs (s : State) (n : Nat) (x : DocX) : (s.setDocX n x).scrubs = s.scrubs := rfl
@[simp] theorem State.setDocX_fetches (s : State) (n : Nat) (x : DocX) : (s.setDocX n x).fetches = s.fetches := rfl
@[simp] theorem State.setDocX_lastRing (s : State) (n : Nat) (x : DocX) : (s.setDocX n x).lastRing = s.lastRing := rfl
@[simp] theorem State.setDocX_coal (s : State) (n : Nat) (x : DocX) : (s.setDocX n x).coal = s.coal := rfl
@[simp] theorem State.setDocX_reports (s : State) (n : Nat) (x : DocX) : (s.setDocX n x).reports = s.reports := rfl
@[simp] theorem State.setDocX_mbxBusy (s : State) (n : Nat) (x : DocX) : (s.setDocX n x).mbxBusy = s.mbxBusy := rfl
@[simp] theorem State.setDocX_ide (s : State) (n : Nat) (x : DocX) : (s.setDocX n x).ide = s.ide := rfl
@[simp] theorem State.setDocX_msixTable (s : State) (n : Nat) (x : DocX) : (s.setDocX n x).msixTable = s.msixTable := rfl
@[simp] theorem State.setDocX_bar2Size (s : State) (n : Nat) (x : DocX) : (s.setDocX n x).bar2Size = s.bar2Size := rfl
@[simp] theorem State.setDocX_cfg (s : State) (n : Nat) (x : DocX) : (s.setDocX n x).cfg = s.cfg := rfl
@[simp] theorem State.setDocX_writtenAt (s : State) (n : Nat) (x : DocX) : (s.setDocX n x).writtenAt = s.writtenAt := rfl
@[simp] theorem State.setDocX_written (s : State) (n : Nat) (x : DocX) : (s.setDocX n x).written = s.written := rfl
@[simp] theorem State.setDocX_keys (s : State) (n : Nat) (x : DocX) : (s.setDocX n x).keys = s.keys := rfl
@[simp] theorem State.setDocX_keySlots (s : State) (n : Nat) (x : DocX) : (s.setDocX n x).keySlots = s.keySlots := rfl
@[simp] theorem State.setDocX_ended (s : State) (n : Nat) (x : DocX) : (s.setDocX n x).ended = s.ended := rfl
@[simp] theorem State.setDocX_sessions (s : State) (n : Nat) (x : DocX) : (s.setDocX n x).sessions = s.sessions := rfl
@[simp] theorem State.setDocX_identity (s : State) (n : Nat) (x : DocX) : (s.setDocX n x).identity = s.identity := rfl
@[simp] theorem State.setDocX_flash (s : State) (n : Nat) (x : DocX) : (s.setDocX n x).flash = s.flash := rfl
@[simp] theorem State.setDocX_links (s : State) (n : Nat) (x : DocX) : (s.setDocX n x).links = s.links := rfl
@[simp] theorem State.setDocX_seqTx (s : State) (n : Nat) (x : DocX) : (s.setDocX n x).seqTx = s.seqTx := rfl
@[simp] theorem State.setDocX_seqRx (s : State) (n : Nat) (x : DocX) : (s.setDocX n x).seqRx = s.seqRx := rfl
@[simp] theorem State.setDocX_statusRx (s : State) (n : Nat) (x : DocX) : (s.setDocX n x).statusRx = s.statusRx := rfl
@[simp] theorem State.setDocX_arrivals (s : State) (n : Nat) (x : DocX) : (s.setDocX n x).arrivals = s.arrivals := rfl
@[simp] theorem State.setDocX_sent (s : State) (n : Nat) (x : DocX) : (s.setDocX n x).sent = s.sent := rfl
@[simp] theorem State.setDocX_xfers (s : State) (n : Nat) (x : DocX) : (s.setDocX n x).xfers = s.xfers := rfl
@[simp] theorem State.setDocX_nextXfer (s : State) (n : Nat) (x : DocX) : (s.setDocX n x).nextXfer = s.nextXfer := rfl
@[simp] theorem State.setDocX_recoveries (s : State) (n : Nat) (x : DocX) : (s.setDocX n x).recoveries = s.recoveries := rfl
@[simp] theorem State.setDocX_history (s : State) (n : Nat) (x : DocX) : (s.setDocX n x).history = s.history := rfl
@[simp] theorem State.setDocX_invRun (s : State) (n : Nat) (x : DocX) : (s.setDocX n x).invRun = s.invRun := rfl
@[simp] theorem State.setDocX_invHeld (s : State) (n : Nat) (x : DocX) : (s.setDocX n x).invHeld = s.invHeld := rfl
@[simp] theorem State.setDocX_invPassed (s : State) (n : Nat) (x : DocX) : (s.setDocX n x).invPassed = s.invPassed := rfl
@[simp] theorem State.setDocX_invLast (s : State) (n : Nat) (x : DocX) : (s.setDocX n x).invLast = s.invLast := rfl
@[simp] theorem State.setDocX_invStart (s : State) (n : Nat) (x : DocX) : (s.setDocX n x).invStart = s.invStart := rfl
@[simp] theorem State.setDocX_invAmps (s : State) (n : Nat) (x : DocX) : (s.setDocX n x).invAmps = s.invAmps := rfl
@[simp] theorem State.setDocX_power (s : State) (n : Nat) (x : DocX) : (s.setDocX n x).power = s.power := rfl
@[simp] theorem State.setDocX_clampOn (s : State) (n : Nat) (x : DocX) : (s.setDocX n x).clampOn = s.clampOn := rfl
@[simp] theorem State.setDocX_pins (s : State) (n : Nat) (x : DocX) : (s.setDocX n x).pins = s.pins := rfl
@[simp] theorem State.setDocX_latchCause (s : State) (n : Nat) (x : DocX) : (s.setDocX n x).latchCause = s.latchCause := rfl
@[simp] theorem State.setDocX_latched (s : State) (n : Nat) (x : DocX) : (s.setDocX n x).latched = s.latched := rfl
@[simp] theorem State.setDocX_latchNews (s : State) (n : Nat) (x : DocX) : (s.setDocX n x).latchNews = s.latchNews := rfl
@[simp] theorem State.setDocX_testScope (s : State) (n : Nat) (x : DocX) : (s.setDocX n x).testScope = s.testScope := rfl
@[simp] theorem State.setDocX_coolDeb (s : State) (n : Nat) (x : DocX) : (s.setDocX n x).coolDeb = s.coolDeb := rfl
@[simp] theorem State.setDocX_leakA (s : State) (n : Nat) (x : DocX) : (s.setDocX n x).leakA = s.leakA := rfl
@[simp] theorem State.setDocX_leakB (s : State) (n : Nat) (x : DocX) : (s.setDocX n x).leakB = s.leakB := rfl
@[simp] theorem State.setDocX_fuseFast (s : State) (n : Nat) (x : DocX) : (s.setDocX n x).fuseFast = s.fuseFast := rfl
@[simp] theorem State.setDocX_vbWait (s : State) (n : Nat) (x : DocX) : (s.setDocX n x).vbWait = s.vbWait := rfl
@[simp] theorem State.setDocX_vb (s : State) (n : Nat) (x : DocX) : (s.setDocX n x).vb = s.vb := rfl
@[simp] theorem State.setDocX_vbLast (s : State) (n : Nat) (x : DocX) : (s.setDocX n x).vbLast = s.vbLast := rfl
@[simp] theorem State.setDocX_vbSource (s : State) (n : Nat) (x : DocX) : (s.setDocX n x).vbSource = s.vbSource := rfl
@[simp] theorem State.setDocX_timeSet (s : State) (n : Nat) (x : DocX) : (s.setDocX n x).timeSet = s.timeSet := rfl
@[simp] theorem State.setDocX_ppsAt (s : State) (n : Nat) (x : DocX) : (s.setDocX n x).ppsAt = s.ppsAt := rfl
@[simp] theorem State.setDocX_phase (s : State) (n : Nat) (x : DocX) : (s.setDocX n x).phase = s.phase := rfl
@[simp] theorem State.setDocX_defaultsOn (s : State) (n : Nat) (x : DocX) : (s.setDocX n x).defaultsOn = s.defaultsOn := rfl
@[simp] theorem State.setDocX_hclk (s : State) (n : Nat) (x : DocX) : (s.setDocX n x).hclk = s.hclk := rfl
@[simp] theorem State.setDocX_fresh (s : State) (n : Nat) (x : DocX) : (s.setDocX n x).fresh = s.fresh := rfl
@[simp] theorem State.setDocX_out (s : State) (n : Nat) (x : DocX) : (s.setDocX n x).out = s.out := rfl

@[simp] theorem State.setLink_pending (s : State) (l : Nat) (x : LinkSt) : (s.setLink l x).pending = s.pending := rfl
@[simp] theorem State.setLink_reg (s : State) (l : Nat) (x : LinkSt) : (s.setLink l x).reg = s.reg := rfl
@[simp] theorem State.setLink_locks (s : State) (l : Nat) (x : LinkSt) : (s.setLink l x).locks = s.locks := rfl
@[simp] theorem State.setLink_profiled (s : State) (l : Nat) (x : LinkSt) : (s.setLink l x).profiled = s.profiled := rfl
@[simp] theorem State.setLink_staging (s : State) (l : Nat) (x : LinkSt) : (s.setLink l x).staging = s.staging := rfl
@[simp] theorem State.setLink_sram (s : State) (l : Nat) (x : LinkSt) : (s.setLink l x).sram = s.sram := rfl
@[simp] theorem State.setLink_hbm (s : State) (l : Nat) (x : LinkSt) : (s.setLink l x).hbm = s.hbm := rfl
@[simp] theorem State.setLink_hostMem (s : State) (l : Nat) (x : LinkSt) : (s.setLink l x).hostMem = s.hostMem := rfl
@[simp] theorem State.setLink_pages (s : State) (l : Nat) (x : LinkSt) : (s.setLink l x).pages = s.pages := rfl
@[simp] theorem State.setLink_scrubPages (s : State) (l : Nat) (x : LinkSt) : (s.setLink l x).scrubPages = s.scrubPages := rfl
@[simp] theorem State.setLink_salonGate (s : State) (l : Nat) (x : LinkSt) : (s.setLink l x).salonGate = s.salonGate := rfl
@[simp] theorem State.setLink_selfRefresh (s : State) (l : Nat) (x : LinkSt) : (s.setLink l x).selfRefresh = s.selfRefresh := rfl
@[simp] theorem State.setLink_cores (s : State) (l : Nat) (x : LinkSt) : (s.setLink l x).cores = s.cores := rfl
@[simp] theorem State.setLink_clusters (s : State) (l : Nat) (x : LinkSt) : (s.setLink l x).clusters = s.clusters := rfl
@[simp] theorem State.setLink_halls (s : State) (l : Nat) (x : LinkSt) : (s.setLink l x).halls = s.halls := rfl
@[simp] theorem State.setLink_tempo (s : State) (l : Nat) (x : LinkSt) : (s.setLink l x).tempo = s.tempo := rfl
@[simp] theorem State.setLink_docent (s : State) (l : Nat) (x : LinkSt) : (s.setLink l x).docent = s.docent := rfl
@[simp] theorem State.setLink_jobs (s : State) (l : Nat) (x : LinkSt) : (s.setLink l x).jobs = s.jobs := rfl
@[simp] theorem State.setLink_scrubs (s : State) (l : Nat) (x : LinkSt) : (s.setLink l x).scrubs = s.scrubs := rfl
@[simp] theorem State.setLink_fetches (s : State) (l : Nat) (x : LinkSt) : (s.setLink l x).fetches = s.fetches := rfl
@[simp] theorem State.setLink_lastRing (s : State) (l : Nat) (x : LinkSt) : (s.setLink l x).lastRing = s.lastRing := rfl
@[simp] theorem State.setLink_coal (s : State) (l : Nat) (x : LinkSt) : (s.setLink l x).coal = s.coal := rfl
@[simp] theorem State.setLink_reports (s : State) (l : Nat) (x : LinkSt) : (s.setLink l x).reports = s.reports := rfl
@[simp] theorem State.setLink_mbxBusy (s : State) (l : Nat) (x : LinkSt) : (s.setLink l x).mbxBusy = s.mbxBusy := rfl
@[simp] theorem State.setLink_ide (s : State) (l : Nat) (x : LinkSt) : (s.setLink l x).ide = s.ide := rfl
@[simp] theorem State.setLink_msixTable (s : State) (l : Nat) (x : LinkSt) : (s.setLink l x).msixTable = s.msixTable := rfl
@[simp] theorem State.setLink_bar2Size (s : State) (l : Nat) (x : LinkSt) : (s.setLink l x).bar2Size = s.bar2Size := rfl
@[simp] theorem State.setLink_cfg (s : State) (l : Nat) (x : LinkSt) : (s.setLink l x).cfg = s.cfg := rfl
@[simp] theorem State.setLink_writtenAt (s : State) (l : Nat) (x : LinkSt) : (s.setLink l x).writtenAt = s.writtenAt := rfl
@[simp] theorem State.setLink_written (s : State) (l : Nat) (x : LinkSt) : (s.setLink l x).written = s.written := rfl
@[simp] theorem State.setLink_keys (s : State) (l : Nat) (x : LinkSt) : (s.setLink l x).keys = s.keys := rfl
@[simp] theorem State.setLink_keySlots (s : State) (l : Nat) (x : LinkSt) : (s.setLink l x).keySlots = s.keySlots := rfl
@[simp] theorem State.setLink_ended (s : State) (l : Nat) (x : LinkSt) : (s.setLink l x).ended = s.ended := rfl
@[simp] theorem State.setLink_sessions (s : State) (l : Nat) (x : LinkSt) : (s.setLink l x).sessions = s.sessions := rfl
@[simp] theorem State.setLink_identity (s : State) (l : Nat) (x : LinkSt) : (s.setLink l x).identity = s.identity := rfl
@[simp] theorem State.setLink_flash (s : State) (l : Nat) (x : LinkSt) : (s.setLink l x).flash = s.flash := rfl
@[simp] theorem State.setLink_seqTx (s : State) (l : Nat) (x : LinkSt) : (s.setLink l x).seqTx = s.seqTx := rfl
@[simp] theorem State.setLink_seqRx (s : State) (l : Nat) (x : LinkSt) : (s.setLink l x).seqRx = s.seqRx := rfl
@[simp] theorem State.setLink_statusRx (s : State) (l : Nat) (x : LinkSt) : (s.setLink l x).statusRx = s.statusRx := rfl
@[simp] theorem State.setLink_arrivals (s : State) (l : Nat) (x : LinkSt) : (s.setLink l x).arrivals = s.arrivals := rfl
@[simp] theorem State.setLink_sent (s : State) (l : Nat) (x : LinkSt) : (s.setLink l x).sent = s.sent := rfl
@[simp] theorem State.setLink_xfers (s : State) (l : Nat) (x : LinkSt) : (s.setLink l x).xfers = s.xfers := rfl
@[simp] theorem State.setLink_nextXfer (s : State) (l : Nat) (x : LinkSt) : (s.setLink l x).nextXfer = s.nextXfer := rfl
@[simp] theorem State.setLink_recoveries (s : State) (l : Nat) (x : LinkSt) : (s.setLink l x).recoveries = s.recoveries := rfl
@[simp] theorem State.setLink_history (s : State) (l : Nat) (x : LinkSt) : (s.setLink l x).history = s.history := rfl
@[simp] theorem State.setLink_invRun (s : State) (l : Nat) (x : LinkSt) : (s.setLink l x).invRun = s.invRun := rfl
@[simp] theorem State.setLink_invHeld (s : State) (l : Nat) (x : LinkSt) : (s.setLink l x).invHeld = s.invHeld := rfl
@[simp] theorem State.setLink_invPassed (s : State) (l : Nat) (x : LinkSt) : (s.setLink l x).invPassed = s.invPassed := rfl
@[simp] theorem State.setLink_invLast (s : State) (l : Nat) (x : LinkSt) : (s.setLink l x).invLast = s.invLast := rfl
@[simp] theorem State.setLink_invStart (s : State) (l : Nat) (x : LinkSt) : (s.setLink l x).invStart = s.invStart := rfl
@[simp] theorem State.setLink_invAmps (s : State) (l : Nat) (x : LinkSt) : (s.setLink l x).invAmps = s.invAmps := rfl
@[simp] theorem State.setLink_power (s : State) (l : Nat) (x : LinkSt) : (s.setLink l x).power = s.power := rfl
@[simp] theorem State.setLink_clampOn (s : State) (l : Nat) (x : LinkSt) : (s.setLink l x).clampOn = s.clampOn := rfl
@[simp] theorem State.setLink_pins (s : State) (l : Nat) (x : LinkSt) : (s.setLink l x).pins = s.pins := rfl
@[simp] theorem State.setLink_latchCause (s : State) (l : Nat) (x : LinkSt) : (s.setLink l x).latchCause = s.latchCause := rfl
@[simp] theorem State.setLink_latched (s : State) (l : Nat) (x : LinkSt) : (s.setLink l x).latched = s.latched := rfl
@[simp] theorem State.setLink_latchNews (s : State) (l : Nat) (x : LinkSt) : (s.setLink l x).latchNews = s.latchNews := rfl
@[simp] theorem State.setLink_testScope (s : State) (l : Nat) (x : LinkSt) : (s.setLink l x).testScope = s.testScope := rfl
@[simp] theorem State.setLink_coolDeb (s : State) (l : Nat) (x : LinkSt) : (s.setLink l x).coolDeb = s.coolDeb := rfl
@[simp] theorem State.setLink_leakA (s : State) (l : Nat) (x : LinkSt) : (s.setLink l x).leakA = s.leakA := rfl
@[simp] theorem State.setLink_leakB (s : State) (l : Nat) (x : LinkSt) : (s.setLink l x).leakB = s.leakB := rfl
@[simp] theorem State.setLink_fuseFast (s : State) (l : Nat) (x : LinkSt) : (s.setLink l x).fuseFast = s.fuseFast := rfl
@[simp] theorem State.setLink_vbWait (s : State) (l : Nat) (x : LinkSt) : (s.setLink l x).vbWait = s.vbWait := rfl
@[simp] theorem State.setLink_vb (s : State) (l : Nat) (x : LinkSt) : (s.setLink l x).vb = s.vb := rfl
@[simp] theorem State.setLink_vbLast (s : State) (l : Nat) (x : LinkSt) : (s.setLink l x).vbLast = s.vbLast := rfl
@[simp] theorem State.setLink_vbSource (s : State) (l : Nat) (x : LinkSt) : (s.setLink l x).vbSource = s.vbSource := rfl
@[simp] theorem State.setLink_timeSet (s : State) (l : Nat) (x : LinkSt) : (s.setLink l x).timeSet = s.timeSet := rfl
@[simp] theorem State.setLink_ppsAt (s : State) (l : Nat) (x : LinkSt) : (s.setLink l x).ppsAt = s.ppsAt := rfl
@[simp] theorem State.setLink_phase (s : State) (l : Nat) (x : LinkSt) : (s.setLink l x).phase = s.phase := rfl
@[simp] theorem State.setLink_defaultsOn (s : State) (l : Nat) (x : LinkSt) : (s.setLink l x).defaultsOn = s.defaultsOn := rfl
@[simp] theorem State.setLink_hclk (s : State) (l : Nat) (x : LinkSt) : (s.setLink l x).hclk = s.hclk := rfl
@[simp] theorem State.setLink_fresh (s : State) (l : Nat) (x : LinkSt) : (s.setLink l x).fresh = s.fresh := rfl
@[simp] theorem State.setLink_out (s : State) (l : Nat) (x : LinkSt) : (s.setLink l x).out = s.out := rfl

@[simp] theorem State.setJob_pending (s : State) (h : Nat) (j : Job) : (s.setJob h j).pending = s.pending := rfl
@[simp] theorem State.setJob_reg (s : State) (h : Nat) (j : Job) : (s.setJob h j).reg = s.reg := rfl
@[simp] theorem State.setJob_locks (s : State) (h : Nat) (j : Job) : (s.setJob h j).locks = s.locks := rfl
@[simp] theorem State.setJob_profiled (s : State) (h : Nat) (j : Job) : (s.setJob h j).profiled = s.profiled := rfl
@[simp] theorem State.setJob_staging (s : State) (h : Nat) (j : Job) : (s.setJob h j).staging = s.staging := rfl
@[simp] theorem State.setJob_sram (s : State) (h : Nat) (j : Job) : (s.setJob h j).sram = s.sram := rfl
@[simp] theorem State.setJob_hbm (s : State) (h : Nat) (j : Job) : (s.setJob h j).hbm = s.hbm := rfl
@[simp] theorem State.setJob_hostMem (s : State) (h : Nat) (j : Job) : (s.setJob h j).hostMem = s.hostMem := rfl
@[simp] theorem State.setJob_pages (s : State) (h : Nat) (j : Job) : (s.setJob h j).pages = s.pages := rfl
@[simp] theorem State.setJob_scrubPages (s : State) (h : Nat) (j : Job) : (s.setJob h j).scrubPages = s.scrubPages := rfl
@[simp] theorem State.setJob_salonGate (s : State) (h : Nat) (j : Job) : (s.setJob h j).salonGate = s.salonGate := rfl
@[simp] theorem State.setJob_selfRefresh (s : State) (h : Nat) (j : Job) : (s.setJob h j).selfRefresh = s.selfRefresh := rfl
@[simp] theorem State.setJob_cores (s : State) (h : Nat) (j : Job) : (s.setJob h j).cores = s.cores := rfl
@[simp] theorem State.setJob_clusters (s : State) (h : Nat) (j : Job) : (s.setJob h j).clusters = s.clusters := rfl
@[simp] theorem State.setJob_halls (s : State) (h : Nat) (j : Job) : (s.setJob h j).halls = s.halls := rfl
@[simp] theorem State.setJob_tempo (s : State) (h : Nat) (j : Job) : (s.setJob h j).tempo = s.tempo := rfl
@[simp] theorem State.setJob_docent (s : State) (h : Nat) (j : Job) : (s.setJob h j).docent = s.docent := rfl
@[simp] theorem State.setJob_scrubs (s : State) (h : Nat) (j : Job) : (s.setJob h j).scrubs = s.scrubs := rfl
@[simp] theorem State.setJob_fetches (s : State) (h : Nat) (j : Job) : (s.setJob h j).fetches = s.fetches := rfl
@[simp] theorem State.setJob_lastRing (s : State) (h : Nat) (j : Job) : (s.setJob h j).lastRing = s.lastRing := rfl
@[simp] theorem State.setJob_coal (s : State) (h : Nat) (j : Job) : (s.setJob h j).coal = s.coal := rfl
@[simp] theorem State.setJob_reports (s : State) (h : Nat) (j : Job) : (s.setJob h j).reports = s.reports := rfl
@[simp] theorem State.setJob_mbxBusy (s : State) (h : Nat) (j : Job) : (s.setJob h j).mbxBusy = s.mbxBusy := rfl
@[simp] theorem State.setJob_ide (s : State) (h : Nat) (j : Job) : (s.setJob h j).ide = s.ide := rfl
@[simp] theorem State.setJob_msixTable (s : State) (h : Nat) (j : Job) : (s.setJob h j).msixTable = s.msixTable := rfl
@[simp] theorem State.setJob_bar2Size (s : State) (h : Nat) (j : Job) : (s.setJob h j).bar2Size = s.bar2Size := rfl
@[simp] theorem State.setJob_cfg (s : State) (h : Nat) (j : Job) : (s.setJob h j).cfg = s.cfg := rfl
@[simp] theorem State.setJob_writtenAt (s : State) (h : Nat) (j : Job) : (s.setJob h j).writtenAt = s.writtenAt := rfl
@[simp] theorem State.setJob_written (s : State) (h : Nat) (j : Job) : (s.setJob h j).written = s.written := rfl
@[simp] theorem State.setJob_keys (s : State) (h : Nat) (j : Job) : (s.setJob h j).keys = s.keys := rfl
@[simp] theorem State.setJob_keySlots (s : State) (h : Nat) (j : Job) : (s.setJob h j).keySlots = s.keySlots := rfl
@[simp] theorem State.setJob_ended (s : State) (h : Nat) (j : Job) : (s.setJob h j).ended = s.ended := rfl
@[simp] theorem State.setJob_sessions (s : State) (h : Nat) (j : Job) : (s.setJob h j).sessions = s.sessions := rfl
@[simp] theorem State.setJob_identity (s : State) (h : Nat) (j : Job) : (s.setJob h j).identity = s.identity := rfl
@[simp] theorem State.setJob_flash (s : State) (h : Nat) (j : Job) : (s.setJob h j).flash = s.flash := rfl
@[simp] theorem State.setJob_links (s : State) (h : Nat) (j : Job) : (s.setJob h j).links = s.links := rfl
@[simp] theorem State.setJob_seqTx (s : State) (h : Nat) (j : Job) : (s.setJob h j).seqTx = s.seqTx := rfl
@[simp] theorem State.setJob_seqRx (s : State) (h : Nat) (j : Job) : (s.setJob h j).seqRx = s.seqRx := rfl
@[simp] theorem State.setJob_statusRx (s : State) (h : Nat) (j : Job) : (s.setJob h j).statusRx = s.statusRx := rfl
@[simp] theorem State.setJob_arrivals (s : State) (h : Nat) (j : Job) : (s.setJob h j).arrivals = s.arrivals := rfl
@[simp] theorem State.setJob_sent (s : State) (h : Nat) (j : Job) : (s.setJob h j).sent = s.sent := rfl
@[simp] theorem State.setJob_xfers (s : State) (h : Nat) (j : Job) : (s.setJob h j).xfers = s.xfers := rfl
@[simp] theorem State.setJob_nextXfer (s : State) (h : Nat) (j : Job) : (s.setJob h j).nextXfer = s.nextXfer := rfl
@[simp] theorem State.setJob_recoveries (s : State) (h : Nat) (j : Job) : (s.setJob h j).recoveries = s.recoveries := rfl
@[simp] theorem State.setJob_history (s : State) (h : Nat) (j : Job) : (s.setJob h j).history = s.history := rfl
@[simp] theorem State.setJob_invRun (s : State) (h : Nat) (j : Job) : (s.setJob h j).invRun = s.invRun := rfl
@[simp] theorem State.setJob_invHeld (s : State) (h : Nat) (j : Job) : (s.setJob h j).invHeld = s.invHeld := rfl
@[simp] theorem State.setJob_invPassed (s : State) (h : Nat) (j : Job) : (s.setJob h j).invPassed = s.invPassed := rfl
@[simp] theorem State.setJob_invLast (s : State) (h : Nat) (j : Job) : (s.setJob h j).invLast = s.invLast := rfl
@[simp] theorem State.setJob_invStart (s : State) (h : Nat) (j : Job) : (s.setJob h j).invStart = s.invStart := rfl
@[simp] theorem State.setJob_invAmps (s : State) (h : Nat) (j : Job) : (s.setJob h j).invAmps = s.invAmps := rfl
@[simp] theorem State.setJob_power (s : State) (h : Nat) (j : Job) : (s.setJob h j).power = s.power := rfl
@[simp] theorem State.setJob_clampOn (s : State) (h : Nat) (j : Job) : (s.setJob h j).clampOn = s.clampOn := rfl
@[simp] theorem State.setJob_pins (s : State) (h : Nat) (j : Job) : (s.setJob h j).pins = s.pins := rfl
@[simp] theorem State.setJob_latchCause (s : State) (h : Nat) (j : Job) : (s.setJob h j).latchCause = s.latchCause := rfl
@[simp] theorem State.setJob_latched (s : State) (h : Nat) (j : Job) : (s.setJob h j).latched = s.latched := rfl
@[simp] theorem State.setJob_latchNews (s : State) (h : Nat) (j : Job) : (s.setJob h j).latchNews = s.latchNews := rfl
@[simp] theorem State.setJob_testScope (s : State) (h : Nat) (j : Job) : (s.setJob h j).testScope = s.testScope := rfl
@[simp] theorem State.setJob_coolDeb (s : State) (h : Nat) (j : Job) : (s.setJob h j).coolDeb = s.coolDeb := rfl
@[simp] theorem State.setJob_leakA (s : State) (h : Nat) (j : Job) : (s.setJob h j).leakA = s.leakA := rfl
@[simp] theorem State.setJob_leakB (s : State) (h : Nat) (j : Job) : (s.setJob h j).leakB = s.leakB := rfl
@[simp] theorem State.setJob_fuseFast (s : State) (h : Nat) (j : Job) : (s.setJob h j).fuseFast = s.fuseFast := rfl
@[simp] theorem State.setJob_vbWait (s : State) (h : Nat) (j : Job) : (s.setJob h j).vbWait = s.vbWait := rfl
@[simp] theorem State.setJob_vb (s : State) (h : Nat) (j : Job) : (s.setJob h j).vb = s.vb := rfl
@[simp] theorem State.setJob_vbLast (s : State) (h : Nat) (j : Job) : (s.setJob h j).vbLast = s.vbLast := rfl
@[simp] theorem State.setJob_vbSource (s : State) (h : Nat) (j : Job) : (s.setJob h j).vbSource = s.vbSource := rfl
@[simp] theorem State.setJob_timeSet (s : State) (h : Nat) (j : Job) : (s.setJob h j).timeSet = s.timeSet := rfl
@[simp] theorem State.setJob_ppsAt (s : State) (h : Nat) (j : Job) : (s.setJob h j).ppsAt = s.ppsAt := rfl
@[simp] theorem State.setJob_phase (s : State) (h : Nat) (j : Job) : (s.setJob h j).phase = s.phase := rfl
@[simp] theorem State.setJob_defaultsOn (s : State) (h : Nat) (j : Job) : (s.setJob h j).defaultsOn = s.defaultsOn := rfl
@[simp] theorem State.setJob_hclk (s : State) (h : Nat) (j : Job) : (s.setJob h j).hclk = s.hclk := rfl
@[simp] theorem State.setJob_fresh (s : State) (h : Nat) (j : Job) : (s.setJob h j).fresh = s.fresh := rfl
@[simp] theorem State.setJob_out (s : State) (h : Nat) (j : Job) : (s.setJob h j).out = s.out := rfl

@[simp] theorem State.setPage_pending (s : State) (p : Nat) (x : Page) : (s.setPage p x).pending = s.pending := rfl
@[simp] theorem State.setPage_reg (s : State) (p : Nat) (x : Page) : (s.setPage p x).reg = s.reg := rfl
@[simp] theorem State.setPage_locks (s : State) (p : Nat) (x : Page) : (s.setPage p x).locks = s.locks := rfl
@[simp] theorem State.setPage_profiled (s : State) (p : Nat) (x : Page) : (s.setPage p x).profiled = s.profiled := rfl
@[simp] theorem State.setPage_staging (s : State) (p : Nat) (x : Page) : (s.setPage p x).staging = s.staging := rfl
@[simp] theorem State.setPage_sram (s : State) (p : Nat) (x : Page) : (s.setPage p x).sram = s.sram := rfl
@[simp] theorem State.setPage_hbm (s : State) (p : Nat) (x : Page) : (s.setPage p x).hbm = s.hbm := rfl
@[simp] theorem State.setPage_hostMem (s : State) (p : Nat) (x : Page) : (s.setPage p x).hostMem = s.hostMem := rfl
@[simp] theorem State.setPage_scrubPages (s : State) (p : Nat) (x : Page) : (s.setPage p x).scrubPages = s.scrubPages := rfl
@[simp] theorem State.setPage_salonGate (s : State) (p : Nat) (x : Page) : (s.setPage p x).salonGate = s.salonGate := rfl
@[simp] theorem State.setPage_selfRefresh (s : State) (p : Nat) (x : Page) : (s.setPage p x).selfRefresh = s.selfRefresh := rfl
@[simp] theorem State.setPage_cores (s : State) (p : Nat) (x : Page) : (s.setPage p x).cores = s.cores := rfl
@[simp] theorem State.setPage_clusters (s : State) (p : Nat) (x : Page) : (s.setPage p x).clusters = s.clusters := rfl
@[simp] theorem State.setPage_halls (s : State) (p : Nat) (x : Page) : (s.setPage p x).halls = s.halls := rfl
@[simp] theorem State.setPage_tempo (s : State) (p : Nat) (x : Page) : (s.setPage p x).tempo = s.tempo := rfl
@[simp] theorem State.setPage_docent (s : State) (p : Nat) (x : Page) : (s.setPage p x).docent = s.docent := rfl
@[simp] theorem State.setPage_jobs (s : State) (p : Nat) (x : Page) : (s.setPage p x).jobs = s.jobs := rfl
@[simp] theorem State.setPage_scrubs (s : State) (p : Nat) (x : Page) : (s.setPage p x).scrubs = s.scrubs := rfl
@[simp] theorem State.setPage_fetches (s : State) (p : Nat) (x : Page) : (s.setPage p x).fetches = s.fetches := rfl
@[simp] theorem State.setPage_lastRing (s : State) (p : Nat) (x : Page) : (s.setPage p x).lastRing = s.lastRing := rfl
@[simp] theorem State.setPage_coal (s : State) (p : Nat) (x : Page) : (s.setPage p x).coal = s.coal := rfl
@[simp] theorem State.setPage_reports (s : State) (p : Nat) (x : Page) : (s.setPage p x).reports = s.reports := rfl
@[simp] theorem State.setPage_mbxBusy (s : State) (p : Nat) (x : Page) : (s.setPage p x).mbxBusy = s.mbxBusy := rfl
@[simp] theorem State.setPage_ide (s : State) (p : Nat) (x : Page) : (s.setPage p x).ide = s.ide := rfl
@[simp] theorem State.setPage_msixTable (s : State) (p : Nat) (x : Page) : (s.setPage p x).msixTable = s.msixTable := rfl
@[simp] theorem State.setPage_bar2Size (s : State) (p : Nat) (x : Page) : (s.setPage p x).bar2Size = s.bar2Size := rfl
@[simp] theorem State.setPage_cfg (s : State) (p : Nat) (x : Page) : (s.setPage p x).cfg = s.cfg := rfl
@[simp] theorem State.setPage_writtenAt (s : State) (p : Nat) (x : Page) : (s.setPage p x).writtenAt = s.writtenAt := rfl
@[simp] theorem State.setPage_written (s : State) (p : Nat) (x : Page) : (s.setPage p x).written = s.written := rfl
@[simp] theorem State.setPage_keys (s : State) (p : Nat) (x : Page) : (s.setPage p x).keys = s.keys := rfl
@[simp] theorem State.setPage_keySlots (s : State) (p : Nat) (x : Page) : (s.setPage p x).keySlots = s.keySlots := rfl
@[simp] theorem State.setPage_ended (s : State) (p : Nat) (x : Page) : (s.setPage p x).ended = s.ended := rfl
@[simp] theorem State.setPage_sessions (s : State) (p : Nat) (x : Page) : (s.setPage p x).sessions = s.sessions := rfl
@[simp] theorem State.setPage_identity (s : State) (p : Nat) (x : Page) : (s.setPage p x).identity = s.identity := rfl
@[simp] theorem State.setPage_flash (s : State) (p : Nat) (x : Page) : (s.setPage p x).flash = s.flash := rfl
@[simp] theorem State.setPage_links (s : State) (p : Nat) (x : Page) : (s.setPage p x).links = s.links := rfl
@[simp] theorem State.setPage_seqTx (s : State) (p : Nat) (x : Page) : (s.setPage p x).seqTx = s.seqTx := rfl
@[simp] theorem State.setPage_seqRx (s : State) (p : Nat) (x : Page) : (s.setPage p x).seqRx = s.seqRx := rfl
@[simp] theorem State.setPage_statusRx (s : State) (p : Nat) (x : Page) : (s.setPage p x).statusRx = s.statusRx := rfl
@[simp] theorem State.setPage_arrivals (s : State) (p : Nat) (x : Page) : (s.setPage p x).arrivals = s.arrivals := rfl
@[simp] theorem State.setPage_sent (s : State) (p : Nat) (x : Page) : (s.setPage p x).sent = s.sent := rfl
@[simp] theorem State.setPage_xfers (s : State) (p : Nat) (x : Page) : (s.setPage p x).xfers = s.xfers := rfl
@[simp] theorem State.setPage_nextXfer (s : State) (p : Nat) (x : Page) : (s.setPage p x).nextXfer = s.nextXfer := rfl
@[simp] theorem State.setPage_recoveries (s : State) (p : Nat) (x : Page) : (s.setPage p x).recoveries = s.recoveries := rfl
@[simp] theorem State.setPage_history (s : State) (p : Nat) (x : Page) : (s.setPage p x).history = s.history := rfl
@[simp] theorem State.setPage_invRun (s : State) (p : Nat) (x : Page) : (s.setPage p x).invRun = s.invRun := rfl
@[simp] theorem State.setPage_invHeld (s : State) (p : Nat) (x : Page) : (s.setPage p x).invHeld = s.invHeld := rfl
@[simp] theorem State.setPage_invPassed (s : State) (p : Nat) (x : Page) : (s.setPage p x).invPassed = s.invPassed := rfl
@[simp] theorem State.setPage_invLast (s : State) (p : Nat) (x : Page) : (s.setPage p x).invLast = s.invLast := rfl
@[simp] theorem State.setPage_invStart (s : State) (p : Nat) (x : Page) : (s.setPage p x).invStart = s.invStart := rfl
@[simp] theorem State.setPage_invAmps (s : State) (p : Nat) (x : Page) : (s.setPage p x).invAmps = s.invAmps := rfl
@[simp] theorem State.setPage_power (s : State) (p : Nat) (x : Page) : (s.setPage p x).power = s.power := rfl
@[simp] theorem State.setPage_clampOn (s : State) (p : Nat) (x : Page) : (s.setPage p x).clampOn = s.clampOn := rfl
@[simp] theorem State.setPage_pins (s : State) (p : Nat) (x : Page) : (s.setPage p x).pins = s.pins := rfl
@[simp] theorem State.setPage_latchCause (s : State) (p : Nat) (x : Page) : (s.setPage p x).latchCause = s.latchCause := rfl
@[simp] theorem State.setPage_latched (s : State) (p : Nat) (x : Page) : (s.setPage p x).latched = s.latched := rfl
@[simp] theorem State.setPage_latchNews (s : State) (p : Nat) (x : Page) : (s.setPage p x).latchNews = s.latchNews := rfl
@[simp] theorem State.setPage_testScope (s : State) (p : Nat) (x : Page) : (s.setPage p x).testScope = s.testScope := rfl
@[simp] theorem State.setPage_coolDeb (s : State) (p : Nat) (x : Page) : (s.setPage p x).coolDeb = s.coolDeb := rfl
@[simp] theorem State.setPage_leakA (s : State) (p : Nat) (x : Page) : (s.setPage p x).leakA = s.leakA := rfl
@[simp] theorem State.setPage_leakB (s : State) (p : Nat) (x : Page) : (s.setPage p x).leakB = s.leakB := rfl
@[simp] theorem State.setPage_fuseFast (s : State) (p : Nat) (x : Page) : (s.setPage p x).fuseFast = s.fuseFast := rfl
@[simp] theorem State.setPage_vbWait (s : State) (p : Nat) (x : Page) : (s.setPage p x).vbWait = s.vbWait := rfl
@[simp] theorem State.setPage_vb (s : State) (p : Nat) (x : Page) : (s.setPage p x).vb = s.vb := rfl
@[simp] theorem State.setPage_vbLast (s : State) (p : Nat) (x : Page) : (s.setPage p x).vbLast = s.vbLast := rfl
@[simp] theorem State.setPage_vbSource (s : State) (p : Nat) (x : Page) : (s.setPage p x).vbSource = s.vbSource := rfl
@[simp] theorem State.setPage_timeSet (s : State) (p : Nat) (x : Page) : (s.setPage p x).timeSet = s.timeSet := rfl
@[simp] theorem State.setPage_ppsAt (s : State) (p : Nat) (x : Page) : (s.setPage p x).ppsAt = s.ppsAt := rfl
@[simp] theorem State.setPage_phase (s : State) (p : Nat) (x : Page) : (s.setPage p x).phase = s.phase := rfl
@[simp] theorem State.setPage_defaultsOn (s : State) (p : Nat) (x : Page) : (s.setPage p x).defaultsOn = s.defaultsOn := rfl
@[simp] theorem State.setPage_hclk (s : State) (p : Nat) (x : Page) : (s.setPage p x).hclk = s.hclk := rfl
@[simp] theorem State.setPage_fresh (s : State) (p : Nat) (x : Page) : (s.setPage p x).fresh = s.fresh := rfl
@[simp] theorem State.setPage_out (s : State) (p : Nat) (x : Page) : (s.setPage p x).out = s.out := rfl

@[simp] theorem State.give_pending (s : State) (o : Out) : (s.give o).pending = s.pending := rfl
@[simp] theorem State.give_reg (s : State) (o : Out) : (s.give o).reg = s.reg := rfl
@[simp] theorem State.give_locks (s : State) (o : Out) : (s.give o).locks = s.locks := rfl
@[simp] theorem State.give_profiled (s : State) (o : Out) : (s.give o).profiled = s.profiled := rfl
@[simp] theorem State.give_staging (s : State) (o : Out) : (s.give o).staging = s.staging := rfl
@[simp] theorem State.give_sram (s : State) (o : Out) : (s.give o).sram = s.sram := rfl
@[simp] theorem State.give_hbm (s : State) (o : Out) : (s.give o).hbm = s.hbm := rfl
@[simp] theorem State.give_hostMem (s : State) (o : Out) : (s.give o).hostMem = s.hostMem := rfl
@[simp] theorem State.give_pages (s : State) (o : Out) : (s.give o).pages = s.pages := rfl
@[simp] theorem State.give_scrubPages (s : State) (o : Out) : (s.give o).scrubPages = s.scrubPages := rfl
@[simp] theorem State.give_salonGate (s : State) (o : Out) : (s.give o).salonGate = s.salonGate := rfl
@[simp] theorem State.give_selfRefresh (s : State) (o : Out) : (s.give o).selfRefresh = s.selfRefresh := rfl
@[simp] theorem State.give_cores (s : State) (o : Out) : (s.give o).cores = s.cores := rfl
@[simp] theorem State.give_clusters (s : State) (o : Out) : (s.give o).clusters = s.clusters := rfl
@[simp] theorem State.give_halls (s : State) (o : Out) : (s.give o).halls = s.halls := rfl
@[simp] theorem State.give_tempo (s : State) (o : Out) : (s.give o).tempo = s.tempo := rfl
@[simp] theorem State.give_docent (s : State) (o : Out) : (s.give o).docent = s.docent := rfl
@[simp] theorem State.give_jobs (s : State) (o : Out) : (s.give o).jobs = s.jobs := rfl
@[simp] theorem State.give_scrubs (s : State) (o : Out) : (s.give o).scrubs = s.scrubs := rfl
@[simp] theorem State.give_fetches (s : State) (o : Out) : (s.give o).fetches = s.fetches := rfl
@[simp] theorem State.give_lastRing (s : State) (o : Out) : (s.give o).lastRing = s.lastRing := rfl
@[simp] theorem State.give_coal (s : State) (o : Out) : (s.give o).coal = s.coal := rfl
@[simp] theorem State.give_reports (s : State) (o : Out) : (s.give o).reports = s.reports := rfl
@[simp] theorem State.give_mbxBusy (s : State) (o : Out) : (s.give o).mbxBusy = s.mbxBusy := rfl
@[simp] theorem State.give_ide (s : State) (o : Out) : (s.give o).ide = s.ide := rfl
@[simp] theorem State.give_msixTable (s : State) (o : Out) : (s.give o).msixTable = s.msixTable := rfl
@[simp] theorem State.give_bar2Size (s : State) (o : Out) : (s.give o).bar2Size = s.bar2Size := rfl
@[simp] theorem State.give_cfg (s : State) (o : Out) : (s.give o).cfg = s.cfg := rfl
@[simp] theorem State.give_writtenAt (s : State) (o : Out) : (s.give o).writtenAt = s.writtenAt := rfl
@[simp] theorem State.give_written (s : State) (o : Out) : (s.give o).written = s.written := rfl
@[simp] theorem State.give_keys (s : State) (o : Out) : (s.give o).keys = s.keys := rfl
@[simp] theorem State.give_keySlots (s : State) (o : Out) : (s.give o).keySlots = s.keySlots := rfl
@[simp] theorem State.give_ended (s : State) (o : Out) : (s.give o).ended = s.ended := rfl
@[simp] theorem State.give_sessions (s : State) (o : Out) : (s.give o).sessions = s.sessions := rfl
@[simp] theorem State.give_identity (s : State) (o : Out) : (s.give o).identity = s.identity := rfl
@[simp] theorem State.give_flash (s : State) (o : Out) : (s.give o).flash = s.flash := rfl
@[simp] theorem State.give_links (s : State) (o : Out) : (s.give o).links = s.links := rfl
@[simp] theorem State.give_seqTx (s : State) (o : Out) : (s.give o).seqTx = s.seqTx := rfl
@[simp] theorem State.give_seqRx (s : State) (o : Out) : (s.give o).seqRx = s.seqRx := rfl
@[simp] theorem State.give_statusRx (s : State) (o : Out) : (s.give o).statusRx = s.statusRx := rfl
@[simp] theorem State.give_arrivals (s : State) (o : Out) : (s.give o).arrivals = s.arrivals := rfl
@[simp] theorem State.give_sent (s : State) (o : Out) : (s.give o).sent = s.sent := rfl
@[simp] theorem State.give_xfers (s : State) (o : Out) : (s.give o).xfers = s.xfers := rfl
@[simp] theorem State.give_nextXfer (s : State) (o : Out) : (s.give o).nextXfer = s.nextXfer := rfl
@[simp] theorem State.give_recoveries (s : State) (o : Out) : (s.give o).recoveries = s.recoveries := rfl
@[simp] theorem State.give_history (s : State) (o : Out) : (s.give o).history = s.history := rfl
@[simp] theorem State.give_invRun (s : State) (o : Out) : (s.give o).invRun = s.invRun := rfl
@[simp] theorem State.give_invHeld (s : State) (o : Out) : (s.give o).invHeld = s.invHeld := rfl
@[simp] theorem State.give_invPassed (s : State) (o : Out) : (s.give o).invPassed = s.invPassed := rfl
@[simp] theorem State.give_invLast (s : State) (o : Out) : (s.give o).invLast = s.invLast := rfl
@[simp] theorem State.give_invStart (s : State) (o : Out) : (s.give o).invStart = s.invStart := rfl
@[simp] theorem State.give_invAmps (s : State) (o : Out) : (s.give o).invAmps = s.invAmps := rfl
@[simp] theorem State.give_power (s : State) (o : Out) : (s.give o).power = s.power := rfl
@[simp] theorem State.give_clampOn (s : State) (o : Out) : (s.give o).clampOn = s.clampOn := rfl
@[simp] theorem State.give_pins (s : State) (o : Out) : (s.give o).pins = s.pins := rfl
@[simp] theorem State.give_latchCause (s : State) (o : Out) : (s.give o).latchCause = s.latchCause := rfl
@[simp] theorem State.give_latched (s : State) (o : Out) : (s.give o).latched = s.latched := rfl
@[simp] theorem State.give_latchNews (s : State) (o : Out) : (s.give o).latchNews = s.latchNews := rfl
@[simp] theorem State.give_testScope (s : State) (o : Out) : (s.give o).testScope = s.testScope := rfl
@[simp] theorem State.give_coolDeb (s : State) (o : Out) : (s.give o).coolDeb = s.coolDeb := rfl
@[simp] theorem State.give_leakA (s : State) (o : Out) : (s.give o).leakA = s.leakA := rfl
@[simp] theorem State.give_leakB (s : State) (o : Out) : (s.give o).leakB = s.leakB := rfl
@[simp] theorem State.give_fuseFast (s : State) (o : Out) : (s.give o).fuseFast = s.fuseFast := rfl
@[simp] theorem State.give_vbWait (s : State) (o : Out) : (s.give o).vbWait = s.vbWait := rfl
@[simp] theorem State.give_vb (s : State) (o : Out) : (s.give o).vb = s.vb := rfl
@[simp] theorem State.give_vbLast (s : State) (o : Out) : (s.give o).vbLast = s.vbLast := rfl
@[simp] theorem State.give_vbSource (s : State) (o : Out) : (s.give o).vbSource = s.vbSource := rfl
@[simp] theorem State.give_timeSet (s : State) (o : Out) : (s.give o).timeSet = s.timeSet := rfl
@[simp] theorem State.give_ppsAt (s : State) (o : Out) : (s.give o).ppsAt = s.ppsAt := rfl
@[simp] theorem State.give_phase (s : State) (o : Out) : (s.give o).phase = s.phase := rfl
@[simp] theorem State.give_defaultsOn (s : State) (o : Out) : (s.give o).defaultsOn = s.defaultsOn := rfl
@[simp] theorem State.give_hclk (s : State) (o : Out) : (s.give o).hclk = s.hclk := rfl
@[simp] theorem State.give_fresh (s : State) (o : Out) : (s.give o).fresh = s.fresh := rfl

@[simp] theorem State.draw_pending (s : State) : (s.draw).pending = s.pending := rfl
@[simp] theorem State.draw_reg (s : State) : (s.draw).reg = s.reg := rfl
@[simp] theorem State.draw_locks (s : State) : (s.draw).locks = s.locks := rfl
@[simp] theorem State.draw_profiled (s : State) : (s.draw).profiled = s.profiled := rfl
@[simp] theorem State.draw_staging (s : State) : (s.draw).staging = s.staging := rfl
@[simp] theorem State.draw_sram (s : State) : (s.draw).sram = s.sram := rfl
@[simp] theorem State.draw_hbm (s : State) : (s.draw).hbm = s.hbm := rfl
@[simp] theorem State.draw_hostMem (s : State) : (s.draw).hostMem = s.hostMem := rfl
@[simp] theorem State.draw_pages (s : State) : (s.draw).pages = s.pages := rfl
@[simp] theorem State.draw_scrubPages (s : State) : (s.draw).scrubPages = s.scrubPages := rfl
@[simp] theorem State.draw_salonGate (s : State) : (s.draw).salonGate = s.salonGate := rfl
@[simp] theorem State.draw_selfRefresh (s : State) : (s.draw).selfRefresh = s.selfRefresh := rfl
@[simp] theorem State.draw_cores (s : State) : (s.draw).cores = s.cores := rfl
@[simp] theorem State.draw_clusters (s : State) : (s.draw).clusters = s.clusters := rfl
@[simp] theorem State.draw_halls (s : State) : (s.draw).halls = s.halls := rfl
@[simp] theorem State.draw_tempo (s : State) : (s.draw).tempo = s.tempo := rfl
@[simp] theorem State.draw_docent (s : State) : (s.draw).docent = s.docent := rfl
@[simp] theorem State.draw_jobs (s : State) : (s.draw).jobs = s.jobs := rfl
@[simp] theorem State.draw_scrubs (s : State) : (s.draw).scrubs = s.scrubs := rfl
@[simp] theorem State.draw_fetches (s : State) : (s.draw).fetches = s.fetches := rfl
@[simp] theorem State.draw_lastRing (s : State) : (s.draw).lastRing = s.lastRing := rfl
@[simp] theorem State.draw_coal (s : State) : (s.draw).coal = s.coal := rfl
@[simp] theorem State.draw_reports (s : State) : (s.draw).reports = s.reports := rfl
@[simp] theorem State.draw_mbxBusy (s : State) : (s.draw).mbxBusy = s.mbxBusy := rfl
@[simp] theorem State.draw_ide (s : State) : (s.draw).ide = s.ide := rfl
@[simp] theorem State.draw_msixTable (s : State) : (s.draw).msixTable = s.msixTable := rfl
@[simp] theorem State.draw_bar2Size (s : State) : (s.draw).bar2Size = s.bar2Size := rfl
@[simp] theorem State.draw_cfg (s : State) : (s.draw).cfg = s.cfg := rfl
@[simp] theorem State.draw_writtenAt (s : State) : (s.draw).writtenAt = s.writtenAt := rfl
@[simp] theorem State.draw_written (s : State) : (s.draw).written = s.written := rfl
@[simp] theorem State.draw_keys (s : State) : (s.draw).keys = s.keys := rfl
@[simp] theorem State.draw_keySlots (s : State) : (s.draw).keySlots = s.keySlots := rfl
@[simp] theorem State.draw_ended (s : State) : (s.draw).ended = s.ended := rfl
@[simp] theorem State.draw_sessions (s : State) : (s.draw).sessions = s.sessions := rfl
@[simp] theorem State.draw_identity (s : State) : (s.draw).identity = s.identity := rfl
@[simp] theorem State.draw_flash (s : State) : (s.draw).flash = s.flash := rfl
@[simp] theorem State.draw_links (s : State) : (s.draw).links = s.links := rfl
@[simp] theorem State.draw_seqTx (s : State) : (s.draw).seqTx = s.seqTx := rfl
@[simp] theorem State.draw_seqRx (s : State) : (s.draw).seqRx = s.seqRx := rfl
@[simp] theorem State.draw_statusRx (s : State) : (s.draw).statusRx = s.statusRx := rfl
@[simp] theorem State.draw_arrivals (s : State) : (s.draw).arrivals = s.arrivals := rfl
@[simp] theorem State.draw_sent (s : State) : (s.draw).sent = s.sent := rfl
@[simp] theorem State.draw_xfers (s : State) : (s.draw).xfers = s.xfers := rfl
@[simp] theorem State.draw_nextXfer (s : State) : (s.draw).nextXfer = s.nextXfer := rfl
@[simp] theorem State.draw_recoveries (s : State) : (s.draw).recoveries = s.recoveries := rfl
@[simp] theorem State.draw_history (s : State) : (s.draw).history = s.history := rfl
@[simp] theorem State.draw_invRun (s : State) : (s.draw).invRun = s.invRun := rfl
@[simp] theorem State.draw_invHeld (s : State) : (s.draw).invHeld = s.invHeld := rfl
@[simp] theorem State.draw_invPassed (s : State) : (s.draw).invPassed = s.invPassed := rfl
@[simp] theorem State.draw_invLast (s : State) : (s.draw).invLast = s.invLast := rfl
@[simp] theorem State.draw_invStart (s : State) : (s.draw).invStart = s.invStart := rfl
@[simp] theorem State.draw_invAmps (s : State) : (s.draw).invAmps = s.invAmps := rfl
@[simp] theorem State.draw_power (s : State) : (s.draw).power = s.power := rfl
@[simp] theorem State.draw_clampOn (s : State) : (s.draw).clampOn = s.clampOn := rfl
@[simp] theorem State.draw_pins (s : State) : (s.draw).pins = s.pins := rfl
@[simp] theorem State.draw_latchCause (s : State) : (s.draw).latchCause = s.latchCause := rfl
@[simp] theorem State.draw_latched (s : State) : (s.draw).latched = s.latched := rfl
@[simp] theorem State.draw_latchNews (s : State) : (s.draw).latchNews = s.latchNews := rfl
@[simp] theorem State.draw_testScope (s : State) : (s.draw).testScope = s.testScope := rfl
@[simp] theorem State.draw_coolDeb (s : State) : (s.draw).coolDeb = s.coolDeb := rfl
@[simp] theorem State.draw_leakA (s : State) : (s.draw).leakA = s.leakA := rfl
@[simp] theorem State.draw_leakB (s : State) : (s.draw).leakB = s.leakB := rfl
@[simp] theorem State.draw_fuseFast (s : State) : (s.draw).fuseFast = s.fuseFast := rfl
@[simp] theorem State.draw_vbWait (s : State) : (s.draw).vbWait = s.vbWait := rfl
@[simp] theorem State.draw_vb (s : State) : (s.draw).vb = s.vb := rfl
@[simp] theorem State.draw_vbLast (s : State) : (s.draw).vbLast = s.vbLast := rfl
@[simp] theorem State.draw_vbSource (s : State) : (s.draw).vbSource = s.vbSource := rfl
@[simp] theorem State.draw_timeSet (s : State) : (s.draw).timeSet = s.timeSet := rfl
@[simp] theorem State.draw_ppsAt (s : State) : (s.draw).ppsAt = s.ppsAt := rfl
@[simp] theorem State.draw_phase (s : State) : (s.draw).phase = s.phase := rfl
@[simp] theorem State.draw_defaultsOn (s : State) : (s.draw).defaultsOn = s.defaultsOn := rfl
@[simp] theorem State.draw_hclk (s : State) : (s.draw).hclk = s.hclk := rfl
@[simp] theorem State.draw_out (s : State) : (s.draw).out = s.out := rfl

@[simp] theorem State.claim_pending (s : State) (off : Nat) (m : DWord) (w : Writer) : (s.claim off m w).pending = s.pending := rfl
@[simp] theorem State.claim_reg (s : State) (off : Nat) (m : DWord) (w : Writer) : (s.claim off m w).reg = s.reg := rfl
@[simp] theorem State.claim_locks (s : State) (off : Nat) (m : DWord) (w : Writer) : (s.claim off m w).locks = s.locks := rfl
@[simp] theorem State.claim_profiled (s : State) (off : Nat) (m : DWord) (w : Writer) : (s.claim off m w).profiled = s.profiled := rfl
@[simp] theorem State.claim_staging (s : State) (off : Nat) (m : DWord) (w : Writer) : (s.claim off m w).staging = s.staging := rfl
@[simp] theorem State.claim_sram (s : State) (off : Nat) (m : DWord) (w : Writer) : (s.claim off m w).sram = s.sram := rfl
@[simp] theorem State.claim_hbm (s : State) (off : Nat) (m : DWord) (w : Writer) : (s.claim off m w).hbm = s.hbm := rfl
@[simp] theorem State.claim_hostMem (s : State) (off : Nat) (m : DWord) (w : Writer) : (s.claim off m w).hostMem = s.hostMem := rfl
@[simp] theorem State.claim_pages (s : State) (off : Nat) (m : DWord) (w : Writer) : (s.claim off m w).pages = s.pages := rfl
@[simp] theorem State.claim_scrubPages (s : State) (off : Nat) (m : DWord) (w : Writer) : (s.claim off m w).scrubPages = s.scrubPages := rfl
@[simp] theorem State.claim_salonGate (s : State) (off : Nat) (m : DWord) (w : Writer) : (s.claim off m w).salonGate = s.salonGate := rfl
@[simp] theorem State.claim_selfRefresh (s : State) (off : Nat) (m : DWord) (w : Writer) : (s.claim off m w).selfRefresh = s.selfRefresh := rfl
@[simp] theorem State.claim_cores (s : State) (off : Nat) (m : DWord) (w : Writer) : (s.claim off m w).cores = s.cores := rfl
@[simp] theorem State.claim_clusters (s : State) (off : Nat) (m : DWord) (w : Writer) : (s.claim off m w).clusters = s.clusters := rfl
@[simp] theorem State.claim_halls (s : State) (off : Nat) (m : DWord) (w : Writer) : (s.claim off m w).halls = s.halls := rfl
@[simp] theorem State.claim_tempo (s : State) (off : Nat) (m : DWord) (w : Writer) : (s.claim off m w).tempo = s.tempo := rfl
@[simp] theorem State.claim_docent (s : State) (off : Nat) (m : DWord) (w : Writer) : (s.claim off m w).docent = s.docent := rfl
@[simp] theorem State.claim_jobs (s : State) (off : Nat) (m : DWord) (w : Writer) : (s.claim off m w).jobs = s.jobs := rfl
@[simp] theorem State.claim_scrubs (s : State) (off : Nat) (m : DWord) (w : Writer) : (s.claim off m w).scrubs = s.scrubs := rfl
@[simp] theorem State.claim_fetches (s : State) (off : Nat) (m : DWord) (w : Writer) : (s.claim off m w).fetches = s.fetches := rfl
@[simp] theorem State.claim_lastRing (s : State) (off : Nat) (m : DWord) (w : Writer) : (s.claim off m w).lastRing = s.lastRing := rfl
@[simp] theorem State.claim_coal (s : State) (off : Nat) (m : DWord) (w : Writer) : (s.claim off m w).coal = s.coal := rfl
@[simp] theorem State.claim_reports (s : State) (off : Nat) (m : DWord) (w : Writer) : (s.claim off m w).reports = s.reports := rfl
@[simp] theorem State.claim_mbxBusy (s : State) (off : Nat) (m : DWord) (w : Writer) : (s.claim off m w).mbxBusy = s.mbxBusy := rfl
@[simp] theorem State.claim_ide (s : State) (off : Nat) (m : DWord) (w : Writer) : (s.claim off m w).ide = s.ide := rfl
@[simp] theorem State.claim_msixTable (s : State) (off : Nat) (m : DWord) (w : Writer) : (s.claim off m w).msixTable = s.msixTable := rfl
@[simp] theorem State.claim_bar2Size (s : State) (off : Nat) (m : DWord) (w : Writer) : (s.claim off m w).bar2Size = s.bar2Size := rfl
@[simp] theorem State.claim_cfg (s : State) (off : Nat) (m : DWord) (w : Writer) : (s.claim off m w).cfg = s.cfg := rfl
@[simp] theorem State.claim_keys (s : State) (off : Nat) (m : DWord) (w : Writer) : (s.claim off m w).keys = s.keys := rfl
@[simp] theorem State.claim_keySlots (s : State) (off : Nat) (m : DWord) (w : Writer) : (s.claim off m w).keySlots = s.keySlots := rfl
@[simp] theorem State.claim_ended (s : State) (off : Nat) (m : DWord) (w : Writer) : (s.claim off m w).ended = s.ended := rfl
@[simp] theorem State.claim_sessions (s : State) (off : Nat) (m : DWord) (w : Writer) : (s.claim off m w).sessions = s.sessions := rfl
@[simp] theorem State.claim_identity (s : State) (off : Nat) (m : DWord) (w : Writer) : (s.claim off m w).identity = s.identity := rfl
@[simp] theorem State.claim_flash (s : State) (off : Nat) (m : DWord) (w : Writer) : (s.claim off m w).flash = s.flash := rfl
@[simp] theorem State.claim_links (s : State) (off : Nat) (m : DWord) (w : Writer) : (s.claim off m w).links = s.links := rfl
@[simp] theorem State.claim_seqTx (s : State) (off : Nat) (m : DWord) (w : Writer) : (s.claim off m w).seqTx = s.seqTx := rfl
@[simp] theorem State.claim_seqRx (s : State) (off : Nat) (m : DWord) (w : Writer) : (s.claim off m w).seqRx = s.seqRx := rfl
@[simp] theorem State.claim_statusRx (s : State) (off : Nat) (m : DWord) (w : Writer) : (s.claim off m w).statusRx = s.statusRx := rfl
@[simp] theorem State.claim_arrivals (s : State) (off : Nat) (m : DWord) (w : Writer) : (s.claim off m w).arrivals = s.arrivals := rfl
@[simp] theorem State.claim_sent (s : State) (off : Nat) (m : DWord) (w : Writer) : (s.claim off m w).sent = s.sent := rfl
@[simp] theorem State.claim_xfers (s : State) (off : Nat) (m : DWord) (w : Writer) : (s.claim off m w).xfers = s.xfers := rfl
@[simp] theorem State.claim_nextXfer (s : State) (off : Nat) (m : DWord) (w : Writer) : (s.claim off m w).nextXfer = s.nextXfer := rfl
@[simp] theorem State.claim_recoveries (s : State) (off : Nat) (m : DWord) (w : Writer) : (s.claim off m w).recoveries = s.recoveries := rfl
@[simp] theorem State.claim_history (s : State) (off : Nat) (m : DWord) (w : Writer) : (s.claim off m w).history = s.history := rfl
@[simp] theorem State.claim_invRun (s : State) (off : Nat) (m : DWord) (w : Writer) : (s.claim off m w).invRun = s.invRun := rfl
@[simp] theorem State.claim_invHeld (s : State) (off : Nat) (m : DWord) (w : Writer) : (s.claim off m w).invHeld = s.invHeld := rfl
@[simp] theorem State.claim_invPassed (s : State) (off : Nat) (m : DWord) (w : Writer) : (s.claim off m w).invPassed = s.invPassed := rfl
@[simp] theorem State.claim_invLast (s : State) (off : Nat) (m : DWord) (w : Writer) : (s.claim off m w).invLast = s.invLast := rfl
@[simp] theorem State.claim_invStart (s : State) (off : Nat) (m : DWord) (w : Writer) : (s.claim off m w).invStart = s.invStart := rfl
@[simp] theorem State.claim_invAmps (s : State) (off : Nat) (m : DWord) (w : Writer) : (s.claim off m w).invAmps = s.invAmps := rfl
@[simp] theorem State.claim_power (s : State) (off : Nat) (m : DWord) (w : Writer) : (s.claim off m w).power = s.power := rfl
@[simp] theorem State.claim_clampOn (s : State) (off : Nat) (m : DWord) (w : Writer) : (s.claim off m w).clampOn = s.clampOn := rfl
@[simp] theorem State.claim_pins (s : State) (off : Nat) (m : DWord) (w : Writer) : (s.claim off m w).pins = s.pins := rfl
@[simp] theorem State.claim_latchCause (s : State) (off : Nat) (m : DWord) (w : Writer) : (s.claim off m w).latchCause = s.latchCause := rfl
@[simp] theorem State.claim_latched (s : State) (off : Nat) (m : DWord) (w : Writer) : (s.claim off m w).latched = s.latched := rfl
@[simp] theorem State.claim_latchNews (s : State) (off : Nat) (m : DWord) (w : Writer) : (s.claim off m w).latchNews = s.latchNews := rfl
@[simp] theorem State.claim_testScope (s : State) (off : Nat) (m : DWord) (w : Writer) : (s.claim off m w).testScope = s.testScope := rfl
@[simp] theorem State.claim_coolDeb (s : State) (off : Nat) (m : DWord) (w : Writer) : (s.claim off m w).coolDeb = s.coolDeb := rfl
@[simp] theorem State.claim_leakA (s : State) (off : Nat) (m : DWord) (w : Writer) : (s.claim off m w).leakA = s.leakA := rfl
@[simp] theorem State.claim_leakB (s : State) (off : Nat) (m : DWord) (w : Writer) : (s.claim off m w).leakB = s.leakB := rfl
@[simp] theorem State.claim_fuseFast (s : State) (off : Nat) (m : DWord) (w : Writer) : (s.claim off m w).fuseFast = s.fuseFast := rfl
@[simp] theorem State.claim_vbWait (s : State) (off : Nat) (m : DWord) (w : Writer) : (s.claim off m w).vbWait = s.vbWait := rfl
@[simp] theorem State.claim_vb (s : State) (off : Nat) (m : DWord) (w : Writer) : (s.claim off m w).vb = s.vb := rfl
@[simp] theorem State.claim_vbLast (s : State) (off : Nat) (m : DWord) (w : Writer) : (s.claim off m w).vbLast = s.vbLast := rfl
@[simp] theorem State.claim_vbSource (s : State) (off : Nat) (m : DWord) (w : Writer) : (s.claim off m w).vbSource = s.vbSource := rfl
@[simp] theorem State.claim_timeSet (s : State) (off : Nat) (m : DWord) (w : Writer) : (s.claim off m w).timeSet = s.timeSet := rfl
@[simp] theorem State.claim_ppsAt (s : State) (off : Nat) (m : DWord) (w : Writer) : (s.claim off m w).ppsAt = s.ppsAt := rfl
@[simp] theorem State.claim_phase (s : State) (off : Nat) (m : DWord) (w : Writer) : (s.claim off m w).phase = s.phase := rfl
@[simp] theorem State.claim_defaultsOn (s : State) (off : Nat) (m : DWord) (w : Writer) : (s.claim off m w).defaultsOn = s.defaultsOn := rfl
@[simp] theorem State.claim_hclk (s : State) (off : Nat) (m : DWord) (w : Writer) : (s.claim off m w).hclk = s.hclk := rfl
@[simp] theorem State.claim_fresh (s : State) (off : Nat) (m : DWord) (w : Writer) : (s.claim off m w).fresh = s.fresh := rfl
@[simp] theorem State.claim_out (s : State) (off : Nat) (m : DWord) (w : Writer) : (s.claim off m w).out = s.out := rfl

end Sys2Proof.Machine
end

