-- ==== Sys2Proof/Laws/Ops.lean ====
section
/-! SUPPORT. Laws of the named operations: what each of them does to the registers, the cores and the memories. -/

namespace Sys2Proof.Machine

@[simp] theorem State.rget_rput_same (s : State) (off : Nat) (v : DWord) : (s.rput off v).rget off = v := by
  simp [State.rget, State.rput]

theorem State.rget_rput_other (s : State) (off j : Nat) (v : DWord) (h : j ≠ off) : (s.rput off v).rget j = s.rget j := by
  simp [State.rget, State.rput, Assoc.get_put_other, h]

theorem State.fld_setFld_same (s : State) (off lo w x : Nat) (h : lo + w ≤ 64) : (s.setFld off lo w x).fld off lo w = x % 2 ^ w := by
  simp [State.fld, State.setFld, fget_fput_same, h]

theorem State.fld_setFld_other (s : State) (off lo w x lo' w' : Nat) (h : lo + w ≤ 64) (hd : lo + w ≤ lo' ∨ lo' + w' ≤ lo) :
    (s.setFld off lo w x).fld off lo' w' = s.fld off lo' w' := by
  simp [State.fld, State.setFld, fget_fput_other _ _ _ _ _ _ h hd]

theorem State.rget_setFld_other (s : State) (off lo w x j : Nat) (h : j ≠ off) : (s.setFld off lo w x).rget j = s.rget j :=
  State.rget_rput_other s off j _ h

@[simp] theorem State.core_setCore_same (s : State) (n : Nat) (c : CoreSt) : (s.setCore n c).core n = c := by
  simp [State.core, State.setCore]

theorem State.core_setCore_other (s : State) (n m : Nat) (c : CoreSt) (h : m ≠ n) : (s.setCore n c).core m = s.core m := by
  simp [State.core, State.setCore, Assoc.get_put_other, h]

@[simp] theorem State.hall_setHall_same (s : State) (n : Nat) (x : HallSt) : (s.setHall n x).hall n = x := by
  simp [State.hall, State.setHall]

theorem State.hall_setHall_other (s : State) (n m : Nat) (x : HallSt) (h : m ≠ n) : (s.setHall n x).hall m = s.hall m := by
  simp [State.hall, State.setHall, Assoc.get_put_other, h]

@[simp] theorem State.cluster_setCluster_same (s : State) (n : Nat) (x : ClusterSt) : (s.setCluster n x).cluster n = x := by
  simp [State.cluster, State.setCluster]

theorem State.cluster_setCluster_other (s : State) (n m : Nat) (x : ClusterSt) (h : m ≠ n) :
    (s.setCluster n x).cluster m = s.cluster m := by
  simp [State.cluster, State.setCluster, Assoc.get_put_other, h]

@[simp] theorem State.link_setLink_same (s : State) (n : Nat) (x : LinkSt) : (s.setLink n x).link n = x := by
  simp [State.link, State.setLink]

theorem State.link_setLink_other (s : State) (n m : Nat) (x : LinkSt) (h : m ≠ n) : (s.setLink n x).link m = s.link m := by
  simp [State.link, State.setLink, Assoc.get_put_other, h]

@[simp] theorem State.job_setJob_same (s : State) (n : Nat) (j : Job) : (s.setJob n j).job n = some j := by
  simp [State.job, State.setJob, Assoc.find_insert_same]

theorem State.job_setJob_other (s : State) (n m : Nat) (j : Job) (h : m ≠ n) : (s.setJob n j).job m = s.job m := by
  simp [State.job, State.setJob, Assoc.find_insert_other, h]

@[simp] theorem State.core_rput (s : State) (off : Nat) (v : DWord) (n : Nat) : (s.rput off v).core n = s.core n := rfl
@[simp] theorem State.core_bump (s : State) (off k n : Nat) : (s.bump off k).core n = s.core n := rfl
@[simp] theorem State.core_draw (s : State) (n : Nat) : s.draw.core n = s.core n := rfl
@[simp] theorem State.rget_setCore (s : State) (n : Nat) (c : CoreSt) (off : Nat) : (s.setCore n c).rget off = s.rget off := rfl

/-- A second write of a core's record is the only one that counts. -/
@[simp] theorem State.setCore_setCore (s : State) (n : Nat) (c d : CoreSt) : (s.setCore n c).setCore n d = s.setCore n d := by
  simp [State.setCore]

/-- The memories keep their canonical form. -/
theorem State.writeByte_wf (s : State) (a : Nat) (b : Byte) (hs : Assoc.wf 0 s.sram = true) (hh : Assoc.sorted none s.hbm = true) :
    Assoc.wf 0 (s.writeByte a b).sram = true ∧ Assoc.sorted none (s.writeByte a b).hbm = true := by
  unfold State.writeByte
  split
  · exact ⟨hs, Assoc.sorted_insert _ a b none hh (by simp)⟩
  · exact ⟨Assoc.wf_put 0 _ a b hs, hh⟩

theorem State.writeCells_wf (s : State) (cs : List (Nat × Byte)) (hs : Assoc.wf 0 s.sram = true) (hh : Assoc.sorted none s.hbm = true) :
    Assoc.wf 0 (s.writeCells cs).sram = true ∧ Assoc.sorted none (s.writeCells cs).hbm = true :=
  foldOver_keeps (fun t : State => Assoc.wf 0 t.sram = true ∧ Assoc.sorted none t.hbm = true) _
    (fun t c h => State.writeByte_wf t c.1 c.2 h.1 h.2) cs s ⟨hs, hh⟩

theorem State.rput_wf (s : State) (off : Nat) (v : DWord) (h : Assoc.wf 0 s.reg = true) : Assoc.wf 0 (s.rput off v).reg = true :=
  Assoc.wf_put 0 _ off v h

end Sys2Proof.Machine
end

