-- ==== Sys2Proof/Laws/Caller.lean ====
section
/-! SUPPORT. What the Caller does with an instruction that it meets (R253, R260 to R270): one law for each way, cited in place of
the definition of `State.meet`. -/

namespace Sys2Proof.Machine

/-- Every instruction command is the Caller meeting that instruction. -/
theorem exec_meets (i : Instr) (h : NHdr) (w : Work) (s : State) (hh : headerOf i = some h) (hw : workOf i = some w) :
    exec i s = .next (s.meet h i w true) := by
  cases i <;>
    first
    | (obtain rfl := Option.some.inj hh; obtain rfl := Option.some.inj hw; rfl)
    | exact absurd (show (none : Option NHdr) = some h from hh) (by simp)

section
variable (s : State) (h : NHdr) (i : Instr) (w : Work) (b : Bool)

theorem State.meet_idle (hi : (s.core h.core.val).running = false ∨ (s.core h.core.val).halting = true ∨
    (s.core h.core.val).stopped = true) : s.meet h i w b = s := by
  unfold State.meet
  apply if_pos
  rcases hi with e | e | e <;> simp [e]

variable (h1 : (s.core h.core.val).running = true) (h2 : (s.core h.core.val).halting = false)
  (h3 : (s.core h.core.val).stopped = false)
include h1 h2 h3

theorem State.meet_held (h0 : (s.core h.core.val).queue.any QEntry.holds = true) :
    s.meet h i w b = s.bump (coreReg h.core.val 0x188) 1 := by
  unfold State.meet
  simp only [h1, h2, h3, h0, Bool.not_true, Bool.or_self, Bool.false_eq_true, if_false, if_true]
  rfl

variable (h0 : (s.core h.core.val).queue.any QEntry.holds = false)
include h0

theorem State.meet_reserved (h4 : w.reserved = true) : s.meet h i w b = s.illegal h.core.val (s.core h.core.val).iaddr 0x0002 := by
  unfold State.meet
  simp only [h1, h2, h3, h0, h4, Bool.not_true, Bool.or_self, Bool.false_eq_true, if_false, if_true]
  rfl

variable (h4 : w.reserved = false)
include h4

theorem State.meet_squash (h5 : (s.core h.core.val).runs h = false) (h6 : (s.core h.core.val).leaves ((s.core h.core.val).pc.toNat + 16) = false) :
    s.meet h i w b =
      ((s.bump (coreReg h.core.val 0x168) 1).bump (coreReg h.core.val 0x198) 1).setPc h.core.val ((s.core h.core.val).pc.toNat + 16) := by
  unfold State.meet
  simp only [h1, h2, h3, h0, h4, h5, h6, Bool.not_true, Bool.not_false, Bool.or_self, Bool.false_eq_true, if_false, if_true]

theorem State.meet_squash_last (h5 : (s.core h.core.val).runs h = false) (h6 : (s.core h.core.val).leaves ((s.core h.core.val).pc.toNat + 16) = true) :
    s.meet h i w b =
      (((s.bump (coreReg h.core.val 0x168) 1).bump (coreReg h.core.val 0x198) 1).setPc h.core.val
        ((s.core h.core.val).pc.toNat + 16)).illegal h.core.val (s.core h.core.val).iaddr 0x0008 := by
  unfold State.meet
  simp only [h1, h2, h3, h0, h4, h5, h6, Bool.not_true, Bool.not_false, Bool.or_self, Bool.false_eq_true, if_false, if_true]
  rfl

variable (h5 : (s.core h.core.val).runs h = true)
include h5

theorem State.meet_stall (st : Stall) (h6 : s.stall (s.core h.core.val) h w ((s.core h.core.val).ctx h.core.val w.opcode) = some st) :
    s.meet h i w b = s.bump (coreReg h.core.val st.counter) 1 := by
  unfold State.meet
  simp only [h1, h2, h3, h0, h4, h5, h6, Bool.not_true, Bool.or_self, Bool.false_eq_true, if_false]

variable (h6 : s.stall (s.core h.core.val) h w ((s.core h.core.val).ctx h.core.val w.opcode) = none)
include h6

theorem State.meet_cause (aux : Half) (h7 : w.cause ((s.core h.core.val).ctx h.core.val w.opcode) (s.core h.core.val) = some aux) :
    s.meet h i w b = s.illegal h.core.val (s.core h.core.val).iaddr aux := by
  unfold State.meet
  simp only [h1, h2, h3, h0, h4, h5, h6, h7, Bool.not_true, Bool.or_self, Bool.false_eq_true, if_false]
  rfl

variable (h7 : w.cause ((s.core h.core.val).ctx h.core.val w.opcode) (s.core h.core.val) = none)
include h7

theorem State.meet_leaves (hop : w.opcode ≠ 0x01)
    (h8 : (s.core h.core.val).leaves (w.target ((s.core h.core.val).ctx h.core.val w.opcode) (s.core h.core.val)) = true) :
    s.meet h i w b =
      (s.setPc h.core.val (w.target ((s.core h.core.val).ctx h.core.val w.opcode) (s.core h.core.val))).illegal h.core.val
        (s.core h.core.val).iaddr 0x0008 := by
  unfold State.meet
  simp only [h1, h2, h3, h0, h4, h5, h6, h7, h8, hop, Bool.not_true, Bool.or_self, Bool.false_eq_true, if_false, if_true]
  rfl

end

/-- What acceptance says, part by part. -/
theorem State.accepts_iff (s : State) (h : NHdr) (w : Work) : s.accepts h w = true ↔
    (s.core h.core.val).running = true ∧ (s.core h.core.val).halting = false ∧ (s.core h.core.val).stopped = false ∧
    (s.core h.core.val).queue.any QEntry.holds = false ∧ w.reserved = false ∧ (s.core h.core.val).runs h = true ∧
    s.stall (s.core h.core.val) h w ((s.core h.core.val).ctx h.core.val w.opcode) = none ∧
    w.cause ((s.core h.core.val).ctx h.core.val w.opcode) (s.core h.core.val) = none ∧
    (s.core h.core.val).leaves (w.target ((s.core h.core.val).ctx h.core.val w.opcode) (s.core h.core.val)) = false ∧ h.ecc = [] := by
  simp only [State.accepts, Bool.and_eq_true, Bool.not_eq_true', Option.isNone_iff_eq_none, List.isEmpty_iff, and_assoc]

/-- What taking an instruction says. -/
theorem State.takes_accepts (s : State) (h : NHdr) (w : Work) (ht : s.takes h w = true) : s.accepts h w = true := by
  simp only [State.takes, Bool.and_eq_true] at ht; exact ht.1.1

theorem State.takes_starts (s : State) (h : NHdr) (w : Work) (ht : s.takes h w = true) :
    (s.core h.core.val).starts w.queue w.product = true := by
  simp only [State.takes, Bool.and_eq_true] at ht; exact ht.1.2

theorem State.starts_takes (s : State) (h : NHdr) (w : Work) (hs : s.starts h w = true) :
    s.takes h w = true ∧ (s.core h.core.val).waitOf (s.core h.core.val).iaddr w.opcode = none := by
  simp only [State.starts, Bool.and_eq_true, Option.isNone_iff_eq_none] at hs; exact hs

/-- What acceptance does beside the instruction's own effect: CORE.ISSUED counts and the PC moves. -/
def State.afterAccept (s : State) (h : NHdr) (w : Work) (t : State) : State :=
  (t.bump (coreReg h.core.val 0x168) 1).setPc h.core.val
    (w.target ((s.core h.core.val).ctx h.core.val w.opcode) (s.core h.core.val))

/-- An accepted instruction that is not HALT is taken. -/
theorem State.meet_take (s : State) (h : NHdr) (i : Instr) (w : Work) (b : Bool) (ha : s.accepts h w = true) (hop : w.opcode ≠ 1) :
    s.meet h i w b = s.take h.core.val i w ((s.core h.core.val).ctx h.core.val w.opcode) b (s.afterAccept h w) := by
  obtain ⟨h1, h2, h3, h0, h4, h5, h6, h7, h8, h9⟩ := (s.accepts_iff h w).1 ha
  unfold State.meet
  simp only [h0, h1, h2, h3, h4, h5, h6, h7, h8, h9, hop, State.eccMeet, List.find?_nil, foldOver, Bool.not_true,
    Bool.or_false, Bool.false_eq_true, if_false]
  rfl

/-- An instruction that starts at once, and is no array product, runs. -/
theorem State.take_runs (s : State) (n : Nat) (i : Instr) (w : Work) (x : Ctx) (f : State → State) (hp : w.product = false)
    (hq : w.queue = .scalar ∨ ((s.core n).starts w.queue w.product = true ∧ w.issue x s = .done s)) :
    s.take n i w x true f = settle n x.iaddr x.opcode (w.run x s) f (fun t => f (t.enqueue n (t.entry i w x true))) := by
  unfold State.take
  rcases hq with hq | ⟨hs, hi⟩
  · simp [hq]
  · rw [hp] at hs
    by_cases hz : w.queue = .scalar
    · simp [hz]
    · have hz' : (w.queue == QKind.scalar) = false := by simpa using hz
      simp [hz', hs, hi, hp]

/-- An instruction that is not scalar only enters its queue where it does not run at once. -/
theorem State.take_queues (s : State) (n : Nat) (i : Instr) (w : Work) (x : Ctx) (b : Bool) (f : State → State)
    (hz : w.queue ≠ .scalar) (hs : (s.core n).starts w.queue w.product = false) :
    s.take n i w x b f = f (s.enqueue n (s.entry i w x false)) := by
  have hz' : (w.queue == QKind.scalar) = false := by simpa using hz
  simp [State.take, hz', hs]

/-- The condition under which an accepted instruction runs at once. -/
def State.runsNow (s : State) (h : NHdr) (w : Work) : Prop :=
  w.queue = .scalar ∨ (s.takes h w = true ∧ w.issue ((s.core h.core.val).ctx h.core.val w.opcode) s = .done s)

theorem State.meet_runs (s : State) (h : NHdr) (i : Instr) (w : Work) (ha : s.accepts h w = true) (hq : s.runsNow h w)
    (hop : w.opcode ≠ 1) (hp : w.product = false) :
    s.meet h i w true =
      settle h.core.val (s.core h.core.val).iaddr w.opcode (w.run ((s.core h.core.val).ctx h.core.val w.opcode) s) (s.afterAccept h w)
        (fun t => s.afterAccept h w
          (t.enqueue h.core.val (t.entry i w ((s.core h.core.val).ctx h.core.val w.opcode) true))) := by
  rw [s.meet_take h i w true ha hop, s.take_runs _ i w _ _ hp (hq.imp id (fun q => ⟨s.takes_starts h w q.1, q.2⟩))]
  rfl

/-- An instruction whose run is done retires: its wait ends, CORE.ISSUED counts, the PC moves. -/
theorem State.meet_done (s : State) (h : NHdr) (i : Instr) (w : Work) (t : State) (ha : s.accepts h w = true)
    (hq : s.runsNow h w) (hop : w.opcode ≠ 1) (hp : w.product = false)
    (hr : w.run ((s.core h.core.val).ctx h.core.val w.opcode) s = .done t) :
    s.meet h i w true =
      ((((t.endWait h.core.val (s.core h.core.val).iaddr w.opcode).bump (coreReg h.core.val 0x168) 1).setPc h.core.val
        (w.target ((s.core h.core.val).ctx h.core.val w.opcode) (s.core h.core.val)))).draw := by
  rw [s.meet_runs h i w ha hq hop hp, hr]; rfl

/-- An instruction whose run faults stops the core and reports (R270). -/
theorem State.meet_fail (s : State) (h : NHdr) (i : Instr) (w : Work) (t : State) (code aux : Half) (ha : s.accepts h w = true)
    (hq : s.runsNow h w) (hop : w.opcode ≠ 1) (hp : w.product = false)
    (hr : w.run ((s.core h.core.val).ctx h.core.val w.opcode) s = .fail t code aux) :
    s.meet h i w true = t.coreFault h.core.val (s.core h.core.val).iaddr code aux := by
  rw [s.meet_runs h i w ha hq hop hp, hr]; rfl

/-- An instruction whose run waits is accepted and stays in its queue, with its wait. -/
theorem State.meet_wait (s : State) (h : NHdr) (i : Instr) (w : Work) (t : State) (x : Wait) (ha : s.accepts h w = true)
    (hq : s.runsNow h w) (hop : w.opcode ≠ 1) (hp : w.product = false)
    (hr : w.run ((s.core h.core.val).ctx h.core.val w.opcode) s = .wait t x) :
    s.meet h i w true =
      (s.afterAccept h w (t.enqueue h.core.val
        (t.entry i w ((s.core h.core.val).ctx h.core.val w.opcode) true))).addWait h.core.val x := by
  rw [s.meet_runs h i w ha hq hop hp, hr]; rfl

/-- An instruction whose run is done and changed nothing but the core's own record. -/
theorem State.meet_core (s : State) (h : NHdr) (i : Instr) (w : Work) (c : CoreSt) (ha : s.accepts h w = true)
    (hq : s.runsNow h w) (hop : w.opcode ≠ 1) (hp : w.product = false)
    (hr : w.run ((s.core h.core.val).ctx h.core.val w.opcode) s = .done (s.setCore h.core.val c)) :
    s.meet h i w true = s.retired h.core.val w.opcode c
        (w.target ((s.core h.core.val).ctx h.core.val w.opcode) (s.core h.core.val)) := by
  rw [State.meet_done s h i w _ ha hq hop hp hr]
  simp only [State.endWait, State.setPc, State.core_bump, State.core_setCore_same, State.setCore_setCore]
  simp [State.retired, State.draw, State.setCore, State.bump, State.setFld, State.rput, State.fld, State.rget]

end Sys2Proof.Machine
end

