-- ==== Sys2Proof/Laws/Memory.lean ====
section
/-! SUPPORT. What the memory work of an instruction does where every line is at hand (R223 to R225), and what stored cells leave in
the memories. -/

namespace Sys2Proof.Machine

theorem dedupNat_mem (l : List Nat) (x : Nat) : x ∈ dedupNat l → x ∈ l := by
  induction l with
  | nil => exact id
  | cons y t ih =>
    intro h
    simp only [dedupNat, List.mem_cons, List.mem_filter] at h ⊢
    rcases h with h | h
    · exact .inl h
    · exact .inr (ih h.1)

/-- Where core `n` reaches what an operation names and nothing of it is under way, it stores its cells and goes on. -/
theorem State.transfer_reaches (s : State) (c : Ctx) (w : MemWork) (cells : (Nat → Byte) → List (Nat × Byte))
    (fin : (Nat → Byte) → State → Res) (h : s.reaches c.n w (cells s.readByte))
    (hw : (s.core c.n).waitOf c.iaddr c.opcode = none) :
    s.transfer c w cells fin = fin s.readByte (s.writeCells (cells s.readByte)) := by
  obtain ⟨h1, h2, h3, h4, h5, h6⟩ := h
  have hrl : ∀ a ∈ dedupNat (w.reads.flatMap (fun r => linesOf r.1 r.2)), s.slotOf a = none :=
    fun a ha => h3 a (List.mem_append_left _ ha)
  have hwl : ∀ a ∈ dedupNat (w.writes.flatMap (fun r => linesOf r.1 r.2)), s.slotOf a = none :=
    fun a ha => h3 a (List.mem_append_right _ ha)
  have nor : ∀ l : List Nat, (∀ a ∈ l, s.slotOf a = none) → l.filterMap s.slotOf = [] := fun l hl => by
    rw [List.filterMap_eq_nil_iff]; exact hl
  have hconf : s.conflicts c.n (w.groups.getD (portGroups (dedupNat (w.reads.flatMap (fun r => linesOf r.1 r.2))) ++
      portGroups (dedupNat (w.writes.flatMap (fun r => linesOf r.1 r.2))))) = (s, none) := by
    unfold State.conflicts; simp only [h5, foldOver]
  have hn : ∀ l : List Nat, (l.filter (fun a => (Assoc.find ([] : Assoc Byte) a).isNone)) = l := fun l => by
    rw [List.filter_eq_self]; intro a _; rfl
  have free : ∀ (wr : Bool) (l : List Nat), (∀ a ∈ l, s.slotOf a = none) → l.filter (fun a => !(s.lineFree wr a)) = [] :=
    fun wr l hl => by
      rw [List.filter_eq_nil_iff]; intro a ha; simp [State.lineFree, hl a ha]
  have all : ∀ (wr : Bool) (l : List Nat), (∀ a ∈ l, s.slotOf a = none) → l.filter (fun a => s.lineFree wr a) = l :=
    fun wr l hl => by
      rw [List.filter_eq_self]; intro a ha; simp [State.lineFree, hl a ha]
  have tags : ∀ b : Bool, s.setTags [] b = s := fun _ => rfl
  unfold State.transfer
  simp only [h1, h2, hw, hconf, hn, nor _ hrl, List.eraseDups_nil, free _ _ hrl, all _ _ hrl, tags, ite_self,
    List.isEmpty_nil, Bool.true_and, Bool.true_or, Bool.and_true, if_true, Bool.false_eq_true]
  have hrd : (fun (a : Nat) => (Assoc.find ([] : Assoc Byte) a).getD (s.readByte a)) = s.readByte := rfl
  have hland : ∀ l : List Nat, l.filter (fun a => !(([] : List Nat).contains a)) = l := fun l => by
    rw [List.filter_eq_self]; intro a _; rfl
  have hleft : ∀ l : List Nat, l.filter (fun a => !(l.contains a)) = [] := fun l => by
    rw [List.filter_eq_nil_iff]; intro a ha; simp [ha]
  rw [hrd]
  simp only [h6, hland, all _ _ hwl, free _ _ hwl, hleft, nor _ hwl, List.filterMap_nil, List.eraseDups_nil, List.filter_nil,
    List.isEmpty_nil, if_true, List.append_nil]
  simp [State.setTags, foldOver]

/-- Writing bytes keeps the memories' canonical form. -/
theorem Memory.wf_writeCells (s : State) (cs : List (Nat × Byte)) (h : Memory.wf s.sram s.hbm = true) :
    Memory.wf (s.writeCells cs).sram (s.writeCells cs).hbm = true := by
  simp only [Memory.wf, Bool.and_eq_true] at h ⊢
  exact State.writeCells_wf s cs h.1 h.2

/-- Zero-filling a range, and losing the contents of pages, keep it too. -/
theorem Memory.wf_zeroSram (s : State) (a len : Nat) (h : Memory.wf s.sram s.hbm = true) :
    Memory.wf (s.zeroSram a len).sram (s.zeroSram a len).hbm = true := by
  simp only [Memory.wf, Bool.and_eq_true] at h ⊢
  exact ⟨Assoc.wf_filter _ _ _ h.1, h.2⟩

theorem Memory.wf_dropHbm (sram hbm : List Host.Cell) (p : Host.Cell → Bool) (h : Memory.wf sram hbm = true) :
    Memory.wf sram (hbm.filter p) = true := by
  simp only [Memory.wf, Bool.and_eq_true] at h ⊢
  exact ⟨h.1, Assoc.sorted_filter _ _ _ h.2⟩

/-- What the host tells the block keeps the order of the host memory that it knows. -/
theorem State.learn_sorted (s : State) (hm : List Host.Cell) (h : Assoc.sorted none s.hostMem = true) :
    Assoc.sorted none (s.learn hm).hostMem = true :=
  foldOver_keeps (fun m : List Host.Cell => Assoc.sorted none m = true) _ (fun m c hs => Assoc.sorted_insert m c.1 c.2 none hs (by simp)) hm _ h

theorem State.writeByte_memAt (s : State) (a b : Nat) (x : Byte) :
    (s.writeByte a x).memAt b = if a = b then some x else s.memAt b := by
  unfold State.writeByte State.memAt
  by_cases h : a = b
  · subst h
    by_cases g : memSel a = 0 <;> simp [g, Assoc.find_insert_same]
  · by_cases g : memSel a = 0 <;> by_cases k : memSel b = 0 <;>
      simp [g, k, h, Assoc.find_insert_other _ _ _ _ (Ne.symm h), Assoc.get_put_other _ _ _ _ _ (Ne.symm h)]

end Sys2Proof.Machine
end

