-- ==== Sys2Proof/WellFormed.lean ====
section
/-! DEFINITION. Which commands the outside world can give: lists in order, lengths that agree with the fields that state them,
numbers in range. -/

namespace Sys2Proof

/-- Cells in strictly rising order of their address. -/
def cellsRise : List Host.Cell → Bool
  | [] => true
  | [_] => true
  | a :: b :: t => decide (a.1 < b.1) && cellsRise (b :: t)

/-- An error has at least one wrong bit, in a memory of R232. -/
def eccWf (l : List EccHit) : Bool := l.all (fun e => decide (1 ≤ e.bits ∧ e.kind.toNat ≤ 7))

/-- An Inventory target (R444). -/
def targetWf (t : BitVec 11) : Bool := decide (t.toNat < 1045)

/-- A PUT, GET data or ADD packet carries as many bytes as its header says; others carry none (R382). -/
def dataFits (p : PktHdr) (data : List Byte) : Bool :=
  if p.type = 0 ∨ p.type = 2 ∨ p.type = 3 ∨ p.type = 4 then decide (data.length = p.bytes.toNat + 1) else data.isEmpty

/-- Well-formed commands. -/
def Instr.wf (i : Instr) : Bool :=
  match i with
  | .nop h => eccWf h.ecc
  | .halt h => eccWf h.ecc
  | .jmp h _ => eccWf h.ecc
  | .br h _ => eccWf h.ecc
  | .loop h _ _ _ _ _ => eccWf h.ecc
  | .endl h _ => eccWf h.ecc
  | .setp h _ _ _ _ _ _ => eccWf h.ecc
  | .movi h _ _ => eccWf h.ecc
  | .alu h _ _ _ _ _ _ => eccWf h.ecc
  | .ldtd h _ _ _ => eccWf h.ecc
  | .tdmod h _ _ _ _ _ => eccWf h.ecc
  | .xload h _ _ _ _ _ _ => eccWf h.ecc
  | .xstore h _ _ _ _ _ _ => eccWf h.ecc
  | .xcopy h _ _ _ _ _ _ => eccWf h.ecc
  | .xfill h _ _ _ _ _ => eccWf h.ecc
  | .vload h _ _ _ _ _ _ _ => eccWf h.ecc
  | .bsmm h _ => eccWf h.ecc
  | .bsmm2 h _ => eccWf h.ecc
  | .bsmmb h _ => eccWf h.ecc
  | .bxnor h _ => eccWf h.ecc
  | .azero h _ => eccWf h.ecc
  | .adrain h _ _ _ _ _ => eccWf h.ecc
  | .rescale h _ _ _ _ _ _ _ => eccWf h.ecc
  | .range h _ _ => eccWf h.ecc
  | .tempo h _ _ _ => eccWf h.ecc
  | .outsplit h _ _ _ _ => eccWf h.ecc
  | .qprep h _ _ _ _ => eccWf h.ecc
  | .docent h _ _ _ => eccWf h.ecc
  | .gathera h _ _ _ => eccWf h.ecc
  | .catadd h _ _ _ _ => eccWf h.ecc
  | .catflush h _ => eccWf h.ecc
  | .sortnnz h _ _ _ => eccWf h.ecc
  | .deacc h _ _ _ _ => eccWf h.ecc
  | .cvec h _ _ _ _ _ _ => eccWf h.ecc
  | .cred h _ _ _ => eccWf h.ecc
  | .cmm h _ _ _ _ _ => eccWf h.ecc
  | .cfunc h _ _ _ => eccWf h.ecc
  | .cconv h _ _ _ _ => eccWf h.ecc
  | .waitf h _ _ => eccWf h.ecc
  | .waite h _ _ => eccWf h.ecc
  | .setf h _ _ _ => eccWf h.ecc
  | .barrier h _ _ => eccWf h.ecc
  | .signal h _ _ => eccWf h.ecc
  | .wopen h _ _ _ => eccWf h.ecc
  | .wclose h _ => eccWf h.ecc
  | .cput h _ _ _ => eccWf h.ecc
  | .cget h _ _ _ => eccWf h.ecc
  | .cadd h _ _ _ => eccWf h.ecc
  | .ralloc h _ _ => eccWf h.ecc
  | .rfree h _ => eccWf h.ecc
  | .csrr h _ _ => eccWf h.ecc
  | .csrw h _ _ => eccWf h.ecc
  | .trapcfg h _ _ => eccWf h.ecc
  | .instructionAccept _ => true
  | .instructionRetire _ _ ecc => eccWf ecc
  | .arrayRetire _ => true
  | .chunkEnter _ => true
  | .timingErrorReplay _ engines fails => decide (engines.length = fails.length ∧ engines.Nodup)
  | .provenanceSampleDraw _ _ _ _ => true
  | .checkSliceCompare _ _ => true
  | .tileDispatch _ _ _ tds => decide (tds.length ≤ 32)
  | .epilogueDispatch _ _ _ tds => decide (tds.length ≤ 32)
  | .layerStart _ => true
  | .stepDone _ _ => true
  | .tempoPinWrite _ _ _ => true
  | .docentSampleDraw _ _ _ => true
  | .docentSampleResult _ _ _ => true
  | .docentWindowClose _ => true
  | .tagTimeout _ => true
  | .ceLogWindow _ => true
  | .unitPowerUp _ => true
  | .idleGate _ => true
  | .doorbellPointer _ _ => true
  | .doorbellKill _ _ => true
  | .ringEnable _ _ => true
  | .ringDisable _ _ => true
  | .jobFetch _ hm => cellsRise hm
  | .loaderStaticPhase _ hm => cellsRise hm
  | .keySlotLoad _ => true
  | .loaderCopyPhase _ hm => cellsRise hm
  | .jobStart _ => true
  | .jobComplete _ => true
  | .faultReport _ => true
  | .coalesceTimeout _ => true
  | .scrubComplete _ => true
  | .hbmPageScrubDone p => decide (p < 393216)
  | .grantSyncRead => true
  | .mbxOpen _ => true
  | .mbxRelease _ => true
  | .mbxCmdDone => true
  | .mailboxRead off r => decide (1 ≤ r.len ∧ off + r.len ≤ 2 ^ 30) && eccWf r.ecc
  | .bar2Write off => decide (off < 2 ^ 30)
  | .registerWrite (.bar0 off) _ size _ => decide (off + size ≤ 2 ^ 26)
  | .registerWrite (.bar4 off) _ size _ => decide (off + size ≤ 2 ^ 16)
  | .registerWrite (.config _) _ _ _ => true
  | .flr => true
  | .flrComplete => true
  | .d3hotReturn => true
  | .ideLost _ => true
  | .ideSecure _ => true
  | .keyInstall _ _ _ => true
  | .keyRemove _ _ _ _ => true
  | .jobReport _ _ _ _ _ _ => true
  | .getMeasurements _ => true
  | .challenge _ => true
  | .fwupdWrite _ _ _ => true
  | .svnCommit => true
  | .testGo _ _ _ _ => true
  | .profileCommit _ _ _ => true
  | .powerUp _ => true
  | .powerLoss => true
  | .modReset => true
  | .perst => true
  | .bootStart _ _ _ _ fails => fails.all (fun f => targetWf f.1)
  | .ready => true
  | .controllerEvaluation _ diodes => decide (diodes.length = 64)
  | .voltageLoopWindow _ => true
  | .powerClamp => true
  | .clampRelease => true
  | .thermalTrip _ => true
  | .thermalTripClear => true
  | .refclkLoss => true
  | .inputLatchOff _ => true
  | .powerInput _ => true
  | .inputRestored => true
  | .watchdogExpiry _ => true
  | .recoveryStart _ => true
  | .recoveryEnd _ _ => true
  | .inventorySliceDue t => targetWf t
  | .inventoryForce t => targetWf t
  | .inventorySliceEnd t _ => targetWf t
  | .cablePresent _ => true
  | .cableMemoryRead _ _ => true
  | .cableRemoved _ => true
  | .efuseTrip _ => true
  | .efuseRetry _ _ => true
  | .linkTrainingDone _ lanes _ => decide (lanes.length = 16) && lanes.all (fun l => decide (l < 16))
  | .linkAuthenticate _ _ => true
  | .linkSoakEnd _ => true
  | .linkDownEvent _ _ => true
  | .linkRetrain _ => true
  | .linkRekey _ _ => true
  | .flitReceive _ _ _ _ => true
  | .nakResend _ _ => true
  | .packetArrival _ hdr data => dataFits hdr data.bytes && eccWf data.ecc
  | .packetForward _ hdr data => dataFits hdr data
  | .completionReceive _ _ => true
  | .noRouteReceive _ _ => true
  | .e2eTimeout _ => true
  | .heartbeatSend => true
  | .reachabilityTest => true
  | .timePps => true
  | .ppsSyncLost => true
  | .timeSet _ => true
  | .coolantSample _ _ => true
  | .leakSample _ _ => true
  | .mgmtAccess bytes _ _ _ => decide (1 ≤ bytes.length ∧ bytes.length ≤ 135)
  | .vbCommit => true
  | .vbDataRead _ => true
  | .dropPacket => true
  | .vbWmWrite _ => true
  | .heartbeatReceive _ hdr data => dataFits hdr data
  | .getDataReceive _ hdr data => dataFits hdr data
  | .refclkRestored => true
  | .deviceRecoveryTimeout => true
  | .inputWarn _ => true
  | .spdmSessionStart _ => true
  | .dynamicAddressAssign a => decide (a ≠ 0)
  | .dynamicAddressReset => true

end Sys2Proof
end

