-- ==== Sys2Proof/Tests/Slice0.lean ====
section
/-! SUPPORT. The author's own tests: the well-formedness check refuses an ill-formed term of each kind, words written out from the
encoding tables decode to their instructions, and for every statement with hypotheses a state and operands that meet them. -/

open Sys2Proof Sys2Proof.Machine

/-! Small states and operands. -/

/-- A header of core 0 that always executes (p15, R247). -/
def tHdr : NHdr := ⟨0, 15, false, false, []⟩

/-- A core of job 1 that runs a kernel of 64 words, with its whole Salon as one plain region. -/
def tCore : CoreSt :=
  { running := true, klen := 1024, kbase := 0x4000, job := 1, dispatched := true,
    regions := [(1, { valid := true, job := 1, len := 2 ^ 22 })] }

/-- The device in service, with READY and the secure stream that opens BAR0. -/
def tState : State :=
  { State.reset with phase := .service, ide := 1, identity := true,
                     reg := Assoc.put 0 State.resetRegs 0x0008 0x9#64 }

/-- Core 0 runs with the record `c`. -/
def tRun (c : CoreSt) : State := { tState with cores := [(0, c)] }

/-- A tile descriptor: base, format, tensor, rows, KEXT and RSTRIDE as the fields of R249 lie. -/
def tTd (base fmt tensor rows kext rstride : Nat) : TileReg :=
  BitVec.ofNat 256 (base + fmt * 2 ^ 48 + tensor * 2 ^ 112 + rows * 2 ^ 192 + kext * 2 ^ 208 + rstride * 2 ^ 232)

/-- A job of core 0 of cluster 0 that runs. -/
def tJob : Job :=
  { jobId := 77, ring := 0, order := 0, desc := 0, key := 1, cmask := 1, prio := 0, noirq := false, fence := false, mbx := 64,
    epoch := 5, peerset := 0, domain := 0, phase := .running, mapped := 1, cores := [0], cring := 1, started := true }

/-- An entry of a queue of core 0, waiting to issue. -/
def tEntry (i : Instr) (k : QKind) : QEntry := { instr := i, queue := k, iaddr := 0x4000, s := [], td := [] }

/-- `State.reaches` as a Bool. -/
def tReaches (s : State) (n : Nat) (w : MemWork) (cells : List (Nat × Byte)) : Bool :=
  let rl := dedupNat (w.reads.flatMap (fun r => linesOf r.1 r.2))
  let wl := dedupNat (w.writes.flatMap (fun r => linesOf r.1 r.2))
  (s.accessFault n false w.reads).isNone && (s.accessFault n true w.writes).isNone && (rl ++ wl).all (fun a => (s.slotOf a).isNone) &&
    cells.all (fun c => (s.slotOf c.1).isNone) &&
    (conflictScan (w.groups.getD (portGroups rl ++ portGroups wl))).isEmpty && (w.check s.readByte).isNone

/-! The queue, the clock and the Callers. -/

/-- An empty queue with the clock off, and the three cases of MGMT.TIME with the clock on. -/
theorem test_empty_queue_witness :
    (State.reset.pending = [] ∧ State.reset.phase = .powered ∧ Assoc.sorted none tState.clusters = true) ∧
    (tState.pending = [] ∧ tState.phase = .service ∧ tState.hclk % 3 ≠ 2) ∧
    ({ tState with hclk := 2 }.hclk % 3 = 2 ∧ { tState with hclk := 2 }.fld (foy 0x0708) 0 30 + 5 < 1000000000) ∧
    (1000000000 ≤ (({ tState with hclk := 5 } : State).setFld (foy 0x0708) 0 30 999999995).fld (foy 0x0708) 0 30 + 5) := by
  decide +kernel

/-- A core that runs nothing, a squashed instruction within the kernel and at its end, and the three reasons to wait. -/
theorem test_caller_holds_witness :
    (headerOf (.nop tHdr) = some tHdr ∧ (tState.core 0).running = false) ∧
    (readPred tCore.p 0 = false ∧ tCore.pc.toNat + 16 < tCore.klen ∧ tCore.pc.toNat % 16 = 0 ∧ workNop.reserved = false ∧ ((tRun tCore).core 0).running = true) ∧
    (({ tCore with pc := 1008 } : CoreSt).klen ≤ ({ tCore with pc := 1008 } : CoreSt).pc.toNat + 16) ∧
    (((tRun { tCore with queue := [tEntry (.waitf tHdr 0 0) .sync] }).core 0).queue.any QEntry.holds = true) ∧
    ((let q := [tEntry (.qprep tHdr 0 0 0 0) .sparse]
  q ≠ [] ∧ q.any QEntry.holds = false)) ∧
    ((∃ q ∈ [{ tEntry (.tempo tHdr 3 false 0) .precision with sW := [3] }], ∃ r, r ∈ (workMovi 3 0).sR ++ (workMovi 3 0).sW ∧ r ∈ q.sW)) ∧
    ((let w := workCatflush 3
  w.sR = [] ∧ (∀ x, w.sRx x = []) ∧ w.sW = [] ∧ w.tR = [] ∧ w.tW = [] ∧ w.tds = [] ∧ (∀ x, w.reads x = []) ∧ (∀ x, w.writes x = []) ∧
  (∀ x u, w.reqR x u = []) ∧ (∀ x u, w.reqW x u = []) ∧ w.queue = .sparse ∧ queueSize .sparse = 4)) := by
  refine ⟨by decide +kernel, by decide +kernel, by decide +kernel, by decide +kernel, by decide +kernel,
    ⟨_, List.mem_singleton_self _, 3, by decide +kernel, by decide +kernel⟩,
    ⟨rfl, fun _ => rfl, rfl, rfl, rfl, rfl, fun _ => rfl, fun _ => rfl, fun _ _ => rfl, fun _ _ => rfl, rfl, rfl⟩⟩

/-- A reserved ALU operation, an invalid descriptor, another cause at acceptance, and a jump out of the kernel. -/
theorem test_illegal_witness :
    ((workAlu 1 2 3 0x06 false 0).reserved = true ∧ ((tRun tCore).core 0).running = true) ∧
    ((let w := workRange 1 2
  let c := { tCore with td := [(2, tTd 0 0x3F 0 0 0 0)] }
  w.reserved = false ∧ readPred c.p 15 ≠ false ∧ ((tRun c).stall c tHdr w (c.ctx 0 0x41)).isNone = true ∧ 2 ∈ w.tds ∧ (Td.of ((c.ctx 0 0x41).tdreg 2)).valid = false)) ∧
    ((let w := workCsrw 1 0x041
  w.reserved = false ∧ (∀ r ∈ w.tds, (Td.of ((tCore.ctx 0 0xF1).tdreg r)).valid = true) ∧ w.illegal (tCore.ctx 0 0xF1) tCore = some 0x000A)) ∧
    ((let w := workJmp 1
  let c := { tCore with s := [(1, 1024)] }
  w.reserved = false ∧ w.tds = [] ∧ w.opcode ≠ 0x01 ∧ w.illegal (c.ctx 0 2) c = none ∧ c.klen ≤ w.target (c.ctx 0 2) c)) := by
  decide +kernel

/-! Control, scalar and system instructions. -/

/-- NOP, JMP and BR at the last address of the kernel; LOOP with a count of 0 and of 1; ENDL at 1 and 2; SETP of p14 and p15. -/
theorem test_control_witness :
    ((tRun tCore).accepts tHdr workNop = true) ∧
    ((tRun { tCore with s := [(1, 1008)] }).accepts tHdr (workJmp 1) = true) ∧
    ((tRun { tCore with pc := 16 }).accepts tHdr (workBr (-16)) = true ∧ (0 : Int) ≤ ((16 : Half).toNat : Int) + (-16 : BitVec 32).toInt) ∧
    ((tRun tCore).accepts tHdr (workLoop 0 0 false 0 1008) = true) ∧
    ((tRun tCore).accepts tHdr (workLoop 3 0 false 1 0) = true) ∧
    ((tRun { tCore with lcCount := [(3, 1)] }).accepts tHdr (workEndl 3) = true) ∧
    ((tRun { tCore with lcCount := [(3, 2)], lcStart := [(3, 16)] }).accepts tHdr (workEndl 3) = true) ∧
    ((tRun tCore).accepts tHdr (workSetp 14 1 2 0xD false 0) = true ∧ (tRun tCore).accepts tHdr (workSetp 15 1 2 0 true 0) = true) := by
  decide +kernel

/-- MOVI, and ALU with a register and with an immediate. -/
theorem test_movi_alu_witness :
    (tRun tCore).accepts tHdr (workMovi 31 5) = true ∧ (tRun tCore).accepts tHdr (workAlu 1 2 3 0x29 false 0) = true ∧
  (tRun tCore).accepts tHdr (workAlu 0 0 0 0 true 7) = true := by
  decide +kernel

/-- LDTD inside the Salon at its last 32 bytes and just outside it, and TDMOD of every field code. -/
theorem test_descriptor_witness :
    ((let p := salonBase 0 + 2 ^ 22 - 32
  let s := tRun { tCore with s := [(1, BitVec.ofNat 64 p)] }
  s.starts tHdr (workLdtd 1 2 0) = true ∧ inSalon 0 p 32 = true ∧ s.accessFault 0 false [(p, 32)] = none ∧ ∀ l ∈ linesOf p 32, s.slotOf l = none)) ∧
    ((let s := tRun { tCore with s := [(1, BitVec.ofNat 64 (salonBase 1 - 24))] }
  s.starts tHdr (workLdtd 1 2 0) = true ∧ inSalon 0 (salonBase 1 - 24) 32 = false)) ∧
    (∀ f ∈ [0x0#4, 0x1, 0x2, 0x3, 0x4, 0x5, 0x6], (tRun tCore).accepts tHdr (workTdmod 1 2 f true 1) = true) := by
  decide +kernel

/-- CSRR of each register, CSRW of CSR.KEVENT with room, TRAPCFG, and HALT with an empty and with a full queue. -/
theorem test_system_witness :
    (∀ r ∈ [0x000#12, 0x001, 0x002, 0x004, 0x008, 0x009, 0xFFF], (tRun tCore).accepts tHdr (workCsrr 1 r) = true) ∧
    ((tRun tCore).accepts tHdr (workCsrw 1 0x040) = true ∧ ((tRun tCore).vbWait.filter (fun q => q.kind == 3 && q.num == BitVec.ofNat 12 0)).length < 4) ∧
    ((tRun tCore).accepts tHdr (workTrapcfg true false) = true) ∧
    ((tRun tCore).accepts tHdr workHalt = true ∧ tCore.queue = [] ∧ tCore.checkQ = [] ∧ tCore.checkNow = none) ∧
    ((let c := { tCore with queue := [tEntry (.catflush tHdr 0) .sparse] }
  (tRun c).accepts tHdr workHalt = true ∧ c.queue ≠ [])) := by
  decide +kernel

/-! Movement, conversion and stores. -/

/-- The Salon of core 0, and a tile of 2 rows of 4 XU8 codes, or of another format, in it. -/
def tSal : Nat := salonBase 0
/-- Core 0 with the tile registers 1 (destination) and 2 (source) and s1 to s3. -/
def tMove (dst src : TileReg) (s1 s2 s3 : DWord) : State :=
  { tRun { tCore with td := [(1, dst), (2, src)], s := [(1, s1), (2, s2), (3, s3)] } with
    jobs := [(1, tJob)], sram := [(tSal + 0x1000, 3), (tSal + 0x1001, 200), (tSal + 0x1008, 7)] }
/-- The source tile in XU8. -/
def tSrc : TileReg := tTd (tSal + 0x1000) 8 5 1 3 1

/-- A Tempo record of tensor 6, and a state in which it governs the destination tile with width 5, scale 1. -/
def tTempo : TempoRec :=
  { tensor := 6, signed := true, mode := 0, hist := 0, seedValid := true, grouped := false, gsize := 0, wmin := 1, wmax := 7, pinW := 7,
    delta := 0x3F800000, seed := 0, pinS := 0, headroom := 0x3F800000, satLimit := 0, outliers := 0, track := false, list := [] }
def tLayer : Layer :=
  { op := 0, mode := 0, wa := 7, ww := 7, passes := 1, g := 0, path := 0, split := 0, ordHG := 0, ordGS := 0, ordSV := 0, ctv := false,
    lenM := 0, lenN := 0, lenK := 0, w := 0, a := 0, y := 0, ct := 0, m := 15, n := 2047, k := 255, kentry := 0, num := 0, tcount := 0,
    plcount := 0, pladdr := 0, taddr := 0, daddr := 0, caddr := 0, ccount := 0, eentry := 0, args := [], problems := [], tempos := [tTempo],
    docent := none, cats := [] }
def tGovTd : TileReg := tTd (tSal + 0x2000) 0x15 6 1 3 1 ||| BitVec.ofNat 256 (2 ^ 61)
def tGoverned : State :=
  { tMove tGovTd tSrc 0 0 0x3F800000 with
    jobs := [(1, { tJob with layers := [tLayer], tensors := List.replicate 7 { rows := 9, kext := 9 } })],
    reg := Assoc.put 0 (Assoc.put 0 tState.reg (tempoSlot 6 0x20) (BitVec.ofNat 64 (4 * 2 ^ 11))) (tempoSlot 6 0x28) 0x3F800000 }

/-- XCOPY and XFILL of 8 bytes, and of a length off the 8-byte grid. -/
theorem test_copies_witness :
    ((let s := tMove 0 0 (BitVec.ofNat 64 (tSal + 0x1000)) (BitVec.ofNat 64 (tSal + 0x2000)) 8
  s.starts tHdr (workXcopy 1 2 3 false false 0) = true ∧ 8 % 8 = 0 ∧
  tReaches s 0 { reads := [(tSal + 0x1000, 8)], writes := [(tSal + 0x2000, 8)] } (cellsAt (tSal + 0x2000) (s.readBytes (tSal + 0x1000) 8)) = true)) ∧
    ((let s := tMove 0 0 (BitVec.ofNat 64 (tSal + 0x1000)) 16 0xABCD
  s.starts tHdr (workXfill 1 2 3 false 0) = true ∧
  tReaches s 0 { reads := [], writes := [(tSal + 0x1000, 16)] } (cellsAt (tSal + 0x1000) ((List.range 16).map (fun i => BitVec.ofNat 8 (0xABCD / 2 ^ (8 * (i % 8)))))) = true)) ∧
    ((tMove 0 0 (BitVec.ofNat 64 tSal) (BitVec.ofNat 64 tSal) 7).takes tHdr (workXcopy 1 2 3 false false 0) = true) ∧
    ((tMove 0 0 (BitVec.ofNat 64 tSal) 9 0).takes tHdr (workXfill 1 2 3 false 0) = true) := by
  decide +kernel

/-- XLOAD as it is and with conversion, an ungoverned XSTORE, and CCONV, within the Salon. -/
theorem test_tile_moves_witness :
    ((let d := tTd (tSal + 0x2000) 8 6 1 3 1
  let s := tMove d tSrc 0 0 0
  let o := copyTile (Td.of d) (Td.of tSrc) s.readByte
  s.starts tHdr (workXload 1 2 3 false false false) = true ∧ outOfSalon 0 (Td.of d).ranges = none ∧
  tReaches s 0 { reads := ((Td.of tSrc).cutTo (Td.of d)).ranges, writes := (Td.of d).ranges, check := seqCheck ((Td.of tSrc).cutTo (Td.of d)) } o.img = true ∧ o.nan = none ∧
  s.starts tHdr (workXstore 1 2 3 false false false) = true ∧ (Td.of d).spf = 0 ∧ (Td.of d).gov = false ∧ (s.core 0).docY = none)) ∧
    ((let d := tTd (tSal + 0x2000) 0x23 6 1 3 1
  let s := tMove d tSrc 0 0 0x3F000000
  let sc := scaleOf 0x3F000000
  let o := (Td.of d).put s.readByte false sc.1 sc.2 (fun r j => (Td.of tSrc).value s.readByte sc.1 sc.2 r j) (fun _ _ => false)
  s.starts tHdr (workXload 1 2 3 false false true) = true ∧ s.starts tHdr (workCconv 1 2 3 true) = true ∧
  outOfSalon 0 ((Td.of d).ranges ++ ((Td.of tSrc).cutTo (Td.of d)).ranges) = none ∧
  tReaches s 0 { reads := ((Td.of tSrc).cutTo (Td.of d)).ranges, writes := (Td.of d).ranges } o.img = true ∧ o.nan = none)) := by
  decide +kernel

/-- XSTORE in another format and RESCALE of a raw tile, ungoverned and governed. -/
theorem test_store_format_witness :
    ((let d := tTd (tSal + 0x2000) 0x23 6 1 3 1
  let s := tMove d tSrc 0 0 0x3F800000
  let f := s.inForce 0 (Td.of d) 1 0
  let o := f.td.put s.readByte false f.sm f.se (fun r j => (Td.of tSrc).value s.readByte 1 0 r j) (fun _ _ => false)
  (Td.of d).spf = 0 ∧ (s.core 0).docY = none ∧ s.starts tHdr (workXstore 1 2 3 false false false) = true ∧ f.list = [] ∧ f.mute = false ∧
  outOfSalon 0 ((Td.of tSrc).cutTo (Td.of d)).ranges = none ∧
  tReaches s 0 { reads := ((Td.of tSrc).cutTo (Td.of d)).ranges, writes := f.td.ranges } o.img = true ∧ o.nan = none)) ∧
    ((let d := tTd (tSal + 0x2000) 8 6 0 0 1
  let s := tMove d (tTd (tSal + 0x1000) 0x24 5 0 0 1) 0 0 0x3F800000
  let f := s.inForce 0 (Td.of d) 1 0
  let o := f.td.put s.readByte false f.sm f.se (fun _ _ => f32Val (rescaleElem false true 51203 0x3F800000 none).1) (fun _ _ => false)
  s.starts tHdr (workRescale 1 2 3 false true false 0) = true ∧ f.list = [] ∧ f.mute = false ∧ outOfSalon 0 ((Td.of (tTd (tSal + 0x1000) 0x24 5 0 0 1)).cutTo (Td.of d)).ranges = none ∧
  tReaches s 0 { reads := ((Td.of (tTd (tSal + 0x1000) 0x24 5 0 0 1)).cutTo (Td.of d)).ranges, writes := f.td.ranges } o.img = true ∧ o.nan = none)) ∧
    ((let s := tGoverned
  (Td.of tGovTd).gov = true ∧ s.governs 0 6 = some tTempo)) := by
  decide +kernel

/-- VLOAD of a weight tile of 2 rows and of an activation tile, with the slots free. -/
theorem test_vload_witness :
    ((let t := tTd (tSal + 0x1000) 0x14 5 1 3 1
  let c := { tCore with td := [(1, t)] }
  let s := { tRun c with sram := [(tSal + 0x1000, 0x37), (tSal + 0x1008, 0xF1)] }
  (Td.of t).spf = 0 ∧ (Td.of t).grouped = false ∧ s.starts tHdr (workVload 1 0 false 12 0 false 0) = true ∧ c.slotsBusy (slotMask 12 4) 0 = false ∧
  tReaches s 0 { reads := (List.range 16).flatMap (fun e => (Td.of t).engineRanges 0 e), writes := [], groups := some (weightGroups ((Td.of t).engineRanges 0)) } [] = true)) ∧
    ((let t := tTd (tSal + 0x1000) 0x08 5 1 3 1
  let c := { tCore with td := [(1, t)] }
  let s := { tRun c with sram := [(tSal + 0x1000, 0x37), (tSal + 0x1008, 0xF1)] }
  s.starts tHdr (workVload 1 0 true 15 0 false 0) = true ∧ c.slotsBusy 0 (slotMask 15 1) = false ∧
  tReaches s 0 { reads := (Td.of t).winRanges 0 2 0 3, writes := [], groups := some [] } [] = true)) := by
  decide +kernel

/-! Array, precision, sparse and Conservator. -/

/-- Core 0 with XI4 weights in td1 and XU4 activations in td2, their slots FULL, and the fields of a product on tile 3. -/
def tArr (kinds : DWord) (full : BitVec 16) : State :=
  { tRun { tCore with td := [(1, tTd (tSal + 0x1000) 0x14 5 1 3 1), (2, tTd (tSal + 0x2000) 0x04 6 1 3 1)], wFull := full, aFull := full } with
    reg := Assoc.put 0 tState.reg (coreReg 0 0xD8) kinds, jobs := [(1, tJob)] }
def tF (acc : Bool) : ArrayFields := ⟨1, 2, 3, 0, 0, 3, 3, 0, 0, acc, 0, 0⟩

def tDrain (kinds : DWord) : State :=
  { tRun { tCore with td := [(1, tTd (tSal + 0x3000) 0x24 6 0 1 1)], acm := [(intKey 3 0 0, 0x1234), (intKey 3 1 0, 0xFFFFFFFF)] } with
    reg := Assoc.put 0 tState.reg (coreReg 0 0xD8) kinds }
/-- Core 0 with an XU8 tile, an XF16 tile of one column and an outlier list of `n` channels beginning with `k`. -/
def tSplit (n k : Nat) (more : List Host.Cell) (kext : Nat) : State :=
  { tRun { tCore with td := [(1, tTd (tSal + 0x1000) 8 5 0 kext 1), (2, tTd (tSal + 0x2040) 0x23 6 0 0 1)], s := [(3, BitVec.ofNat 64 (tSal + 0x3080))] } with
    sram := (if k = 0 then [(tSal + 0x1000, 3), (tSal + 0x1001, 200), (tSal + 0x3080, BitVec.ofNat 8 n)]
      else [(tSal + 0x1000, 3), (tSal + 0x1001, 200), (tSal + 0x3080, BitVec.ofNat 8 n), (tSal + 0x3088, BitVec.ofNat 8 k)]) ++ more }
/-- The memory that OUTSPLIT touches there. -/
def tSplitWork (s : State) : MemWork :=
  { reads := [(tSal + 0x3080, 8 + 4 * listCount s.readByte (tSal + 0x3080)), (tSal + 0x1000, 4)], writes := [(tSal + 0x1000, 8), (tSal + 0x2040, 8)] }

/-- A product ready on a CLEAR tile and on its own kind, one on a tile of another kind, and one whose slots are empty. -/
theorem test_product_witness :
    ((let s := tArr 0 0xFFFF; let x := (s.core 0).ctx 0 0x30
  s.accepts tHdr (workProduct 0x30 (tF false)) = true ∧ (s.core 0).starts .array true = true ∧ (s.core 0).unitsBusy (unitMask [3]) = false ∧
  (arrSlots (tF false) x).1 &&& ~~~0xFFFF#16 = 0 ∧ (arrSlots (tF false) x).2 &&& ~~~0xFFFF#16 = 0)) ∧
    ((tArr 0x40 0xFFFF).accepts tHdr (workProduct 0x30 (tF true)) = true ∧ (tArr 0x40 0xFFFF).fld (coreReg 0 0xD8) 6 2 = 1) ∧
    ((tArr 0x80 0xFFFF).accepts tHdr (workProduct 0x30 (tF true)) = true ∧ (tArr 0x80 0xFFFF).fld (coreReg 0 0xD8) 6 2 = 2) ∧
    ((let s := tArr 0 0; (s.accepts tHdr (workProduct 0x30 (tF true)) = true ∧ (arrSlots (tF true) ((s.core 0).ctx 0 0x30)).1 &&& ~~~0#16 ≠ 0))) := by
  decide +kernel

/-- AZERO with its units free, ADRAIN of an integer tile, and of a tile of mixed kinds. -/
theorem test_azero_adrain_witness :
    ((tArr 0x40 0).takes tHdr (workAzero 8) = true ∧ ((tArr 0x40 0).core 0).unitsBusy 8 = false) ∧
    ((let d := tTd (tSal + 0x3000) 0x24 6 0 1 1
  let s := tDrain 0x40
  s.starts tHdr (workAdrain 1 2 3 false 0) = true ∧ (s.core 0).unitsBusy (unitMask (tileUnits false 3)) = false ∧ (Td.of d).map = false ∧
  (∀ u ∈ tileUnits false 3, s.fld (coreReg 0 0xD8) (2 * u) 2 = 1) ∧ outOfSalon 0 [(tSal + 0x3000, 8)] = none ∧
  tReaches s 0 { reads := [], writes := [(tSal + 0x3000, 8)] } [(tSal + 0x3000, 0)] = true)) ∧
    (((tDrain 0x80).accepts tHdr (workAdrain 1 2 3 false 0) = true ∧ ((tDrain 0x80).core 0).starts .array false = true ∧ ((tDrain 0x80).core 0).unitsBusy 8 = false ∧ (∃ u ∈ tileUnits false 3, (tDrain 0x80).fld (coreReg 0 0xD8) (2 * u) 2 ≠ 0) ∧
  ∃ u ∈ tileUnits false 3, (tDrain 0x80).fld (coreReg 0 0xD8) (2 * u) 2 ≠ 1)) := by
  decide +kernel

/-- RANGE of a tile in the Salon, and TEMPO of a governed and of an ungoverned tensor. -/
theorem test_range_tempo_witness :
    (tGoverned.starts tHdr (workRange 4 2) = true ∧
  tReaches tGoverned 0 { reads := (Td.of tSrc).allRanges tGoverned.readByte, writes := [], check := fun rd => seqCheck (Td.of tSrc) rd } [] = true ∧ (Td.of tSrc).spf = 0) ∧
    (tGoverned.takes tHdr (workTempo 4 true 6) = true ∧ jobTempo { tJob with layers := [tLayer] } 6 = some tTempo ∧ jobWide { tJob with layers := [tLayer] } 6 < 4) ∧
    (tGoverned.takes tHdr (workTempo 4 false 7) = true ∧ tGoverned.governs 0 7 = none) := by
  decide +kernel

/-- OUTSPLIT of one channel, with a list that breaks R115, and with one longer than the destination. -/
theorem test_outsplit_witness :
    ((let s := tSplit 1 0 [] 3
  s.starts tHdr (workOutsplit 1 2 3 false) = true ∧ tReaches s 0 (tSplitWork s) [] = true ∧ listOk (listOf s.readByte (tSal + 0x3080)) 4 = true ∧ (listOf s.readByte (tSal + 0x3080)).length ≤ 1)) ∧
    ((let s := tSplit 1 4 [] 3
  s.starts tHdr (workOutsplit 1 2 3 false) = true ∧ tReaches s 0 (tSplitWork s) [] = true ∧ listOk (listOf s.readByte (tSal + 0x3080)) 4 = false)) ∧
    ((let s := tSplit 2 0 [(tSal + 0x308C, 1)] 3
  s.starts tHdr (workOutsplit 1 2 3 false) = true ∧ tReaches s 0 (tSplitWork s) [] = true ∧ listOk (listOf s.readByte (tSal + 0x3080)) 4 = true ∧ 1 < (listOf s.readByte (tSal + 0x3080)).length)) := by
  decide +kernel

/-- A sparse tile of SPF code `spf` with its metadata at +0x4000, and a core whose Salon holds the headers of R44 for it. -/
def tQd (spf : Nat) : TileReg := tTd (tSal + 0x1000) 0x14 5 1 3 1 ||| BitVec.ofNat 256 (spf * 2 ^ 54 + (tSal + 0x4040) * 2 ^ 128)
def tQ (spf : Nat) : State :=
  { tRun { tCore with td := [(1, tQd spf)], s := [(2, BitVec.ofNat 64 (tSal + 0x5000))] } with
    sram := [(tSal + 0x1000, 0x50), (tSal + 0x1001, 0x14), (tSal + 0x1002, 5), (tSal + 0x1008, 2), (tSal + 0x4040, 0x30), (tSal + 0x4041, 0x14),
      (tSal + 0x4042, 5)] }
/-- A Docent record of one neuron, and a job that holds slot 3 with it. -/
def tDocRec : DocRec :=
  { inTensor := 5, uncal := false, adapt := true, rank := 0, neurons := 0, tau := 0, tauStep := 0x3F800000, tauMin := 0xC0000000, eps := 0x3F800000,
    topk := 0, uAddr := 0, vAddr := 64, sigmaU := 0x3F800000, sigmaV := 0x3F800000 }
def tDocJob : Job := { tJob with pages := [0], modelPages := 1, docSlots := [3], layers := [{ tLayer with k := 3, tempos := [] }] }
def tDoc : State :=
  { tMove 0 tSrc 0 0 0 with
    cores := [(0, { tCore with td := [(1, tSrc)], s := [(2, BitVec.ofNat 64 (tSal + 0x3080))] })], jobs := [(1, tDocJob)],
    docent := [(3, { job := 1, rc := some tDocRec, window := 4, limit := 100 })] }
def tGath (rows : List FeRow) : State :=
  { tMove 0 tSrc 0 0 0 with cores := [(0, { tCore with td := [(1, tTd (tSal + 0x2080) 8 6 1 1 1), (2, tSrc)], quad := { rows := rows } })] }
/-- A tile of words, in a Hall where tensor 5 is registered with `extent` words. -/
def tCat (measuring : Bool) (extent : Nat) : State :=
  { tRun { tCore with td := [(1, tTd (tSal + 0x1000) 0x24 5 0 1 1)], measuring := measuring } with
    sram := [(tSal + 0x1000, 3)], jobs := [(1, tJob)], halls := [(0, { regs := [⟨5, false, 0x1000, extent, 1⟩] })] }
/-- An FE row table of two rows with 3 entries of `total`. -/
def tSort (total : Byte) : State :=
  { tRun { tCore with s := [(1, BitVec.ofNat 64 (tSal + 0x1000)), (2, BitVec.ofNat 64 (tSal + 0x2080))] } with
    sram := [(tSal + 0x1008, 2), (tSal + 0x1010, total), (tSal + 0x1044, 1), (tSal + 0x1048, 1), (tSal + 0x104C, 2)] }
/-- A 4 × 4 tile of binary32 values, in a cluster that serves, with its Deaccession unit running or not. -/
def tDeacc (frozen : Bool) : State :=
  { tRun { tCore with td := [(1, tTd (tSal + 0x1000) 0x24 5 3 3 2)], s := [(2, BitVec.ofNat 64 (tSal + 0x2280)), (3, BitVec.ofNat 64 (tSal + 0x3180))] } with
    sram := [(tSal + 0x1002, 0x80), (tSal + 0x1003, 0x3F), (tSal + 0x100E, 0x80), (tSal + 0x100F, 0x3F)],
    clusters := [(0, { job := 1, startup := frozen })], reg := Assoc.put 0 tState.reg (foy 0x0008) 1 }
def tCons : State :=
  { tRun { tCore with td := [(1, tTd (tSal + 0x3100) 0x24 7 0 1 1), (2, tTd (tSal + 0x1000) 0x24 5 0 1 1), (3, tTd (tSal + 0x2080) 0x24 6 0 1 1)] } with
    sram := [(tSal + 0x1003, 0x40), (tSal + 0x2082, 0x40), (tSal + 0x2083, 0x40)] }

/-- QPREP of an F24 operand whose record passes its check, and of an FE operand without rows. -/
theorem test_qprep_witness :
    ((let s := tQ 1
  (Td.of (tQd 1)).spf ≠ 6 ∧ s.starts tHdr (workQprep 1 2 0 0) = true ∧
  tReaches s 0 { reads := (Td.of (tQd 1)).metaRanges s.readByte 0 ++ (Td.of (tQd 1)).dataRanges s.readByte 0, writes := [], groups := some [], check := fun rd => (Td.of (tQd 1)).metaCheck rd 0 } [] = true)) ∧
    ((let s := tQ 6
  let e := (List.range 1).map (fun i => sortEntry s.readByte (tSal + 0x5000) i)
  (Td.of (tQd 6)).spf = 6 ∧ s.starts tHdr (workQprep 1 2 0 0) = true ∧
  tReaches s 0 { reads := (tSal + 0x5000, 16) :: (Td.of (tQd 6)).feRanges s.readByte e, writes := [], groups := some [], check := fun rd => (Td.of (tQd 6)).feCheck rd ((List.range 1).map (fun i => sortEntry rd (tSal + 0x5000) i)) } [] = true)) := by
  decide +kernel

/-- DOCENT of a slot that the job holds and of one that it does not, GATHERA of a union that fits and of one that does not. -/
theorem test_docent_gathera_witness :
    ((let s := tDoc
  s.starts tHdr (workDocent 1 2 3) = true ∧ s.docHeld 3 1 = some tDocRec ∧ s.job 1 = some tDocJob ∧
  tReaches s 0 { reads := (Td.of tSrc).ranges, writes := [(tSal + 0x3080, 8), (tSal + 0x30C0, 8)], check := seqCheck (Td.of tSrc) } [(tSal + 0x3080, 1), (tSal + 0x30C0, 1)] = true)) ∧
    (tDocJob.docDim (tDoc.docX 3).layer = 4) ∧
    (tDoc.takes tHdr (workDocent 1 2 4) = true ∧ tDoc.docHeld 4 1 = none) ∧
    ((let s := tGath [⟨0, [(1, 9), (3, 8)]⟩]
  s.starts tHdr (workGathera 1 2 3) = true ∧ (unionOf (s.core 0).quad.rows).length = 2 ∧
  tReaches s 0 { reads := (Td.of tSrc).ranges, writes := ({ Td.of (tTd (tSal + 0x2080) 8 6 1 1 1) with kext := 1 } : Td).ranges } [] = true)) ∧
    ((tGath [⟨0, [(1, 9), (2, 1), (3, 8)]⟩]).takes tHdr (workGathera 1 2 3) = true ∧ 1 + 1 < (unionOf ((tGath [⟨0, [(1, 9), (2, 1), (3, 8)]⟩]).core 0).quad.rows).length) := by
  decide +kernel

/-- CATADD in a measuring pass, of a registered tensor, of one that is not, and at its extent; CATFLUSH in both passes. -/
theorem test_catalogue_witness :
    ((let s := tCat true 8
  s.starts tHdr (workCatadd 1 2 5 4) = true ∧ ({ Td.of (tTd (tSal + 0x1000) 0x24 5 0 1 1) with fmt := 0x24, scale := 0, spf := 0 } : Td).map = false ∧
  tReaches s 0 { reads := ({ Td.of (tTd (tSal + 0x1000) 0x24 5 0 1 1) with fmt := 0x24, scale := 0, spf := 0 } : Td).ranges, writes := [] } [] = true ∧ (s.core 0).measuring = true)) ∧
    ((let s := tCat false 2
  s.starts tHdr (workCatadd 1 2 5 4) = true ∧ (s.core 0).measuring = false ∧ s.catReg 0 5 1 = some ⟨5, false, 0x1000, 2, 1⟩ ∧
  (let q := s.catAdd 0 false false 5 0 3
  let r := q.1.catAdd 0 false false 5 1 0
  q.2.sat = false ∧ q.2.nan = false ∧ r.2.sat = false ∧ r.2.nan = false))) ∧
    ((tCat false 2).catReg 0 6 1 = none ∧ (tCat false 2).starts tHdr (workCatadd 1 2 6 4) = true) ∧
    ((tCat false 0).catReg 0 5 1 = some ⟨5, false, 0x1000, 0, 1⟩) ∧
    ((tCat true 8).takes tHdr (workCatflush 5) = true) ∧
    ((let s := { tCat false 8 with halls := [(0, { cat := [(7, [⟨5, 3, 9, false, 0⟩, ⟨6, 1, 1, false, 0⟩])], regs := [⟨5, false, 0x1000, 8, 1⟩] })], hbm := (List.range 32).map (fun i => (0x1000 + i, 0)) }
  s.takes tHdr (workCatflush 5) = true ∧ (s.flush 0 false (fun e => e.tensor == 5) 0).2 = { sat := false, nan := false })) := by
  decide +kernel

/-- SORTNNZ of a row table that keeps R154 and of one that breaks it; DEACC running, frozen with a mask, and frozen without. -/
theorem test_sort_deacc_witness :
    ((let s := tSort 3
  s.starts tHdr (workSortnnz 1 2 0) = true ∧ rowTableOk s.readByte (tSal + 0x1000) = true ∧
  tReaches s 0 { reads := [(tSal + 0x1000, 80)], writes := [(tSal + 0x2080, (sortOutput s.readByte (tSal + 0x1000)).length)], groups := some [] } [] = true)) ∧
    ((tSort 4).starts tHdr (workSortnnz 1 2 0) = true ∧ rowTableOk (tSort 4).readByte (tSal + 0x1000) = false) ∧
    ((let s := tDeacc false
  s.starts tHdr (workDeacc 1 2 3 true) = true ∧ s.starts tHdr (workDeacc 1 2 3 false) = true ∧ s.frozen 0 = 0 ∧
  tReaches s 0 { reads := (Td.of (tTd (tSal + 0x1000) 0x24 5 3 3 2)).ranges ++ [(tSal + 0x3180, 1)], writes := [(tSal + 0x2280, 1)] } [(tSal + 0x2280, 0)] = true)) ∧
    ((let s := tDeacc true
  s.starts tHdr (workDeacc 1 2 3 true) = true ∧ s.starts tHdr (workDeacc 1 2 3 false) = true ∧ s.frozen 0 ≠ 0 ∧
  tReaches s 0 { reads := [(tSal + 0x3180, 1)], writes := [(tSal + 0x2280, 1)] } [(tSal + 0x2280, 0)] = true)) := by
  decide +kernel

/-- CVEC, CRED, CMM and CFUNC on tiles of the Salon: the tiles may be reached, and CVEC's result is exact. -/
theorem test_conservator_witness :
    ((let s := tCons
  s.starts tHdr (workCvec 1 2 3 0 false 0) = true ∧ s.starts tHdr (workCred 1 2 0) = true ∧ s.starts tHdr (workCmm 1 2 3 false 0) = true ∧ s.starts tHdr (workCfunc 1 2 0) = true)) ∧
    ((let s := tCons
  let x := Td.of (tTd (tSal + 0x1000) 0x24 5 0 1 1)
  let y := Td.of (tTd (tSal + 0x2080) 0x24 6 0 1 1)
  let d := Td.of (tTd (tSal + 0x3100) 0x24 7 0 1 1)
  outOfSalon 0 (x.ranges ++ y.ranges ++ d.ranges) = none ∧ tReaches s 0 { reads := x.ranges ++ y.ranges, writes := d.ranges } [(tSal + 0x3100, 0)] = true)) ∧
    ((let s := tCons
  let d := Td.of (tTd (tSal + 0x3100) 0x24 7 0 1 1)
  let o := COut.put ({} : COut) d false s.readByte 0 0 (cvecOp 0 0x40000000 0x40400000 0)
  o.nan = false ∧ o.conv = none)) := by
  decide +kernel

/-! Synchronisation, windows, transfers and the queues. -/

/-- Core 0 with a circular region of 2 slots of 256 bytes at the start of its Salon and a plain one behind it, entries 1 and 2, the slots of `full` FULL. -/
def tCirc (full : List Nat) (head tail : Word) (s1 : DWord) : State :=
  { tRun { tCore with
      regions := [(1, { valid := true, circ := true, job := 1, len := 512, head := head, tail := tail, full := full }),
        (2, { valid := true, job := 1, base := 512, len := 512 })],
      s := [(1, s1)], td := [(1, tTd tSal 8 5 0 0 1 ||| BitVec.ofNat 256 (2 ^ 176))] } with jobs := [(1, tJob)] }

/-- A window record of 64 bytes of HBM with rights 5 in the Salon, and one window open. -/
def tWin : State :=
  { tRun { tCore with s := [(1, BitVec.ofNat 64 (tSal + 0x1000))] } with
    jobs := [(1, tJob)], pages := [(0, { job := 1 })], sram := [(tSal + 0x1006, 0x40), (tSal + 0x100B, 5)],
    halls := [(0, { windows := [(0, { isOpen := true, len := 64, job := 1, epoch := 5 })] })] }
/-- A packet that the window's owner has admitted and that waits for a tag. -/
def tArrival : Arrival :=
  { hdr := { dest := 0, type := 0, src := 9, hops := 0, seq := 0, peerset := 6, epoch := 5, window := 0, job := 1, offset := 0, bytes := 3,
             atype := false, ftz := false, spf := 0, fmt := 0, index := 0, count := 0, status := 0, intSat := false, nanSeen := false, ordOff := 0, ordLen := 0 },
    data := [1, 2, 3, 4], win := (0, 0), link := none, since := 0, done := [] }
/-- A transfer request of 8 bytes for offset 16 of window 6 of device `dest`, with the job's peer set. -/
def tXfer (dest : Byte) (peerset : Word) : State :=
  { tRun { tCore with s := [(1, BitVec.ofNat 64 (tSal + 0x1000))] } with
    jobs := [(1, { tJob with peerset := peerset })],
    sram := [(tSal + 0x1000, dest), (tSal + 0x1002, 6), (tSal + 0x1004, 16)] ++
      (cellsAt (tSal + 0x1009) (leBytes 6 (tSal + 0x2040))).filter (fun c => c.2 != 0) ++ [(tSal + 0x1010, 8), (tSal + 0x2040, 0xAA)],
    reg := Assoc.put 0 (Assoc.put 0 (Assoc.put 0 tState.reg (foy 0x0100) 0x1001) (routeEntry 2 0) 0x80000027) (linkReg 7 0) 5 }

/-- WAITF, WAITE and SETF of the last slot of a circular region, FULL and EMPTY, and of an address in no slot. -/
theorem test_tags_witness :
    ((let s := tCirc [1] 0 0 (BitVec.ofNat 64 (tSal + 504))
  s.namedSlot 0 (tSal + 504) = .inl (0, 1, 1) ∧ s.slotFull (0, 1, 1) = true ∧ s.takes tHdr (workWaitf 1 0) = true ∧ s.starts tHdr (workWaite 1 0) = true ∧ s.takes tHdr (workSetf 1 false 0) = true)) ∧
    ((let s := tCirc [] 0 0 (BitVec.ofNat 64 (tSal + 504))
  s.namedSlot 0 (tSal + 504) = .inl (0, 1, 1) ∧ s.slotFull (0, 1, 1) = false ∧ s.starts tHdr (workWaitf 1 0) = true ∧ s.takes tHdr (workWaite 1 0) = true)) ∧
    ((let s := tCirc [] 0 0 (BitVec.ofNat 64 (tSal + 512))
  s.accessFault 0 true [(tSal + 512, 1)] = none ∧ s.slotOf (tSal + 512) = none ∧ s.takes tHdr (workWaitf 1 0) = true ∧ s.takes tHdr (workWaite 1 0) = true ∧ s.takes tHdr (workSetf 1 true 0) = true)) ∧
    ((let s := tCirc [] 0 0 (BitVec.ofNat 64 (2 ^ 47))
  s.accessFault 0 true [(2 ^ 47, 1)] ≠ none ∧ s.takes tHdr (workWaitf 1 0) = true ∧ s.takes tHdr (workWaite 1 0) = true ∧ s.takes tHdr (workSetf 1 true 0) = true)) := by
  decide +kernel

/-- A first and a completing arrival at a barrier, a released one, SIGNAL with room and with a full queue. -/
theorem test_barrier_signal_witness :
    ((tRun tCore).starts tHdr (workBarrier 255 3) = true ∧ ((tRun tCore).hall 0).barriers = [] ∧ (1 : BitVec 64) &&& 3 ≠ 3) ∧
    ((let s := { tRun tCore with halls := [(0, { barriers := [⟨1, 255, 3, 2⟩] })] }
  s.starts tHdr (workBarrier 255 3) = true ∧ (2 ||| 1 : BitVec 64) &&& 3 = 3)) ∧
    ((let s := { tRun tCore with halls := [(0, { barriers := List.replicate 256 ⟨2, 255, 3, 2⟩ })] }
  s.starts tHdr (workBarrier 255 3) = true ∧ ((s.hall 0).barriers.find? (fun b => decide (b.job = 1 ∧ b.id = 255))) = none ∧ 256 ≤ (s.hall 0).barriers.length)) ∧
    ((let c := { tCore with waits := [{ iaddr := 0x4000, opcode := 0x73, since := 0, aux := 0, timed := true, done := [1] }] }
  (tRun c).takes tHdr (workBarrier 255 3) = true ∧ (c.waitOf c.iaddr 0x73).map (fun w => w.done) = some [1])) ∧
    ((tRun tCore).takes tHdr (workSignal 1 5) = true ∧ ((tRun tCore).cluster 0).events.length < 16) ∧
    ((let s := { tRun tCore with clusters := [(0, { events := List.replicate 16 (1, 1) })] }
  s.starts tHdr (workSignal 1 5) = true ∧ 16 ≤ (s.cluster 0).events.length)) := by
  decide +kernel

/-- RALLOC with a free slot and full, RFREE with a slot and empty, WOPEN of HBM, WCLOSE of an open window and of none. -/
theorem test_regions_windows_witness :
    ((let s := tCirc [] 1 0 0
  s.circRegion 0 (Td.of (Assoc.get 0 (s.core 0).td 1)) = some (0, 1) ∧ s.takes tHdr (workRalloc 2 1) = true ∧ s.takes tHdr (workRfree 1) = true ∧ (s.regionAt 0 1).slots = 2 ∧ (1 - 0 : Word).toNat ≠ 2)) ∧
    ((let s := tCirc [] 2 0 0; (s.starts tHdr (workRalloc 2 1) = true ∧ ((s.regionAt 0 1).head - (s.regionAt 0 1).tail).toNat = (s.regionAt 0 1).slots))) ∧
    ((let s := tCirc [] 2 2 0; (s.takes tHdr (workRfree 1) = true ∧ (s.regionAt 0 1).head = (s.regionAt 0 1).tail))) ∧
    ((let s := tWin
  let w := windowRecord (leNat (s.readBytes (tSal + 0x1000) 32))
  s.starts tHdr (workWopen 1 2 0) = true ∧ tReaches s 0 { reads := [(tSal + 0x1000, 32)], writes := [], groups := some [] } [] = true ∧ s.windowFits 0 1 w = true ∧ s.job 1 = some tJob ∧
  (Assoc.get {} (s.hall 0).windows 0).isOpen = true ∧ (Assoc.get {} (s.hall 0).windows 1).isOpen = false ∧ tJob.winRecs.length ≤ 1 ∧
  (s.findWindow (fun y => y.isOpen && decide (y.job.toNat = 1 ∧ y.number = 0))).isSome = true ∧ (s.findWindow (fun y => y.isOpen && decide (y.job.toNat = 1 ∧ y.number = 1))).isSome = false)) ∧
    ((let s := { tWin with cores := [(0, tCore)] }
  s.starts tHdr (workWclose 1) = true ∧ (s.findWindow (fun w => w.isOpen && decide (w.job = 1 ∧ handleOf w = 0))).isSome = true ∧ s.arrivals = [])) ∧
    ((let s := { tWin with cores := [(0, tCore)], arrivals := [tArrival] }
  s.starts tHdr (workWclose 1) = true ∧ (s.findWindow (fun w => w.isOpen && decide (w.job = 1 ∧ handleOf w = 0))).map (fun w => (w.1, w.2.1)) = some (0, 0) ∧ tArrival.win = (0, 0))) ∧
    ((let v : Wait := { iaddr := 0x4000, opcode := 0x76, since := 0, aux := 0, timed := false, done := [0, 0] }
  let s := tRun { tCore with waits := [v] }
  s.takes tHdr (workWclose 1) = true ∧ (s.core 0).waitOf 0x4000 0x76 = some v ∧ s.arrivals = [])) ∧
    (tWin.starts tHdr (workWclose 1) = true ∧ tWin.findWindow (fun w => w.isOpen && decide (w.job = 1 ∧ handleOf w = (BitVec.ofNat 64 (tSal + 0x1000)).setWidth 16)) = none) := by
  decide +kernel

/-- A transfer that all packets have answered, one to another device without a peer set, and one that sends. -/
theorem test_transfers_witness :
    ((let s := { tXfer 2 0 with xfers := [(4, ⟨0, 0x4000, 0x77, 2, 1, 0, none, 0⟩)] }
  s.takes tHdr (workXfer 0x77 1 2 0) = true ∧ s.xfers.find? (fun y => decide (y.2.core = 0 ∧ y.2.iaddr = 0x4000 ∧ y.2.opcode = 0x77)) = some (4, ⟨0, 0x4000, 0x77, 2, 1, 0, none, 0⟩) ∧
  s.xfers.find? (fun z => z.1 == 4) = some (4, ⟨0, 0x4000, 0x77, 2, 1, 0, none, 0⟩) ∧ s.sent = [])) ∧
    ((let s := tXfer 2 0
  s.starts tHdr (workXfer 0x77 1 2 0) = true ∧ s.xfers = [] ∧ s.accessFault 0 false [(tSal + 0x2040, 8)] = none ∧ xferAligned 0x77 (xferReq (leNat (s.readBytes (tSal + 0x1000) 32))) = true ∧
  tReaches s 0 { reads := [(tSal + 0x1000, 32), (tSal + 0x2040, 8)], writes := [], groups := some [] } [] = true ∧ s.isSelf 2 = false ∧ (2 : Nat) ≠ s.node ∧
  (xferReq (leNat (s.readBytes (tSal + 0x1000) 32))).dest = 2 ∧ (s.core 0).measuring = false ∧ s.job 1 = some { tJob with peerset := 0 })) ∧
    ((let s := { tXfer 2 9 with cores := [(0, { (tXfer 2 9).core 0 with measuring := true })] }
  s.starts tHdr (workXfer 0x77 1 2 0) = true ∧ s.starts tHdr (workXfer 0x79 1 2 0) = true ∧ (s.core 0).measuring = true ∧
  tReaches s 0 { reads := [(tSal + 0x1000, 32), (tSal + 0x2040, 8)], writes := [], groups := some [] } [] = true)) ∧
    ((let s := tXfer 2 9
  s.starts tHdr (workXfer 0x77 1 2 0) = true ∧ s.starts tHdr (workXfer 0x78 1 2 0) = true ∧ s.starts tHdr (workXfer 0x79 1 2 0) = true ∧ s.assigned = true ∧
  (xferReq (leNat (s.readBytes (tSal + 0x1000) 32))).length = 8 ∧ (xferReq (leNat (s.readBytes (tSal + 0x1000) 32))).offset = 16 ∧ s.route 2 0 = some (0, 7) ∧ s.xfers = [] ∧ s.sent = [] ∧
  s.accessFault 0 true [(tSal + 0x2040, 8)] = none ∧ xferAligned 0x79 (xferReq (leNat (s.readBytes (tSal + 0x1000) 32))) = true ∧
  tReaches s 0 { reads := [(tSal + 0x1000, 32)], writes := [], groups := some [] } [] = true ∧
  tReaches s 0 { reads := [(tSal + 0x1000, 32), (tSal + 0x2040, 8)], writes := [], groups := some [] } [] = true)) ∧
    ((let s := { tXfer 2 9 with links := [(7, { waiting := [⟨tArrival.hdr, tArrival.data, none⟩] })] }
  (s.link 7).waiting.any (fun v => classOf v.hdr == 0) = true ∧ (tXfer 2 9).link 7 = {} ∧ ((tXfer 2 9).link 7).ready 0 tArrival.hdr 8 = true)) := by
  decide +kernel

/-- Acceptance of a scalar and of a queued instruction and of a reserved opcode; retirement of TEMPO and of a finished product. -/
theorem test_accept_retire_witness :
    ((let s := tRun { tCore with kbuf := [(0, 0x07 + 15 * 2 ^ 8)] }
  Nupor.decodeWord 0 (Assoc.get 0 (s.core 0).kbuf 0) = some (.movi tHdr 0 0) ∧ (workMovi 0 0).queue = .scalar)) ∧
    ((let s := tRun { tCore with kbuf := [(0, 0x42 + 15 * 2 ^ 8)] }
  Nupor.decodeWord 0 (Assoc.get 0 (s.core 0).kbuf 0) = some (.tempo tHdr 0 false 0) ∧ (workTempo 0 false 0).queue ≠ .scalar ∧ s.accepts tHdr (workTempo 0 false 0) = true)) ∧
    (Nupor.decodeWord 0 0x0B = none ∧ tCore.queue.any QEntry.holds = false) ∧
    ((let q := tEntry (.tempo tHdr 4 true 6) .precision
  let s := { tGoverned with cores := [(0, { tGoverned.core 0 with queue := [q] })] }
  let w := workTempo 4 true 6
  (s.core 0).queue = [] ++ q :: [] ∧ q.queue = .precision ∧ w.product = false ∧ (s.core 0).stopped = false ∧ (s.core 0).halting = false ∧
  (match w.issue ⟨0, q.iaddr, 0x42, [], []⟩ s, w.run ⟨0, q.iaddr, 0x42, [], []⟩ s with | .done _, .done t => decide ((t.core 0).halting = false) | _, _ => false) = true)) ∧
    ((let q := tEntry (.waitf tHdr 1 0) .sync
  let s := tCirc [] 0 0 (BitVec.ofNat 64 (tSal + 504))
  (match (workWaitf 1 0).run ⟨0, q.iaddr, 0x70, [(1, BitVec.ofNat 64 (tSal + 504))], []⟩ { s with cores := [(0, { s.core 0 with queue := [q] })] } with | .wait _ _ => true | _ => false) = true)) ∧
    ((let q := { tEntry (.bsmm tHdr (tF true)) .array with td := ((tArr 0x40 0xFFFF).core 0).td, issued := true, chunk := 1, chunks := 1 }
  q.issued = true ∧ (productOf q.instr).isSome = true ∧ q.chunks ≤ q.chunk)) := by
  decide +kernel

/-- A dense integer product with a chunk to enter. -/
theorem test_chunk_witness :
    (let s := tArr 0x40 0xFFFF
  let q := { tEntry (.bsmm tHdr (tF true)) .array with td := (s.core 0).td, issued := true, chunks := 1 }
  q.chunk < q.chunks ∧ arrNch (tF true) ⟨0, q.iaddr, 0x30, q.s, q.td⟩ = 1 ∧ (s.core 0).stopped = false ∧ (tF true).mode = 0 ∧ (tF true).sparse = 0 ∧ (s.core 0).intTrap = false) := by
  decide +kernel

/-- A slice of the quarter 1 of engine 3 of a small product, its slots as the check engine computes them. -/
def tSlice : Slice :=
  let x : Slice :=
    { iaddr := 0x4000, engine := 3, quarter := 1, fields := tF true, s := [], td := ((tArr 0x40 0xFFFF).core 0).td, chunk := 0,
      wRow := [(wKey 0 3 32, 3)], wMask := [], aUnit := [(aKey 0 0, 1)], slots := [] }
  { x with slots := x.recompute 0 }

/-- A replay beside a product, a draw at a period's start, and a comparison in service. -/
theorem test_replay_provenance_witness :
    ((let q := { tEntry (.bsmm tHdr (tF true)) .array with td := ((tArr 0x40 0xFFFF).core 0).td, issued := true, chunks := 1 }
  [q].any QEntry.computing = true ∧ [q].find? QEntry.computing = some q ∧ (∃ x ∈ timesOf [0, 2] [3, 3], x ≠ 0) ∧ (∀ x ∈ timesOf [0, 2] [3, 3], x < 4) ∧
  (timesOf [0, 1] [3, 4])[1]? = some 4 ∧ (∀ i, i < 1 → (timesOf [0, 1] [3, 4])[i]?.getD 0 < 4))) ∧
    (tCore.provCount = 0 ∧ tCore.provDraw = none ∧ 1023 < 2 ^ tCore.provS) ∧
    (({ tCore with checkNow := some (.slice tSlice) } : CoreSt).checkNow = some (.slice tSlice) ∧ tCore.halting = false ∧
  (∀ p ∈ (tSlice.handed []).zip (tSlice.recompute 0), p.1 = p.2) ∧ (∃ p ∈ (tSlice.handed [(1, 2, 0)]).zip (tSlice.recompute 0), p.1 ≠ p.2)) := by
  decide +kernel

/-! Curators, Tempo, Docent and the memories. -/

/-- A layer of one small product without records, and a running job of core 0 with it. -/
def tL : Layer := { tLayer with op := 1, wa := 3, ww := 3, m := 15, n := 3, k := 255, y := 2, w := 0, a := 1, tempos := [] }
def tLJob : Job := { tJob with layers := [tL], tensors := List.replicate 3 { rows := 15, kext := 255, fmt := 4 } }
/-- Core 0 idle and serving, for the job `j`. -/
def tIdle (j : Job) : State :=
  { tRun { tCore with running := false } with
    jobs := [(1, j)], clusters := [(0, { job := 1 })], reg := Assoc.put 0 tState.reg (foy 0x0008) 0xFFFFFFFF }

def tDesc : JobDesc := { version := 1, layers := 1, freeze := false, reps := 1, tensors := 3, klen := 64, kimg := 0, mimg := 0, mlen := 0, ttab := 0, ltab := 0, wtab := 0, wcount := 0, lens := [0] }
/-- A job that splits its one item over two cores, its parts landed. -/
def tSplitJob : Job := { tLJob with layers := [{ tL with split := 2, k := 65535 }], cores := [0, 1], splitDone := [(0, 2)] }

/-- A job whose layer has a Docent record of three neurons in slot 3, core 0 running its tile with no active neuron. -/
def tDrawJob : Job := { tDocJob with layers := [{ tL with m := 0, n := 3, k := 3, lenN := 9, lenM := 9, lenK := 9, docent := some tDocRec }], tensors := List.replicate 3 { rows := 3, kext := 3, fmt := 4, bytes := 64 }, jd := some tDesc }
def tDraw (dense : Bool) : State :=
  { tIdle tDrawJob with
    hbm := (List.range 256).map (fun a => (a, 0)),
    reg := Assoc.put 0 (tIdle tDrawJob).reg (docentSlot 3 0) (if dense then BitVec.ofNat 64 (2 ^ 40) else 0),
    docent := [(3, { job := 1, rc := some tDocRec, window := 4, limit := 100, dense := dense, periods := [(0, { count := 4, segs := [(0, 6)] })] })],
    cores := [(0, { tCore with tile := some { layer := 0, item := 0, part := 0 } })] }
/-- A request for the sample that is drawn there. -/
def tSample : Sample := { slot := 3, layer := 0, aRow := 0, wRow := 0, kl := 4, t := 0x3F800000, ct := none }
/-- A job of one tile of one position and channel, whose A tile goes to the start of the Salon. -/
def tOneJob : Job :=
  { tLJob with jd := some tDesc, layers := [{ tL with m := 0, n := 0, k := 7, lenN := 9, lenM := 9, lenK := 9 }], tensors := List.replicate 3 { rows := 0, kext := 7, fmt := 4, bytes := 8 } }
def tOne (full : List Nat) : State :=
  { tIdle tOneJob with
    cores := [(0, { tCore with running := false, regions := [(1, { valid := true, circ := true, job := 1, len := 512, full := full })] })],
    hbm := (List.range 64).map (fun a => (a, if a = 0 then 5 else 0)) }
def tOneTd : TileReg := tTd tSal 4 1 0 7 1

/-- A job that has not begun its first layer, one between two layers, and one whose Docent decision is due. -/
theorem test_layer_start_witness :
    (({ tLJob with started := false } : Job).nextLayer = some (0, 0) ∧ ({ tLJob with started := false } : Job).layers[0]? = some tL ∧ (tIdle tLJob).windowOpen { tLJob with started := false } 0 = false ∧ (tIdle tLJob).job 1 = some tLJob ∧ tLJob.cores.Nodup) ∧
    ((let j := { tLJob with layers := [tL, tL], layerDone := 1, docSlots := [3] }
  j.nextLayer = some (1, 0) ∧ j.layers[1]? = some tL)) ∧
    ((let j := { tDocJob with layers := [{ tL with docent := some tDocRec }], started := false }
  let s := { tDoc with docent := [(3, { job := 1, rc := some tDocRec, window := 0, limit := 100 })], jobs := [(1, j)] }
  j.nextLayer = some (0, 0) ∧ s.windowOpen j 0 = true)) ∧
    ({ tDrawJob with started := false }.docentOf 0 = some (3, tDocRec) ∧ (tDraw false).windowOpen { tDrawJob with started := false } 0 = false) := by
  decide +kernel

/-- A dispatch whose tile is staged, one whose tile waits for a tag, one whose position is not scored yet, a skipped item, and an epilogue. -/
theorem test_dispatch_witness :
    ((let s := tOne []; let j := tOneJob; let k := s.core 0
  k.tile = none ∧ s.job k.job.toNat = some j ∧ s.coreReady 0 j = true ∧ 0 ∈ j.cores ∧ k.nextItem = 0 ∧ j.layer = 0)) ∧
    ((let s := tOne []; let l := { tL with m := 0, n := 0, k := 7, lenN := 9, lenM := 9, lenK := 9 }
  ((s.workNow tOneJob l)[0]?).any (fun i => !i.skip && s.scored 0 tOneJob i && !(s.inQuarantine (Assoc.get 0 tOneJob.kaddr 0 + l.kentry)) &&
  (match s.stageAll 1 0 tOneJob l (s.fillTds 0 tOneJob l i [0, tOneTd]) with | .done u => u != s | _ => false)) = true)) ∧
    ((let s := tOne [0]; let l := { tL with m := 0, n := 0, k := 7, lenN := 9, lenM := 9, lenK := 9 }
  ((s.workNow tOneJob l)[0]?).any (fun i => !i.skip && (match s.stageAll 1 0 tOneJob l (s.fillTds 0 tOneJob l i [0, tOneTd]) with | .waits => true | _ => false)) = true)) ∧
    ((let s := tDraw false; let l := { tL with m := 0, n := 3, k := 3, lenN := 9, lenM := 9, lenK := 9, docent := some tDocRec }
  ((s.workNow tDrawJob l)[0]?).any (fun i => !i.skip && !(s.scored 0 tDrawJob i)) = true)) ∧
    ((let j := { tLJob with jd := some tDesc }
  let l := { tL with lenN := 0 }
  (((tIdle j).workNow j l)[0]?).map (fun i => i.skip) = some true)) ∧
    ((let j := tSplitJob; let l := { tL with split := 2, k := 65535 }
  let work := (tIdle j).workNow j l
  (∀ m ∈ j.cores, ((tIdle j).core m).tile = none) ∧ Assoc.get 0 j.splitDone 0 = partsOf work 0 ∧
  (work.find? (fun x => x.item == 0 && x.split && !x.skip)).any (fun i =>
  match (tIdle j).stageAll 1 0 j l ((tIdle j).fillTds 0 j l (i.whole j l) []) with | .done _ => true | _ => false) = true)) := by
  decide +kernel

/-- A Curator's report of a governed tensor and of the layer, and the decisions for an estimate of 0 and for a widening at WMAX. -/
theorem test_step_decision_witness :
    ((let l := { tL with y := 6, tempos := [tTempo] }
  let j := { tLJob with layers := [l], mapped := 3 }
  j.started = true ∧ l.produced.find? (fun r => r.tensor == 6) = some tTempo ∧ 6 ∉ j.closed ∧ ((0 ||| BitVec.ofNat 32 (2 ^ 0)) &&& j.mapped ≠ j.mapped) ∧ bitAt j.mapped.toNat 0 = true)) ∧
    (tL.produced = [] ∧ tLJob.docentOf tLJob.layer = none ∧ ({ tIdle tLJob with cores := [(0, { tCore with running := false, nextItem := 1 })] }).clusterDone 0 tLJob [] = true) ∧
    (tTempo.wmin ≤ tTempo.wmax ∧ f32Eq 0 0 = true ∧ f32Eq 0x47000000 0 = false) := by
  decide +kernel

/-- A pin by firmware with a valid and with a bad scale, and one behind a host write; a draw that goes to the check engine, one of a dense run, one dropped, one of a period that is drawn; both kinds of results. -/
theorem test_pins_samples_witness :
    (tState.phase = .service ∧ tState.claimed (tempoSlot 6 0x30) .firmware = 0 ∧ ¬(fget (0x3F80000000000009#64) 3 1 = 1 ∧ f32PosFinite (BitVec.ofNat 32 (fget (0x3F80000000000009#64) 32 32)) = false)) ∧
    (fget 8 3 1 = 1 ∧ f32PosFinite (BitVec.ofNat 32 (fget 8 32 32)) = false ∧ tState.vbWait = []) ∧
    (~~~(({ tState with written := [(tempoSlot 6 0x30, BitVec.allOnes 64, 2)] } : State).claimed (tempoSlot 6 0x30) .firmware) = 0) ∧
    ((let s := tDraw false; let x := s.docX 3
  s.job 1 = some tDrawJob ∧ tDrawJob.docentOf tDrawJob.layer = some (3, tDocRec) ∧ (s.core 0).running = true ∧ tDrawJob.measure = false ∧ tDrawJob.phase = .running ∧
  (s.tileInactive 0 tDrawJob x).any (fun y => decide (y.2.2[2]? = some (2, 0))) = true ∧ x.dense = false ∧ ((tDraw true).docX 3).dense = true ∧
  ((Assoc.get {} x.periods 0).periodOf ((s.core 0).docBase + 2)) = 0 ∧ (0 : Nat) ∉ (Assoc.get {} x.periods 0).drawn ∧ (s.core 0).checkNow = none ∧ (s.core 0).checkQ = [])) ∧
    ((let s := { tDraw false with cores := [(0, { (tDraw false).core 0 with checkNow := some (.sample tSample) })] }
  (s.docX 3).rc = some tDocRec ∧ s.sampleOn 3 0 = some tSample ∧ (s.core 0).halting = false ∧ (tDrawJob.layers[tSample.layer]?).isSome = true)) ∧
    ((let s := { tDraw true with docent := [(3, { (tDraw true).docX 3 with due := [{ core := 0, pos := 0, ch := 0, y := some 0xBFC00000 }] })] }
  (s.docX 3).rc = some tDocRec ∧ (s.docX 3).due = [{ core := 0, pos := 0, ch := 0, y := some 0xBFC00000 }])) := by
  decide +kernel

/-- A slot whose window has its samples. -/
theorem test_docent_window_witness :
    (tDoc.docX 3).rc = some tDocRec ∧ (tDoc.docX 3).window ≤ (tDoc.setFld (docentSlot 3 0x10) 32 8 4).fld (docentSlot 3 0x10) 32 8 := by
  decide +kernel

/-- A wait past TAG_TIMEOUT, gated units, and idle units with GATE_EN. -/
theorem test_memory_units_witness :
    (({ tCore with waits := [{ iaddr := 0x4000, opcode := 0x70, since := 0, aux := 5, timed := true }] } : CoreSt).waits.any (fun w => w.timed && decide (w.since + 600 * max 1 (tState.fld (foy 0x00B0) 0 32) < 6000001)) = true ∧ tState.arrivals = []) ∧
    ((tState.setFld (hallMem 3 0x30) 47 1 1).fld (hallMem 3 0x30) 47 1 = 1 ∧ (255 : Nat) ∈ ({ tState with salonGate := [255] } : State).salonGate) ∧
    ((tState.setFld (foy 0x0008) 63 1 1).fld (foy 0x0008) 63 1 = 1 ∧ tState.clusterPermanent 31 = false ∧ tState.phase ≠ .safe) ∧
    (tState.fld (foy 0x0610) 16 1 = 1 ∧ regionsClear (tState.hall 0).regions (47 * 2 ^ 22) (2 ^ 22) = true ∧ tState.coreClear 255 = true ∧ (List.range 8).all (fun i => tState.coreClear (8 * 31 + i)) = true ∧ tState.hallIdle 3 = true) := by
  decide +kernel

/-! Rings, jobs and their end. -/

/-- Ring 3 submits 4 entries to ring 5, which takes 8 records; TAIL of ring 3 and the state codes given. -/
def tRings (st3 st5 head tail : Nat) : State :=
  let f := fun (r : Assoc DWord) (x : Nat × Nat) => Assoc.put 0 r x.1 (BitVec.ofNat 64 x.2)
  { tState with
    reg := foldOver f tState.reg
      [(ringReg 3 0, 0x20000), (ringReg 3 8, 1 + 2 + 2 * 8 + 5 * 256), (ringReg 3 0x10, head + tail * 2 ^ 32), (ringReg 3 0x20, st3),
       (ringReg 5 0, 0x30000), (ringReg 5 8, 1 + 4 + 3 * 8), (ringReg 5 0x10, 4 + 10 * 2 ^ 32), (ringReg 5 0x20, st5),
       (grantReg 0 0, 0x10000), (grantReg 0 8, 0x11 + 2 ^ 48 + 2 ^ 49)] }

/-- Rings that are on, in error and off; a pointer within and beyond the size; a kill; enables and disables. -/
theorem test_rings_witness :
    ((tRings 1 1 0 0).doorbellOpen 3 = true ∧ ringType (tRings 1 1 0 0) 3 = 1 ∧ ptrDiff 4 (ringHead (tRings 1 1 0 0) 3) ≤ ringSize (tRings 1 1 0 0) 3 ∧ ringSize (tRings 1 1 0 0) 3 < ptrDiff 5 (ringHead (tRings 1 1 0 0) 3) ∧ ringState (tRings 1 1 0 0) 3 = 1 ∧ ((tRings 1 1 0 0).vbWait.filter (fun q => q.kind == 5)).length < 4) ∧
    ((tRings 1 1 0 0).doorbellOpen 5 = true ∧ ringState (tRings 1 1 0 0) 5 = 1 ∧ ringType (tRings 1 1 0 0) 5 = 2 ∧ ptrDiff (ringTail (tRings 1 1 0 0) 5) 2 ≤ ringSize (tRings 1 1 0 0) 5 ∧ ringSize (tRings 1 1 0 0) 5 < ptrDiff (ringTail (tRings 1 1 0 0) 5) 1) ∧
    (ringState (tRings 3 1 0 0) 3 = 3 ∧ ringState (tRings 0 1 0 0) 3 = 0) ∧
    ({ tRings 1 1 0 0 with jobs := [(1, { tJob with ring := 3 })] }.ringJob 3 77 = some (1, { tJob with ring := 3 })) ∧
    ((let x : Report := ⟨1, 0x0203, 4, 9, 0, [], 0⟩
  let s := { tRings 1 1 0 0 with jobs := [(1, { tJob with ring := 3 })], reports := [x] }
  s.reports.count x = 1 ∧ x.extra = [] ∧ ({ tJob with ring := 3 } : Job).phase = .running ∧ s.job 1 = some { tJob with ring := 3 } ∧ (tRings 1 1 0 0).reports = [])) ∧
    ((let s := (tRings 0 1 0 0).setFld (ringReg 3 8) 0 1 0
  s.hostOpen (ringReg 3 8) = true ∧ s.fld (ringReg 3 8) 0 1 = 0 ∧ ringState s 3 = 0 ∧ fget (1 + 2 + 14 * 8 + 5 * 256) 0 1 = 1 ∧ fget (1 + 2 + 14 * 8 + 5 * 256) 1 2 = 1 ∧ s.fld (ringReg 5 8) 0 1 = 1 ∧ ringType s 5 = 2)) ∧
    ((tRings 1 1 0 0).fld (ringReg 3 8) 0 1 = 1 ∧ (tRings 1 1 0 0).fld (ringReg 5 8) 0 1 = 1 ∧ ((tRings 1 1 0 0).setFld (ringReg 5 0x20) 16 16 1).fld (ringReg 5 0x20) 16 16 ≠ 0 ∧ (tRings 1 1 0 0).fld (ringReg 5 0x20) 16 16 = 0) := by
  decide +kernel

/-- The entry of a job without a mailbox that names key 9 and cluster 0, and its fetch. -/
def tEntryWord : Nat := 77 + 0x10000 * 2 ^ 64 + 9 * 2 ^ 128 + 1 * 2 ^ 160 + 3 * 2 ^ 192 + 255 * 2 ^ 208
def tKey (once : Bool) : VKey := ⟨9, 0, once, 0⟩
def tFetch (keys : List VKey) : State := { tRings 1 1 0 1 with keys := keys, hostMem := cellsAt 0x20000 (leBytes 64 tEntryWord) }
/-- A job of one tensor and one elementwise layer, in host memory at 0x10000. -/
def tJobBytes : Nat := 1 + 2 ^ 32 + 16 * 2 ^ 96 + 0x10240 * 2 ^ 128 + 0x10100 * 2 ^ 320 + 0x10140 * 2 ^ 384
def tTensorBytes : Nat := 1 + 0x24 * 2 ^ 10 + 64 * 2 ^ 128 + 3 * 2 ^ 192
def tLayerBytes : Nat := 2 + 15 * 2 ^ 36 + 15 * 2 ^ 40 + 15 * 2 ^ 44 + 3 * 2 ^ 136
def tFetched (mask : Word) : State :=
  { (tRings 1 1 1 1).setFld (foy 0x0008) 0 32 0xFFFFFFFF with
    jobs := [(1, { tJob with phase := .fetched, mapped := 0, cmask := mask, desc := 0x10000, started := false, cores := [], mbx := 255 })],
    hostMem := cellsAt 0x10000 (leBytes 256 tJobBytes) ++ cellsAt 0x10100 (leBytes 64 tTensorBytes) ++ cellsAt 0x10140 (leBytes 256 tLayerBytes) ++
      cellsAt 0x10240 (leBytes 16 1) }

/-- A ring without an entry, one whose entry passes check 0, one whose entry names no installed key. -/
theorem test_fetch_witness :
    ((tRings 1 1 0 0).fetchable 3 = false) ∧
    ((tFetch [tKey true]).fetchable 3 = true) ∧
    ((tFetch [tKey true]).freeHandle = some 1) ∧
    ((let s := tFetch [tKey true]
  let v := (s.learn []).hostNat ((s.rget (ringReg 3 0)).toNat + ringHead s 3 % ringSize s 3 * 64) 64
  v = tEntryWord ∧ (s.learn []).check0 1 (entryJob 3 s.fetches 5 0 v) v = [] ∧ s.vaultKey (entryJob 3 s.fetches 5 0 v).key 0 = some (tKey true))) ∧
    ((let s := tFetch []
  let v := (s.learn []).hostNat ((s.rget (ringReg 3 0)).toNat + ringHead s 3 % ringSize s 3 * 64) 64
  (s.learn []).check0 1 (entryJob 3 s.fetches 5 0 v) v ≠ [])) := by
  decide +kernel

/-- A job whose checks all pass, and one that maps to no cluster. -/
theorem test_static_phase_witness :
    ((tFetched 1).job 1 = some { tJob with phase := .fetched, mapped := 0, cmask := 1, desc := 0x10000, started := false, cores := [], mbx := 255 }) ∧
    ((let s := tFetched 1
  let u := (s.learn []).bump (foy 0xC8) 1
  let ld := u.readJob 0 0x10000
  (1 : Word) &&& BitVec.setWidth 32 (s.rget (foy 0x0008)) = 1 ∧ Chk.run u 0 { ld := ld, mapped := 1, cores := u.positions 1 } = [])) ∧
    ((0 : Word) &&& BitVec.setWidth 32 ((tFetched 0).rget (foy 0x0008)) = 0) := by
  decide +kernel

/-- Such a job checked, then with its key loaded, then with its images copied. -/
def tChecked : State :=
  { (tRings 1 1 1 1).setFld (foy 0x0008) 0 32 0xFFFFFFFF with
    jobs := [(1, { tJob with phase := .checked, cores := [0, 1, 2, 3, 4, 5, 6, 7], mbx := 255, jd := some { tDesc with klen := 16, kimg := 0x10240 }, tensors := [{ mem := 1, fmt := 0x24, bytes := 64, kext := 3 }], layers := [{ tLayer with op := 2, tempos := [] }] })],
    hostMem := cellsAt 0x10240 (leBytes 16 1) }
def tLoaded : State :=
  match exec (.keySlotLoad 1) tChecked with
  | .next t => t
  | _ => tState
def tCopied : State :=
  match exec (.loaderCopyPhase 1 []) tLoaded with
  | .next t => t
  | _ => tState

/-- A checked job with room and without, its copy phase, and its start. -/
theorem test_loading_witness :
    ((tChecked.job 1).any (fun j => decide (j.phase = .checked ∧ j.keyLoaded = false ∧ tChecked.allocate 1 j ≠ none))) ∧
    ((tChecked.job 1).any (fun j => decide (({ tChecked with keySlots := (List.range 64).map (fun n => (n, 7)) } : State).allocate 1 j = none))) ∧
    ((tLoaded.job 1).any (fun j => j.jd.any (fun jd => decide (j.phase = .checked ∧ j.keyLoaded = true ∧ tLoaded.copyGrants j jd = [] ∧ tLoaded.check12 j jd (tLoaded.hostBytes jd.kimg jd.klen) = []) && j.tensors.all (fun x => !x.zero) && j.layers.all (fun l => l.tempos.isEmpty) && decide (j.pages.Nodup ∧ jd.mlen ≤ j.pages.length * 2 ^ 21) && j.kaddr.all (fun e => decide (2 ^ 40 ≤ e.2)) && j.pages.all (fun p => decide (p < 393216)) && decide (j.kaddr.length = 1)))) ∧
    ((tLoaded.job 1).any (fun j => j.jd.any (fun jd => decide (tLoaded.check12 { j with layers := [{ tL with docent := some tDocRec }] } jd [] ≠ [])))) ∧
    ((tCopied.job 1).any (fun j => decide (j.phase = .copied ∧ tCopied.fencedUnit j = none ∧ tCopied.canStart 1 j = true) && tCopied.jobs.all (fun k => !(tCopied.canStart k.1 k.2 && tCopied.before k.2 j)) && j.cores.all (fun n => decide (n < 256)))) ∧
    ((tCopied.job 1).any (fun j => decide (({ tCopied with clusters := [(0, { job := 3 })] } : State).canStart 1 j = false ∧ (tCopied.setFld (foy 0x0008) 0 32 2).fencedUnit j ≠ none))) := by
  decide +kernel

/-- A job of ring 3 and core 0, with a page, a key slot, a Gallery region, a window and a registration in Hall 0. -/
def tEndJob (phase : JobPhase) : Job := { tLJob with ring := 3, cring := 5, mbx := 255, phase := phase, pages := [7], keySlots := [(0, 5)], jd := some tDesc, layerDone := 1 }
def tEnds (phase : JobPhase) : State :=
  let f := fun (r : Assoc DWord) (x : Nat × Nat) => Assoc.put 0 r x.1 (BitVec.ofNat 64 x.2)
  { tRings 1 1 1 1 with
    reg := foldOver f (tRings 1 1 1 1).reg [(0x0020, 2 + 2 ^ 16), (ringReg 3 0x20, 1 + 2 ^ 16), (ringReg 5 0x20, 1 + 3 * 2 ^ 16 + 10 * 2 ^ 32)],
    jobs := [(1, tEndJob phase)], keySlots := [(5, 1), (6, 2)], hbm := [(7 * 2 ^ 21, 1), (8 * 2 ^ 21, 2)], pages := [(7, { job := 1, keySlot := 5 })],
    cores := [(0, { tCore with waits := [{ iaddr := 0, opcode := 0x70, since := 0, aux := 5, timed := false }] }), (9, tCore)], clusters := [(0, { job := 1 })],
    halls := [(0, { windows := [(4, { isOpen := true, job := 1, len := 64 })], barriers := [⟨1, 3, 3, 1⟩, ⟨2, 3, 3, 1⟩],
                    regions := [(3, { valid := true, job := 1, base := 0x400000, len := 64 }), (4, { valid := true, job := 2, base := 0x500000, len := 64 })] })],
    sram := [(galBase 0 + 0x400000, 1), (galBase 0 + 0x500000, 2), (salonBase 0 + 5, 3)],
    xfers := [(1, ⟨0, 0, 0x74, 1, 1, 1, none, 0⟩), (2, ⟨9, 0, 0x74, 1, 2, 1, none, 0⟩)] }

/-- A running job and one that has not started, whose rings differ and whose Halls hold no registration of it. -/
theorem test_job_end_witness :
    ((tEnds .running).job 1 = some (tEndJob .running) ∧ (tEndJob .running).scrubbed = false ∧ (tEndJob .running).cring ≠ (tEndJob .running).ring ∧ (tEndJob .running).phase ≠ .ended ∧ [0, 1, 2, 3].all (fun g => ((tEnds .running).hall g).regs.all (fun r => decide (r.job ≠ 1))) = true) ∧
    ((tEnds .checked).job 1 = some (tEndJob .checked) ∧ (tEndJob .checked).scrubbed = false ∧ (tEndJob .checked).phase ≠ .ended ∧ (tEndJob .checked).phase ≠ .running) := by
  decide +kernel

/-- A job whose last layer of its last step is done, without and with a report; one and two reports of a running job; a report of no job. -/
theorem test_reports_witness :
    ((let s := tEnds .running
  s.job (1 : Half).toNat = some (tEndJob .running) ∧ (tEndJob .running).layer + 1 = (tEndJob .running).layers.length ∧ (tEndJob .running).step + 1 = tDesc.reps ∧ (tEndJob .running).layerDone = (tEndJob .running).mapped ∧ (tEndJob .running).measure = false ∧ s.reports = [] ∧ s.arrivals = [] ∧ (s.arrivalWin { tArrival with win := (0, 4) }).job = 1)) ∧
    (([(⟨1, 0x0203, 0, 9, 0, [], 0⟩ : Report), ⟨1, 0x0202, 0, 8, 0, [], 0⟩].map (fun r => r.unit)).Nodup) ∧
    ((let s := tEnds .running
  (((s.endJob 1 1 0x0202 0 8 0 .write).vbWait.filter (fun q => q.kind == 0 && q.num == 0)).length < 4))) ∧
    ((let s := tEnds .checked
  s.job 2 = none ∧ (s.vbWait.filter (fun q => q.kind == 0 && q.num == 0)).length < 4)) := by
  decide +kernel

/-- The running job ended, its scrub under way; and one whose record waits. -/
def tEnded : State := (tEnds .running).endJob 1 0 0 0 0 0 .write
def tHeld : State := (tEnds .running).endJob 1 0 0 0 0 0 .hold

/-- A job in quarantine, a mailbox in quarantine, and a record whose time has come, its vector free and masked. -/
theorem test_scrub_witness :
    (tEnded.scrubs.find? (fun e => e.1 == (1 : Half).toNat) = some (1, { tEndJob .running with phase := .ended }) ∧ (tEndJob .running).cores.all (fun n => decide (n < 256)) = true) ∧
    (tHeld.scrubs = [] ∧ (tHeld.job 1).any (fun j => decide (j.phase = .ended ∧ j.scrubbed = false ∧ j.pendingRec ≠ none) && j.cores.all (fun n => decide (n < 256))) = true) ∧
    (({ (tRings 1 1 1 1).setFld (mbxReg 63 0) 0 2 2 with halls := [(0, { regions := [(3, { valid := true, owner := 1, quar := true, len := 4096 })] })] } : State).mbxRegion 63 = some (0, 3)) ∧
    ((let s := { (tRings 1 1 1 1).setFld (ringReg 5 0x18) 16 16 2 with coal := [(10, 1), (11, 100)], hclk := 1300 }
  0 < Assoc.get 0 s.coal 10 ∧ Assoc.get 0 s.coal 11 + 600 * max 1 (s.fld (ringReg 5 0x18) 16 16) ≤ s.hclk)) := by
  decide +kernel

/-- BAR2 of 64 windows of 64 KiB, mailbox 2 open on region 3 of Hall 1 with slots of 256 bytes, of which slot 1 is full. -/
def tMbx : State :=
  let f := fun (r : Assoc DWord) (x : Nat × Nat) => Assoc.put 0 r x.1 (BitVec.ofNat 64 x.2)
  { tState with
    bar2Size := 2 ^ 22, reg := foldOver f tState.reg [(mbxReg 2 0, 1 + 4 + 2 ^ 32), (mbxReg 2 8, galBase 1 + 0x400000), (mbxReg 2 0x10, 99)],
    halls := [(1, { regions := [(3, { valid := true, circ := true, owner := 1, base := 0x400000, len := 4096, head := 1, tail := 1, full := [1, 2] })] })],
    sram := [(galBase 1 + 0x400000 + 256, 5), (galBase 1 + 0x400000 + 511, 6)] }

/-- OPEN of a bad and of a good size, of an open mailbox and of a closed one; RELEASE; reads of a full slot, of an empty one, beyond; a write. -/
theorem test_mailbox_witness :
    (tMbx.hostOpen 0x1010 = true ∧ tMbx.hostOpen 0x1008 = true ∧ tMbx.fld 0x1018 0 1 = 0 ∧ (tMbx.setFld 0x1018 0 1 1).fld 0x1018 0 1 = 1 ∧ tMbx.fld (mbxReg 2 0) 0 2 = 1 ∧ tMbx.fld (mbxReg 3 0) 0 2 = 0 ∧ tMbx.mbxRegion 2 = some (1, 3)) ∧
    ((let n := 4096 * 2
  n ≤ tMbx.mbxWindow ∧ n % 2 ^ (8 + 4) = 0 ∧ galSpace (tMbx.hall 1).regions n 4096 = some 0x401000 ∧ (tMbx.regionAt 257 0).valid = false)) ∧
    (tMbx.setFld (mbxReg 2 0x18) 1 15 0 = tMbx ∧ State.reset.hostOpen 0x1008 = false ∧ ({ tMbx.setFld 0x1000 0 1 1 with ide := 0 } : State).carried 2 0 = false ∧ tMbx.vbWait = []) ∧
    (tMbx.eccFatal ⟨galBase 1 + 0x400100, 3, 3⟩ = true) ∧
    (({ tMbx with mbxBusy := some (0, 3) } : State).mbxBusy = some (0, 3)) ∧
    ((let o := 256 + 248
  let off := 2 * 65536 + o
  off / tMbx.mbxWindow = 2 ∧ off % tMbx.mbxWindow = o ∧ off % 8 = 0 ∧ off + 8 ≤ tMbx.bar2Size ∧ tMbx.carried 2 off = true ∧ o + 8 ≤ 4096 * tMbx.fld (mbxReg 2 0) 32 32 ∧ (tMbx.regionAt 257 3).quar = false ∧ o / 256 ∈ (tMbx.regionAt 257 3).full ∧ o + 8 = (o / 256 + 1) * (tMbx.regionAt 257 3).slotSize ∧ 0 ∉ (tMbx.regionAt 257 3).full)) := by
  decide +kernel

/-! Registers, resets, security and start-up. -/

/-- A W1C and an RW register, a locked field, the limits of PROV_CTL, a writer that may not, an access off its size. -/
theorem test_register_write_witness :
    ((0x30 : Nat) % 8 = 0 ∧ (0x30 : Nat) ∉ [0x1010, 0x400018, 0x400020, 0x02000108, 0x02000210, 0x02000710, 0x02000720, 0x02000738] ∧ takenAs.all (fun x => x.1 ≠ 0x30) = true ∧ tState.hostOpen 0x30 = true ∧ Assoc.get 0 tState.locks 0x30 = 0 ∧ tState.claimed 0x30 .host = 0 ∧
  ({ tState with written := [(0x30, 1, 2)] } : State).claimed 0x30 .firmware = 1) ∧
    (({ tState with locks := [(0x02000040, 1)] } : State).hostOpen 0x02000040 = true ∧ Assoc.get 0 [(0x02000040, (1 : DWord))] 0x02000040 &&& (regInfo 0x02000040).rwl ≠ 0 ∧ tState.vbWait = []) ∧
    (tState.endpointOpen 0x400028 = true ∧ tState.phase = .service ∧ pcieOnly 0x02000040 = false) ∧
    (tState.hostOpen 0x02000048 = true ∧ Assoc.get 0 tState.locks 0x02000048 = 0 ∧ tState.claimed 0x02000048 .host = 0) ∧
    (tState.carried 4 0x18 = true ∧ ({ tState.setFld 0x1000 0 1 1 with ide := 0 } : State).carried 4 0x18 = false ∧ tState.fld 0x0008 4 1 = 0 ∧ (tState.setFld 0x0008 4 1 1).fld 0x0008 4 1 = 1 ∧
  fget (0 : DWord) 32 1 = 0 ∧ fget (Assoc.get 0 [(4096, (2 : DWord))] 4096) 1 1 = 1) ∧
    (State.reset.hostOpen 0x2000 = false ∧ tState.endpointOpen (0x2000 / 8 * 8) = false ∧ pcieOnly (0x1000 / 8 * 8) = true) := by
  decide +kernel

/-- Powered with a running job; FLR_BUSY set; the last of the secure streams with and without IDE_REQUIRED; a held record. -/
theorem test_flr_witness :
    ((tEnds .running).phase ≠ .off ∧ (tState.setFld 0x0008 4 1 1).fld 0x0008 4 1 = 1) ∧
    ((tEnds .running).jobs.all (fun e => e.2.docSlots.all (fun n => decide (n < 1024)) && e.2.layers.all (fun l => l.tempos.all (fun q => decide (q.tensor < 4096)))) = true) ∧
    (({ tState with phase := .off } : State).phase = .off) ∧
    (tState.ide.getLsbD 0 = true ∧ (tState.setFld 0x1000 0 1 1).fld 0x1000 0 1 = 1 ∧ tState.fld 0x1000 0 1 = 0 ∧ ({ tState with ide := 0x101 } : State).ide.getLsbD 8 = true ∧ ({ tState with sessions := 2 } : State).sessions.getLsbD 1 = true ∧ tState.sessions.getLsbD 1 = false) ∧
    (({ tEndJob .ended with pendingRec := some (2, 0, 0, 0, 0) } : Job).pendingRec ≠ none) := by
  decide +kernel

/-- Powered and identified, with session 2 open and key 9 in the vault. -/
def tVault : State := { tState with sessions := 4, keys := [tKey true] }
def tReq (handle : Word) (flags : Byte) (reserved : BitVec 56) (material : Digest) : KeyReq := ⟨0, handle, flags, reserved, material⟩

/-- Requests of each kind inside a session; an update and a commit; attempts at test access. -/
theorem test_vault_witness :
    (tVault.spdm = true ∧ tVault.inSession 2 true = true ∧ tVault.vaultKey 9 0 = some (tKey true) ∧ tVault.vaultKey 8 0 = none ∧ tVault.keys.Nodup ∧ tVault.reportedJob 3 77 = none ∧ (tReq 8 1 0 5).flags.toNat < 2) ∧
    (bitsOf (5 : Digest).toNat 0 256 ≠ bitsOf (5 : Digest).toNat 256 256 ∧ bitsOf (0 : Digest).toNat 0 256 = bitsOf (0 : Digest).toNat 256 256 ∧ 4096 ≤ ({ tVault with keys := List.replicate 4096 (tKey false) } : State).keys.length) ∧
    (({ tEnds .running with sessions := 4 } : State).reportedJob 3 77 = some (1, tEndJob .running, false, 0, 0)) ∧
    ((let cmd : DWord := BitVec.ofNat 64 (64 * 2 ^ 32)
  tState.hostOpen (foy 0x0210) = true ∧ fget cmd 32 32 ≤ 2 ^ 25 ∧ fget cmd 32 32 % 64 = 0 ∧ (tRings 0 0 0 0).grantGap 0 false 0x10000 64 = none)) ∧
    ((tState.flash.svnFused ≤ (3 : BitVec 8)) ∧ tState.hostOpen (foy 0x0220) = true ∧ tState.fld (foy 0x0228) 8 4 < 8 ∧ ({ tState.flash with trial := true } : Flash).trial = true ∧ tState.runningB = tState.flash.preferB) := by
  decide +kernel

/-- Past tp, both slots of version 5 and 6. -/
def tBoot : State := { State.reset with flash := { slotA := ⟨3, 5, 0⟩, slotB := ⟨4, 6, 0⟩ } }

/-- Off without a latch; running; at tp with good and bad images; booting; a staged Profile that passes and one that does not. -/
theorem test_startup_witness :
    (({ State.reset with phase := .off } : State).latched = false ∧ ({ State.reset with phase := .off } : State).latchNews = false) ∧
    (tState.phase ≠ .off ∧ tState.phase ≠ .safe) ∧
    (tBoot.phase = .powered ∧ tBoot.flash.trial = false ∧ imageFault none tBoot.flash.slotA tBoot.flash.svnFused = none ∧ imageFault (some 2) tBoot.flash.slotA tBoot.flash.svnFused ≠ none) ∧
    (({ tBoot with phase := .booting } : State).fld (foy 0x0200) 3 1 = 0 ∧ tBoot.recoveries = []) ∧
    (tState.hostOpen (foy 0x0800) = true ∧ tState.claimed (foy 0x0800) .host = 0 ∧ profileResult ({ tState with staging := [(0, 1)] } : State).stagedImage true true none = 0 ∧ profileResult tState.stagedImage true true none = 1) := by
  decide +kernel

/-! Power, temperature, recovery, Inventory and cables. -/

/-- Core 3 with STEP 2, `cycles` of its window, and `replays` of engine 7. -/
def tVolt (cycles replays : Nat) (div : Bool) : State :=
  { ((tState.setFld (coreReg 3 0) 0 48 cycles).setFld (coreReg 3 0x78) 0 48 replays).setFld (coreReg 3 0xC0) 0 6 2 with cores := [(3, { winDiv := div })] }

/-- A window with a high replay rate, one with a low one, one between, one in which the divider changed. -/
theorem test_voltage_window_witness :
    ((let s := tVolt 100000 101 false
  (s.core 3).winDiv = false ∧ s.fld (coreReg 3 0) 0 48 < s.fld (coreReg 3 0x78) 0 48 * 1000)) ∧
    ((let s := tVolt 100000 0 false
  (s.core 3).winDiv = false ∧ 100000 ≤ s.fld (coreReg 3 0) 0 48 ∧ (List.range 16).all (fun e => decide (s.fld (coreReg 3 (0x40 + 8 * e)) 0 48 * 100000 < s.fld (coreReg 3 0) 0 48)) = true)) ∧
    (((tVolt 100000 1 true).core 3).winDiv = true) := by
  decide +kernel

/-- An evaluation in service; requests at the boundaries of the cap and of the throttle temperature. -/
theorem test_controller_witness :
    (tState.phase = .service ∧ tState.power.capDiv ≤ 3 ∧ tState.power.thDiv ≤ 3 ∧ tState.power.capDuty ≤ 8 ∧ tState.power.thDuty ≤ 8 ∧ tState.fld (foy 0x0630) 17 1 = 0) ∧
    ((1500 * 100 ≤ 1600 * 95) ∧ (9 ≤ ({ tState.power with under := 9 } : Power).under) ∧ 5 ≤ 95 ∧ 1 ≤ tState.power.capDuty) ∧
    (bitAt (tState.rget (foy 0x05A0)).toNat 63 = false) := by
  decide +kernel

/-- In service without clamp or trip; a clamp and a trip in force, hot and cool; the reference lost; an input out of range. -/
theorem test_clamp_trip_witness :
    (tState.clampOn = false ∧ tState.power.thDiv ≤ 3 ∧ tState.fld (foy 0x0720) 1 1 = 0 ∧ ({ tState with clampOn := true } : State).clampOn = true ∧ tState.recoveries = []) ∧
    (bitAt (tState.rget (foy 0x05A0)).toNat 5 = false ∧ tState.fld (foy 0x0630) 17 1 = 0 ∧ (tState.setFld (foy 0x0630) 17 1 1).fld (foy 0x0630) 17 1 = 1 ∧ ((tState.rput (foy 0x0640) 0x56).diodeAt 0) = 86) ∧
    ((List.range 64).all (fun d => decide (tState.diodeAt d ≤ 85)) = true ∧ (tState.setFld (foy 0x0600) 2 1 1).fld (foy 0x0600) 2 1 = 1 ∧ tState.fld (foy 0x0600) 2 1 = 0) ∧
    (({ tState with power := { hold := true } } : State).power.hold = true ∧ tState.phase ≠ .off) := by
  decide +kernel

/-- A job of core 0 runs, and a recovery of cluster 0 has begun, or its units have been reset. -/
def tRec (reset : Bool) : State := { tEnds .running with recoveries := [⟨.cluster 0, 0, 0, false, reset⟩] }

/-- No recovery; one that has begun, one whose units are reset, one of the device past its bound and one held. -/
theorem test_recovery_witness :
    (tState.recoveries = [] ∧ clusterServing ((tEnds .running).setFld (foy 0x0008) 0 32 0xFFFFFFFF) 0 = true) ∧
    ((tRec false).recoveries.find? (fun r => decide (r.scope = .cluster 0)) = some ⟨.cluster 0, 0, 0, false, false⟩ ∧ (tRec false).reports = [] ∧ (tRec false).jobInScope (.cluster 0) 1 { tEndJob .running with mapped := 1 } = true) ∧
    ((tRec true).recoveries.find? (fun r => decide (r.scope = .cluster 0) && r.reset) = some ⟨.cluster 0, 0, 0, false, true⟩ ∧ (tRec true).clusterPermanent 0 = false) ∧
    (({ tState with power := { hold := true } } : State).recoveryHeld = true ∧ (tState.setFld (foy 0x0600) 2 1 1).recoveryHeld = false) := by
  decide +kernel

/-- In service 60 minutes after the boot Inventory, with the core slices of core 4 not held by anything. -/
def tInv : State := { tState with hclk := 600000000 * 3660, invLast := (List.range 1045).map (fun t => (t, if t = 4 ∨ t = 260 then 0 else 600000000 * 3600)) }

/-- A slice that may start, one below which another may, one past its grace, one that runs. -/
theorem test_inventory_witness :
    (tInv.sliceStarts 4 = true ∧ tInv.sliceStarts 260 = false ∧ tInv.due 4 = true ∧ tInv.dueAt 4 + 600000000 * min 60 (max 1 (tInv.fld (foy 0x0568) 16 6)) ≤ tInv.hclk ∧ tInv.invHeld.contains 4 = false ∧ tInv.phase = .service) ∧
    (({ tInv with invRun := [4] } : State).invRun.contains 4 = true) ∧
    (((Config.bistSignature 0).setWidth 64).setWidth 32 = Config.bistSignature 0 ∧ ((~~~ Config.bistSignature 0).setWidth 64).setWidth 32 ≠ Config.bistSignature 0) := by
  refine ⟨by decide +kernel, by decide +kernel, ?_, ?_⟩
  · simp
  · generalize Config.bistSignature 0 = b
    simp only [ne_eq]
    intro h
    have := congrArg (fun v : BitVec 32 => v.getLsbD 0) h
    simp at this

/-- A cable comes, its memory answers, it goes; its eFuse trips, retries and latches off. -/
theorem test_cable_witness :
    tState.phase ≠ .off ∧ tState.cable 7 0 1 = 0 ∧ (tState.setCable 7 0 1 1).cable 7 0 1 = 1 ∧ (tState.setCable 7 0 1 1).cable 7 1 2 = 0 ∧ (tState.setCable 7 1 2 1).cable 7 1 2 = 1 ∧ Assoc.get 0 [(7, 2)] 7 = 2 := by
  decide +kernel

/-! Links, packets, the endpoint and the Visitor Book. -/

/-- Device 5 with links 3 and 7 Up, routes to devices 9 and 2 over them, and an open window of HBM of a job of core 0. -/
def tNet : State :=
  let f := fun (r : Assoc DWord) (x : Nat × Nat) => Assoc.put 0 r x.1 (BitVec.ofNat 64 x.2)
  { tRun tCore with
    jobs := [(1, { tJob with peerset := 6 })], pages := [(0, { job := 1 })],
    halls := [(1, { windows := [(4, { isOpen := true, base := 64, len := 64, rights := 7, job := 1, epoch := 5, number := 4 })] })],
    reg := foldOver f tState.reg [(foy 0x0100, 0x1005), (routeEntry 9 0, 0x80000023), (routeEntry 2 0, 0x80002327), (linkReg 3 0, 5), (linkReg 7 0, 5),
      (peerEntry 0 0, 6 + 2 ^ 32), (peerEntry 0 512, 0x220)],
    links := [(3, { txNext := 9, replay := [7, 8], resent := [(8, 6)], rxNext := 4 })] }
/-- A packet from device 9 to this one, and an answer to a packet of this one. -/
def tHdrIn (type : BitVec 4) (seq : Word) (bytes : BitVec 9) : PktHdr :=
  { dest := 5, type := type, src := 9, hops := 2, seq := seq, peerset := 6, epoch := 5, window := 4, job := 1, offset := 8, bytes := bytes,
    atype := false, ftz := false, spf := 0, fmt := 0, index := 0, count := 0, status := 0, intSat := false, nanSeen := false, ordOff := 0, ordLen := 0 }
/-- What the owner's checks answer: the refusal that no window counts, or the window. -/
def tRefusal (x : Except (Half × Option (Nat × Nat)) (Nat × Nat × Window)) : Option Half :=
  match x with
  | .error (c, none) => some c
  | _ => none
def tLink (st : Nat) : State := tNet.setFld (linkReg 3 0) 0 3 st
/-- A flit's header with an FSEQ, an ACKSEQ, and two credits of class 1. -/
def tFlit (fseq ackseq : Half) (nak : Bool) : FlitHdr := ⟨fseq, ackseq, nak, false, 1, 2⟩
/-- A packet of class 1 that waits on link 3. -/
def tWait : WaitPkt := ⟨{ tHdrIn 0 0 3 with dest := 9, src := 5, hops := 1 }, [1, 2, 3, 4], none⟩
/-- Link 3 is Up with one packet waiting; `spent` flits of class 1 have no credit back. -/
def tWaits (spent : Nat) : State :=
  (tLink 5).setLink 3 { (tLink 5).link 3 with waiting := [tWait], spent := [(1, spent)] }

/-- A link in every state, its flits in order and not, a peer named and not. -/
theorem test_link_witness :
    ([0, 1, 2, 3, 4, 5].all (fun st => decide ((tLink st).linkState 3 = st)) = true ∧ ({ tLink 3 with identity := true } : State).identity = true ∧ (tLink 5).linkAllowed 3 = false) ∧
    ((let s := ((tLink 1).rput (foy 0x108) 8).rput (cableReg 0) 0x11
  ({ s with defaultsOn := true } : State).linkAllowed 3 = true ∧ s.linkState 3 = 1)) ∧
    (((tWaits 98).link 3).waiting = [tWait] ∧ tWait.held = none ∧ ((tWaits 97).link 3).ready 0 tWait.hdr 4 = false ∧ ({ (tWaits 97).link 3 with spent := [(1, 95)] } : LinkSt).ready 0 tWait.hdr 4 = true ∧ (tFlit 4 7 true).nak = true) ∧
    (((tLink 5).link 3).rxNext = 4 ∧ ((tLink 5).link 3).waiting = [] ∧ ((tLink 5).link 3).nakked = false ∧ afterAck 7 ((tLink 5).link 3).replay = [8] ∧ Assoc.get 0 ((tLink 5).link 3).resent 8 < 7) := by
  decide +kernel

/-- The window lies in a circular region of core 0's Salon whose first slot is FULL. -/
def tSlotNet : State :=
  { tNet with
    cores := [(0, { tCore with regions := [(1, { valid := true, circ := true, job := 1, len := 512, full := [0] })] })],
    halls := [(1, { windows := [(4, { isOpen := true, base := 2 ^ 41 + 64, len := 64, rights := 7, job := 1, epoch := 5, number := 4 })] })] }
/-- A packet of class 1 that waits on link 7. -/
def tQueued : State := tNet.setLink 7 { tNet.link 7 with waiting := [tWait] }
/-- One packet in flight to device 9 of a CPUT of core 0 at IADDR 0x4000, sent `sends` times over choice 0. -/
def tSent (type : BitVec 4) (sends : Nat) (dest : BitVec 12) : State :=
  { tNet with
    sent := [⟨{ tHdrIn type 3 3 with dest := dest, src := 5 }, 0x100, sends, 0, 1, 0⟩], xfers := [(1, ⟨0, 0x4000, 0x77, dest.toNat, 1, 2, none, 0⟩)],
    hbm := [(0x100, 1), (0x101, 2), (0x102, 3), (0x103, 4)] }

/-- Packets through, to and back to this device, each with data that fits; one with data that does not; one whose slot is FULL; one behind another of its class. -/
theorem test_packet_witness :
    (tNet.carries 3 (tHdrIn 0 0 3) = true ∧ tNet.carries 3 (tHdrIn 7 3 0) = true ∧ (tNet.link 7).ready tNet.hclk { tHdrIn 0 0 3 with dest := 2, hops := 3 } 4 = true ∧ (tNet.link 7).waiting = [] ∧ (tNet.link 3).ready tNet.hclk (answerHdr { tHdrIn 0 0 3 with epoch := 4 } codeEpochStale {} []) 0 = true ∧ (tQueued.link 7).waiting.map (fun w => classOf w.hdr) = [1] ∧ classOf { tHdrIn 0 0 3 with dest := 2, hops := 1 } = 1) ∧
    ((linesOf (2 ^ 41 + 72) 4).all (fun b => decide (tSlotNet.slotOf b = some (0, 1, 0))) = true ∧ (List.range 4).all (fun i => decide (tSlotNet.slotOf (2 ^ 41 + 72 + i) = some (0, 1, 0))) = true ∧ tSlotNet.slotFull (0, 1, 0) = true ∧ (tSlotNet.accept (tHdrIn 0 0 3)).toOption.isSome = true) ∧
    (hdrFits (tHdrIn 0 0 3) [1, 2, 3, 4] = true ∧ hdrFits (tHdrIn 0 0 3) [] = false ∧ tNet.linkUp 3 = true ∧ tNet.isSelf 9 = false ∧ tNet.isSelf 5 = true ∧ tNet.assigned = true ∧ tNet.route 9 0 = some (0, 3) ∧ tNet.route 2 1 = some (1, 3) ∧ tNet.route 4 0 = none) ∧
    (isRequest (tHdrIn 0 0 3) = true ∧ Assoc.get 0 tNet.seqRx 9 = 0 ∧ tNet.keptStatus 9 5 = none ∧ (seqBefore 5 0 = false)) ∧
    (tRefusal (tNet.accept { tHdrIn 0 0 3 with epoch := 4 }) = some codeEpochStale) ∧
    ((tNet.accept (tHdrIn 0 0 3)).toOption = some (1, 4, { isOpen := true, base := 64, len := 64, rights := 7, job := 1, epoch := 5, number := 4 }) ∧ (linesOf (64 + 8) 4).all (fun a => (tNet.slotOf a).isNone) = true ∧ (List.range 4).all (fun i => (tNet.slotOf (64 + 8 + i)).isNone) = true ∧ tNet.arrivals = []) ∧
    ((tSent 0 1 9).sent.find? (fun q => decide (q.hdr.dest = 9 ∧ q.hdr.seq = 3)) = some ⟨{ tHdrIn 0 3 3 with dest := 9, src := 5 }, 0x100, 1, 0, 1, 0⟩ ∧ ((linesOf 0x100 4).filterMap (tSent 1 1 9).slotOf) = [] ∧ (tSent 0 1 9).sent.all (fun r => !(seqBefore r.hdr.seq 3)) = true) ∧
    ((tSent 0 1 2).xfers.find? (fun x => x.1 == 1) = some (1, ⟨0, 0x4000, 0x77, 2, 1, 2, none, 0⟩) ∧ (tSent 0 1 9).route 9 1 = none ∧ (tSent 0 1 2).route 2 1 = some (1, 3)) ∧
    (({ tSent 0 1 9 with hclk := 6000000 } : State).openPkts 0 = (tSent 0 1 9).sent ∧ 600 * tNet.fld (foy 0x0108) 32 16 ≤ 6000000) := by
  decide +kernel

/-- A collective job of two members; edges of PPS early and in time; TIME_SET with and without PPS; sensors; transfers of each kind. -/
theorem test_heartbeat_time_witness :
    (tNet.collective = tNet.jobs ∧ tNet.job 1 = some { tJob with peerset := 6 } ∧ tNet.unreachable { tJob with peerset := 6 } = []) ∧
    (tNet.carries 3 { heartbeatHdr 9 5 tJob 1 with src := 8, peerset := 6 } = true ∧ tNet.isSelf 8 = false ∧ (tNet.otherMembers 6).contains 9 = true ∧ (tNet.otherMembers 6).contains 8 = false) ∧
    (({ tNet with ppsAt := some 5, hclk := 540000005 } : State).ppsAt = some 5 ∧ (tNet.setFld (foy 0x0708) 62 1 1).fld (foy 0x0708) 62 1 = 1 ∧ tNet.hostOpen (foy 0x0710) = true) := by
  refine ⟨⟨by decide +kernel, by decide +kernel, List.filter_eq_nil_iff.mpr (fun d _ hd => ?_)⟩, by decide +kernel⟩
  have h0 : tNet.hclk = 0 := rfl
  have h : (max ({ tJob with peerset := 6 } : Job).startAt ((Assoc.find ({ tJob with peerset := 6 } : Job).heard d).getD 0) + 600000 ≤ tNet.hclk) :=
    of_decide_eq_true hd
  omega

def tPkt (kind : BitVec 4) (num : BitVec 12) (n : Nat) : VPkt := ⟨0x1001, kind, num, 5, 7, (List.range n).map (fun i => BitVec.ofNat 64 i)⟩
/-- Two packets of two sources wait; the FIFO holds `n` single-word packets. -/
def tBook (n : Nat) : State :=
  { tState with
    vbWait := [tPkt 1 4 2, tPkt 3 9 1, tPkt 1 4 0], vbSource := 4096 + 4,
    vb := (List.range n).map (fun i => ⟨BitVec.ofNat 64 (i + 100), true, false, true⟩) }

/-- Nothing waits; three packets of two sources; an entry to read and none; a packet to drop; watermarks good and bad. -/
theorem test_visitor_book_witness :
    (tState.vbWait = [] ∧ (tBook 1).vbWait.all (fun r => decide (r.payload.length ≤ 15)) = true ∧ (tBook 1).vbWait.any (fun r => decide ((tBook 1).vbSource < r.source)) = true ∧ ({ tBook 1 with vbSource := 3 * 4096 + 9 } : State).vbWait.all (fun r => decide (r.source ≤ 3 * 4096 + 9)) = true) ∧
    (tState.hostOpen (vbReg 0) = true ∧ (tBook 2).vb = [⟨100, true, false, true⟩, ⟨101, true, false, true⟩] ∧ tState.vb = [] ∧ tState.hostOpen (vbReg 0x18) = true ∧ tState.hostOpen (vbReg 0x20) = true ∧ Assoc.get 0 tState.locks (vbReg 0x20) = 0) ∧
    ((let good : DWord := 0x00050006
  fget good 16 14 < min 8192 (max 1 (fget good 0 14)) ∧ (tState.vbWait.filter (fun q => q.kind == 0 && q.num == 0)).length < 4)) := by
  decide +kernel

/-! The whole machine, its numbers, its words, and what is not well-formed. -/

/-- Reset has the canonical form and the bounds; an empty queue steps to a state; SVN_COMMIT and NOP answer; a device in service, one in the safe state, one with the test latch. -/
theorem test_machine_witness :
    (State.reset.memOk = true ∧ State.reset.storesOk = true) ∧
    ((match step State.reset with | .next t => decide (t = State.reset.tick) | _ => false) = true) ∧
    ((match exec .svnCommit tState with | .next t => decide (tState.flash.svnFused ≤ t.flash.svnFused) | _ => false) = true) ∧
    (tState.hostOpen (foy 0x0210) = true ∧ ¬ (tState.flash.trial = true ∧ tState.runningB = tState.flash.preferB) ∧ ({ tState with flash := { tState.flash with trial := true } }).hostOpen (foy 0x0210) = true ∧ tState.runningB = tState.flash.preferB) ∧
    (tState.fld 0x0008 0 1 = 1 ∧ tState.phase = .service ∧ (match exec .modReset { tState with phase := .safe } with | .next t => decide (t.phase = .safe) | _ => false) = true) ∧
    ((match exec .perst (tState.setFld (foy 0x0200) 3 1 1) with | .next t => decide (t.fld (foy 0x0200) 3 1 = 1) | _ => false) = true) ∧
    (headerOf (.cvec tHdr 1 2 3 0x12 true 0) = some tHdr ∧ tHdr.ecc = []) ∧
    (isBinary ⟨1, 2, 3, 0, 0, 3, 3, 0, 0, true, 0, 1⟩ = false ∧ is24 ⟨1, 2, 3, 0, 0, 3, 3, 0, 0, true, 0, 1⟩ = true) ∧
    ((Assoc.find State.resetRegs 8).isNone = true) := by
  decide +kernel

/-- Sums, products, an fma and roots in binary32: ties to even, a carry into the exponent, overflow, a subnormal, NaN. -/
theorem test_float_values :
    (f32Add 0x3F800000 0x33800000 = 0x3F800000 ∧ f32Add 0x3F800001 0x33800000 = 0x3F800002 ∧ f32Add 0x7F7FFFFF 0x7F7FFFFF = 0x7F800000 ∧ f32Sub 0x00800000 0x00000001 = 0x007FFFFF) ∧
    (f32Mul 0x3FC00000 0xC0000000 = 0xC0400000 ∧ f32Fma 0x3F800001 0x3F800001 0xBF800002 = 0x28800000 ∧ f32Add 0x7F800000 0xFF800000 = f32NaN ∧ f32Add 0x3F800000 0xBF800000 = 0) ∧
    (f32Sqrt 0x40800000 = 0x40000000 ∧ f32Sqrt 0xBF800000 = f32NaN ∧ f32Recip 0x40800000 = 0x3E800000 ∧ f32Max 0xBF800000 0x3F800000 = 0x3F800000) := by
  decide +kernel

/-- The CRC-8 with polynomial 0x07 and initial value 0 of the bytes of the text 123456789 is 0xF4. -/
theorem test_crc8_check_value :
    crc8 [0x31, 0x32, 0x33, 0x34, 0x35, 0x36, 0x37, 0x38, 0x39] = 0xF4 := by
  decide +kernel

/-- A word of each Nupor family written from its fields, and a reserved opcode (R252 to R256). -/
theorem test_words_decode :
    (Nupor.decodeWord 7 0x0000000000000000123456780000F502 = some (.jmp ⟨7, 5, true, true, []⟩ 0)) ∧
    (Nupor.decodeWord 7 0x0000000000000000000000004C418F10 = some (.xload ⟨7, 15, false, false, []⟩ 1 2 19 false false false)) ∧
    (Nupor.decodeWord 7 (BitVec.ofNat 128 (0x30 + 0xF * 2 ^ 8 + 1 * 2 ^ 16 + 2 * 2 ^ 21 + 3 * 2 ^ 26 + 2 ^ 49)) = some (.bsmm ⟨7, 15, false, false, []⟩ ⟨1, 2, 3, 0, 0, 0, 0, 0, 0, true, 0, 0⟩)) ∧
    (Nupor.decodeWord 7 (BitVec.ofNat 128 (0x77 + 0xF * 2 ^ 8 + 9 * 2 ^ 16 + 3 * 2 ^ 21 + 2 ^ 64)) = some (.cput ⟨7, 15, false, false, []⟩ 9 3 1) ∧ Nupor.decodeWord 7 0x0B = none) := by
  decide +kernel

/-- One term that each check of well-formedness refuses, and one that each accepts. -/
theorem test_ill_formed_refused :
    ((Instr.nop { tHdr with ecc := [⟨0, 0, 0⟩] }).wf = false ∧ (Instr.nop { tHdr with ecc := [⟨0, 8, 1⟩] }).wf = false ∧ (Instr.nop { tHdr with ecc := [⟨0, 7, 1⟩] }).wf = true ∧ (Instr.instructionRetire 0 .array [⟨0, 0, 0⟩]).wf = false) ∧
    ((Instr.inventorySliceDue 1045).wf = false ∧ (Instr.inventorySliceEnd 1044 0).wf = true ∧ (Instr.inventoryForce 2047).wf = false ∧ (Instr.bootStart none none true true [(1045, 0)]).wf = false) ∧
    ((Instr.packetArrival 0 (tHdrIn 0 0 3) ⟨[], []⟩).wf = false ∧ (Instr.packetForward 0 (tHdrIn 1 0 3) [1]).wf = false ∧ (Instr.getDataReceive 0 (tHdrIn 2 0 0) [1]).wf = true) ∧
    ((Instr.jobFetch 0 [(2, 0), (2, 1)]).wf = false ∧ (Instr.loaderStaticPhase 1 [(2, 0), (1, 1)]).wf = false ∧ (Instr.loaderCopyPhase 1 [(1, 0), (2, 1)]).wf = true) ∧
    ((Instr.tileDispatch 0 0 0 (List.replicate 33 0)).wf = false ∧ (Instr.epilogueDispatch 0 0 0 (List.replicate 32 0)).wf = true ∧ (Instr.hbmPageScrubDone 393216).wf = false ∧ (Instr.dynamicAddressAssign 0).wf = false) ∧
    ((Instr.mailboxRead (2 ^ 64) ⟨8, []⟩).wf = false ∧ (Instr.mailboxRead 0 ⟨0, []⟩).wf = false ∧ (Instr.bar2Write (2 ^ 64)).wf = false ∧ (Instr.registerWrite (.bar0 (2 ^ 26)) 0 8 .host).wf = false) ∧
    ((Instr.controllerEvaluation ⟨0, 0, 0, 0⟩ []).wf = false ∧ (Instr.linkTrainingDone 0 (List.replicate 16 16) 0).wf = false ∧ (Instr.linkTrainingDone 0 [0] 0).wf = false ∧ (Instr.mgmtAccess [] true true true).wf = false ∧ (Instr.mgmtAccess (List.replicate 136 0) true true true).wf = false) := by
  decide +kernel
end

section
/-! The bits that writers have claimed in one HCLK (R9, R484), and what a register write does to the register file (R8, R342, R505). -/

namespace Sys2Proof.Machine

/-- An offset whose write has no behaviour of its own: outside the rings, doorbells, Tempo slots, peer sets and staging windows, and
none of the registers that start a command or have limits of their own. -/
def IsPlainOffset (off : Nat) : Prop :=
  (off < 0x100000 ∨ (0x300000 ≤ off ∧ off < 0x02000240) ∨ (0x02000280 ≤ off ∧ off < 0x02100000)) ∧
    off ∉ [0x1010, 0x400018, 0x400020, 0x02000108, 0x02000210, 0x02000710, 0x02000720, 0x02000738]

/-! Bits of a register. -/

theorem testBit_fget (v : DWord) (lo w i : Nat) : (fget v lo w).testBit i = (decide (i < w) && v.getLsbD (lo + i)) := by
  rw [fget, bitsOf_testBit, BitVec.getLsbD]

/-- A field depends on its own bits alone. -/
theorem fget_congr {a b : DWord} {lo w : Nat} (h : ∀ i, i < w → a.getLsbD (lo + i) = b.getLsbD (lo + i)) :
    fget a lo w = fget b lo w := by
  apply Nat.eq_of_testBit_eq
  intro i
  rw [testBit_fget, testBit_fget]
  by_cases hi : i < w
  · rw [h i hi]
  · simp [hi]

/-- W1C bits stay open whatever is claimed: `w` are the W1C bits and `c` the claimed ones. -/
theorem and_not_and_not_self (w c : DWord) : w &&& ~~~(c &&& ~~~w) = w := by
  ext i hi
  cases hw : w[i] <;> simp [hw]

/-! The claims of one HCLK. -/

theorem foldOver_or_getLsbD {α : Type} (p : α → Prop) [DecidablePred p] (bits : α → DWord) (i : Nat) (l : List α) (m : DWord) :
    (foldOver (fun (m : DWord) e => if p e then m ||| bits e else m) m l).getLsbD i =
      (m.getLsbD i || l.any (fun e => decide (p e) && (bits e).getLsbD i)) := by
  induction l generalizing m with
  | nil => simp [foldOver]
  | cons e t ih =>
    rw [foldOver, ih]
    by_cases h : p e <;> simp [h, Bool.or_assoc]

/-- A bit is claimed against a writer when one of higher rank has written it in this HCLK. -/
theorem State.getLsbD_claimed (s : State) (off : Nat) (w : Writer) (i : Nat) :
    (s.claimed off w).getLsbD i = (decide (s.writtenAt = s.hclk) &&
      s.written.any (fun e => decide (e.1 = off ∧ writerRank w < e.2.2) && e.2.1.getLsbD i)) := by
  unfold State.claimed
  by_cases h : s.writtenAt = s.hclk
  · rw [if_pos h, foldOver_or_getLsbD (fun e : Nat × DWord × Nat => e.1 = off ∧ writerRank w < e.2.2) (fun e => e.2.1)]
    simp [h]
  · simp [h]

/-- A claim of a writer adds its bits for every writer of a lower rank. -/
theorem State.claimed_claim (s : State) (off : Nat) (m : DWord) (w : Writer) (o : Nat) (u : Writer) :
    (s.claim off m w).claimed o u = s.claimed o u ||| (if o = off ∧ writerRank u < writerRank w then m else 0) := by
  apply BitVec.eq_of_getLsbD_eq
  intro i _
  rw [BitVec.getLsbD_or, State.getLsbD_claimed, State.getLsbD_claimed]
  have hm : (if o = off ∧ writerRank u < writerRank w then m else 0).getLsbD i =
      (decide (off = o ∧ writerRank u < writerRank w) && m.getLsbD i) := by
    by_cases h : o = off ∧ writerRank u < writerRank w
    · simp [h]
    · rw [if_neg h, decide_eq_false (fun g => h ⟨g.1.symm, g.2⟩)]; simp
  rw [hm]
  by_cases h : s.writtenAt = s.hclk <;> simp [State.claim, h]

/-- What is claimed against a writer is claimed against every writer of no higher rank. -/
theorem State.claimed_allOnes_of_le (s : State) (off : Nat) (w u : Writer) (hr : writerRank u ≤ writerRank w)
    (h : s.claimed off w = BitVec.allOnes 64) : s.claimed off u = BitVec.allOnes 64 := by
  apply BitVec.eq_of_getLsbD_eq
  intro i hi
  have hb := congrArg (fun v : DWord => v.getLsbD i) h
  simp only [State.getLsbD_claimed, BitVec.getLsbD_allOnes, hi, decide_true, Bool.and_eq_true, List.any_eq_true, decide_eq_true_eq] at hb ⊢
  obtain ⟨hnow, e, he, ⟨hoff, hrank⟩, hbit⟩ := hb
  exact ⟨hnow, e, he, ⟨hoff, Nat.lt_of_le_of_lt hr hrank⟩, hbit⟩

/-- Every other writer ranks below the host. -/
theorem writerRank_lt_host (w : Writer) (h : w ≠ .host) : writerRank w < writerRank .host := by
  cases w with
  | host => exact absurd rfl h
  | endpoint => decide
  | firmware => decide

theorem State.fld_claim (s : State) (off : Nat) (m : DWord) (u : Writer) (o lo w : Nat) :
    (s.claim off m u).fld o lo w = s.fld o lo w := rfl
theorem State.rget_claim (s : State) (off : Nat) (m : DWord) (u : Writer) (o : Nat) :
    (s.claim off m u).rget o = s.rget o := rfl

/-! Posting a packet (R490). -/

/-- A source with room posts its packet behind those that wait. -/
theorem State.post_of_room (s : State) (event : Nat) (kind num : Nat) (job : Half) (payload : List DWord)
    (h : (s.vbWait.filter (fun q => q.kind == BitVec.ofNat 4 kind && q.num == BitVec.ofNat 12 num)).length < 4) :
    s.post event kind num job payload = { s with vbWait := s.vbWait ++
      [⟨BitVec.ofNat 16 event, BitVec.ofNat 4 kind, BitVec.ofNat 12 num, job, s.time, payload⟩] } :=
  if_neg (Nat.not_le.2 h)

/-- Posting adds to the waiting packets, or counts a packet that is dropped. -/
theorem State.post_cases (s : State) (event : Nat) (kind num : Nat) (job : Half) (payload : List DWord) :
    s.post event kind num job payload = s.bumpFld (vbReg 0x30) 0 32 1 ∨
      ∃ p : VPkt, s.post event kind num job payload = { s with vbWait := s.vbWait ++ [p] } := by
  unfold State.post
  dsimp only
  split
  · exact .inl rfl
  · exact .inr ⟨_, rfl⟩

/-- Posting changes no more than the registers and the waiting packets. -/
theorem State.post_frame (s : State) (event : Nat) (kind num : Nat) (job : Half) (payload : List DWord) :
    ∃ r q, s.post event kind num job payload = { s with reg := r, vbWait := q } := by
  rcases s.post_cases event kind num job payload with h | ⟨p, h⟩
  · exact ⟨_, _, h⟩
  · exact ⟨_, _, h⟩

/-- Posting changes no register but the count of dropped packets. -/
theorem State.rget_post (s : State) (event : Nat) (kind num : Nat) (job : Half) (payload : List DWord) (o : Nat)
    (h : o ≠ vbReg 0x30) : (s.post event kind num job payload).rget o = s.rget o := by
  rcases s.post_cases event kind num job payload with hp | ⟨p, hp⟩
  · rw [hp]; exact State.rget_setFld_other _ _ _ _ _ _ h
  · rw [hp]; rfl

/-! The merge of a written register. -/

theorem foldOver_of_fixed {α β : Type} (f : β → α → β) (b : β) (l : List α) (h : ∀ x ∈ l, f b x = b) : foldOver f b l = b := by
  induction l with
  | nil => rfl
  | cons x t ih => rw [foldOver, h x List.mem_cons_self, ih fun y hy => h y (List.mem_cons_of_mem x hy)]

/-- A register without a field that is taken within limits keeps the value that it is given. -/
theorem clampReg_of_untaken (off : Nat) (v : DWord) (h : ∀ x ∈ takenAs, x.1 ≠ off) : clampReg off v = v :=
  foldOver_of_fixed _ _ _ fun x hx => if_neg (h x hx)

theorem regMerge_of_untaken (off : Nat) (old v mask : DWord) (h : ∀ x ∈ takenAs, x.1 ≠ off) (ha : off ≠ 0x02000720) :
    regMerge off old v mask = ((v &&& mask) ||| (old &&& ~~~mask), false) := by
  have hh : off ≠ 0x02000058 := fun e => h (0x02000058, 0, 4, 1, 8) (by decide) e.symm
  simp [regMerge, clampReg_of_untaken off _ h, ha, hh]

/-- R83: FOYER.PROV_CTL.S is taken within 4 to 16. -/
theorem regMerge_provCtl (old v mask : DWord) :
    let w := (v &&& mask) ||| (old &&& ~~~mask)
    regMerge 0x02000048 old v mask = (fput w 0 5 (min 16 (max 4 (fget w 0 5))), false) := by
  rfl

/-! A plain write, and the writes that come to one. -/

/-- A plain write changes no more than the registers and, for a record, the waiting packets. -/
theorem State.plainWrite_frame (s : State) (off : Nat) (v wm : DWord) :
    ∃ r q, s.plainWrite off v wm = { s with reg := r, vbWait := q } := by
  unfold State.plainWrite
  dsimp only
  split
  · obtain ⟨r, q, h⟩ := State.post_frame _ _ _ _ _ _
    exact ⟨r, q, h⟩
  · exact ⟨_, _, rfl⟩

/-- The RWL bits of a register that an applied Profile has locked (R505). -/
def State.lockedBits (s : State) (off : Nat) : DWord := Assoc.get 0 s.locks off &&& (regInfo off).rwl

/-- The bits of a register that a writer may still write in this HCLK: W1C bits, and what no writer of higher rank has written (R9). -/
def State.openBits (s : State) (off : Nat) (w : Writer) : DWord := ~~~(s.claimed off w &&& ~~~(regInfo off).w1c)

/-- The bits of a register that a write of the bits `wm` changes to what it writes (R8). -/
def State.takenBits (s : State) (off : Nat) (wm : DWord) : DWord := (regInfo off).mask &&& ~~~(s.lockedBits off) &&& wm

/-- A register with a locked field is neither the count of dropped packets nor the clock of the Visitor Book. -/
theorem ne_of_lockedBits (s : State) (off : Nat) (wm : DWord) (h : s.lockedBits off &&& wm ≠ 0) :
    off ≠ vbReg 0x30 ∧ off ≠ foy 0x0708 := by
  have hrwl : (regInfo off).rwl ≠ 0 := by
    intro e; apply h; rw [State.lockedBits, e]; simp
  constructor
  · rintro rfl; exact hrwl (by decide)
  · rintro rfl; exact hrwl (by decide)

/-- A plain write merges the taken bits, clears the W1C bits that it writes with 1, and records a locked field that it names. -/
theorem State.plainWrite_eq (s : State) (off : Nat) (v wm : DWord) :
    s.plainWrite off v wm =
      let r := regMerge off (s.rget off) v (s.takenBits off wm)
      let t := s.rput off (r.1 &&& ~~~(v &&& (regInfo off).w1c &&& wm))
      if r.2 || decide (s.lockedBits off &&& wm ≠ 0) then t.post 0x1050 0 0 0 [BitVec.ofNat 64 off, v] else t := rfl

section
variable (s : State) (off : Nat) (v wm : DWord) (htaken : ∀ x ∈ takenAs, x.1 ≠ off) (hne : off ≠ 0x02000720)
include htaken hne

/-- A write of a register without limits of its own: what it stores, and the record of a locked field that it names. -/
theorem State.plainWrite_of_untaken :
    s.plainWrite off v wm =
      let t := s.rput off (((v &&& s.takenBits off wm) ||| (s.rget off &&& ~~~(s.takenBits off wm))) &&&
        ~~~(v &&& (regInfo off).w1c &&& wm))
      if s.lockedBits off &&& wm ≠ 0 then t.post 0x1050 0 0 0 [BitVec.ofNat 64 off, v] else t := by
  simp only [State.plainWrite_eq, regMerge_of_untaken off _ _ _ htaken hne, Bool.false_or, decide_eq_true_eq]

theorem State.rget_plainWrite_same :
    (s.plainWrite off v wm).rget off = ((v &&& s.takenBits off wm) ||| (s.rget off &&& ~~~(s.takenBits off wm))) &&&
      ~~~(v &&& (regInfo off).w1c &&& wm) := by
  rw [State.plainWrite_of_untaken s off v wm htaken hne]
  dsimp only
  split
  · next hl => rw [State.rget_post _ _ _ _ _ _ _ (ne_of_lockedBits s off wm hl).1, State.rget_rput_same]
  · rw [State.rget_rput_same]

theorem State.rget_plainWrite_other (o : Nat) (ho : o ≠ off) (hd : o ≠ vbReg 0x30) :
    (s.plainWrite off v wm).rget o = s.rget o := by
  rw [State.plainWrite_of_untaken s off v wm htaken hne]
  dsimp only
  split
  · rw [State.rget_post _ _ _ _ _ _ _ hd, State.rget_rput_other _ _ _ _ ho]
  · rw [State.rget_rput_other _ _ _ _ ho]

theorem State.plainWrite_vbWait_of_unlocked (hl : s.lockedBits off &&& wm = 0) :
    (s.plainWrite off v wm).vbWait = s.vbWait := by
  rw [State.plainWrite_of_untaken s off v wm htaken hne]
  dsimp only
  rw [if_neg (fun hne => hne hl), State.rput_vbWait]

theorem State.plainWrite_vbWait_of_locked (hl : s.lockedBits off &&& wm ≠ 0)
    (hroom : (s.vbWait.filter (fun q => q.kind == 0 && q.num == 0)).length < 4) :
    (s.plainWrite off v wm).vbWait = s.vbWait ++ [⟨0x1050, 0, 0, 0, s.time, [BitVec.ofNat 64 off, v]⟩] := by
  have htime : ∀ x, (s.rput off x).time = s.time := fun x => by
    rw [State.time, State.rget_rput_other _ _ _ _ (ne_of_lockedBits s off wm hl).2.symm, State.time]
  rw [State.plainWrite_of_untaken s off v wm htaken hne]
  dsimp only
  rw [if_pos hl, State.post_of_room (s.rput off _) 0x1050 0 0 0 _ hroom, htime]
  rfl

end

theorem State.wordWrite_of_plain (s : State) (off : Nat) (v wm : DWord) (size : Nat) (h : IsPlainOffset off) :
    s.wordWrite off off v wm size = s.plainWrite off v wm := by
  obtain ⟨hrange, hspecial⟩ := h
  simp only [List.mem_cons, List.not_mem_nil, or_false, not_or] at hspecial
  obtain ⟨h1, h2, h3, h4, h5, h6, h7, h8⟩ := hspecial
  unfold State.wordWrite
  dsimp only
  rw [if_neg (by omega), if_neg (by omega), if_neg (by omega), if_neg (by omega), if_neg (by omega), if_neg (by omega)]
  split
  · exact absurd rfl h1
  · exact absurd rfl h2
  · exact absurd rfl h3
  · exact absurd rfl h5
  · exact absurd rfl h6
  · exact absurd rfl h4
  · exact absurd rfl h7
  · exact absurd rfl h8
  · rfl

/-- An aligned write of 8 bytes names the bits that no writer of higher rank has claimed, and the W1C bits. -/
theorem State.regWrite_word (s : State) (off : Nat) (v : DWord) (w : Writer) (h : off % 8 = 0) :
    s.regWrite off v 8 w =
      if s.openBits off w = 0 then s else (s.wordWrite off off v (s.openBits off w) 8).claim off (BitVec.allOnes 64) w := by
  have hoff : off / 8 * 8 = off := by omega
  simp only [State.regWrite, writeMask, hoff, if_true, BitVec.allOnes_and]
  rfl

/-- Whether a writer may write at an offset now (R343, R346, R369, R484). -/
def State.mayWrite (s : State) (off : Nat) : Writer → Bool
  | .host => s.hostOpen off
  | .endpoint => s.endpointOpen (off / 8 * 8)
  | .firmware => decide (s.phase = .service ∨ s.phase = .booting) && !(pcieOnly (off / 8 * 8))

theorem State.mayWrite_firmware (s : State) (off : Nat) :
    s.mayWrite off .firmware = (decide (s.phase = .service ∨ s.phase = .booting) && !(pcieOnly (off / 8 * 8))) := rfl

theorem exec_registerWrite (at_ : RegSpace) (v : DWord) (size : Nat) (w : Writer) (s : State) :
    exec (.registerWrite at_ v size w) s = execRegisterWrite at_ v size w s := by
  rfl

/-- An aligned write inside BAR0 takes place where its writer may write, and is passed over elsewhere. -/
theorem exec_registerWrite_bar0 (s : State) (off size : Nat) (v : DWord) (w : Writer) (hsize : size = 4 ∨ size = 8)
    (halign : off % size = 0) (hfit : off + size ≤ 2 ^ 26) :
    exec (.registerWrite (.bar0 off) v size w) s =
      Host.Outcome.next (if s.mayWrite off w then s.regWrite off (if off % 8 = 4 then v <<< (32 : Nat) else v) size w else s) := by
  have hodd : ¬((size ≠ 4 ∧ size ≠ 8) ∨ off % size ≠ 0) := by omega
  have hout : ¬(2 ^ 26 < off + size) := by omega
  have hsound : ∀ b : Bool, (!(decide ((size ≠ 4 ∧ size ≠ 8) ∨ off % size ≠ 0)) && decide (off + size ≤ 2 ^ 26) && b) = b := fun b => by
    rw [decide_eq_false hodd, decide_eq_true hfit]
    rfl
  rw [exec_registerWrite]
  cases w with
  | host => exact if_neg (by rw [decide_eq_true_eq]; exact not_or.2 ⟨hodd, hout⟩)
  | endpoint => exact congrArg (fun b : Bool => Host.Outcome.next (if b then _ else s)) (hsound _)
  | firmware =>
    exact congrArg (fun b : Bool => Host.Outcome.next (if b then _ else s)) ((Bool.and_assoc ..).trans (hsound _))

/-- A misaligned write of the host, or one that leaves BAR0, is an unsupported request (R342). -/
theorem exec_registerWrite_bar0_unsupported (s : State) (off size : Nat) (v : DWord)
    (h : (size ≠ 4 ∧ size ≠ 8) ∨ off % size ≠ 0 ∨ 2 ^ 26 < off + size) :
    exec (.registerWrite (.bar0 off) v size .host) s = Host.Outcome.next s.giveUnsupported := by
  rw [exec_registerWrite]
  exact if_pos (by rw [decide_eq_true_eq, or_assoc]; exact h)

/-- What an aligned write of 8 bytes does to a register without behaviour or limits of its own, bit for bit (R8, R9, R505). -/
theorem regWrite_plain_spec (s : State) (off : Nat) (v : DWord) (w : Writer) (halign : off % 8 = 0) (hplain : IsPlainOffset off)
    (htaken : ∀ x ∈ takenAs, x.1 ≠ off) :
    let t := s.regWrite off v 8 w
    let m := s.takenBits off (s.openBits off w)
    t = { s with reg := t.reg, vbWait := t.vbWait, written := t.written, writtenAt := t.writtenAt } ∧
      (∀ o u, t.claimed o u = s.claimed o u ||| (if o = off ∧ writerRank u < writerRank w then BitVec.allOnes 64 else 0)) ∧
      t.rget off = ((v &&& m) ||| (s.rget off &&& ~~~m)) &&& ~~~(v &&& (regInfo off).w1c) ∧
      (∀ o, o ≠ off → o ≠ vbReg 0x30 → t.rget o = s.rget o) ∧
      (s.lockedBits off &&& s.openBits off w = 0 → t.vbWait = s.vbWait) ∧
      (s.lockedBits off &&& s.openBits off w ≠ 0 → (s.vbWait.filter (fun q => q.kind == 0 && q.num == 0)).length < 4 →
        t.vbWait = s.vbWait ++ [⟨0x1050, 0, 0, 0, s.time, [BitVec.ofNat 64 off, v]⟩]) := by
  have hne : off ≠ 0x02000720 := fun e => hplain.2 (by simp [e])
  have hw1c : (regInfo off).w1c &&& s.openBits off w = (regInfo off).w1c := and_not_and_not_self _ _
  dsimp only
  rw [s.regWrite_word off v w halign, s.wordWrite_of_plain off v _ 8 hplain]
  split
  case isTrue hm =>
    replace hm : s.openBits off w = 0#64 := hm
    have hnot : ~~~(s.openBits off w) = BitVec.allOnes 64 := by rw [hm, BitVec.not_zero]
    have hc : s.claimed off w = BitVec.allOnes 64 :=
      (BitVec.and_eq_allOnes_iff.1 ((BitVec.not_not).symm.trans hnot)).1
    rw [hm] at hw1c ⊢
    refine ⟨rfl, fun o u => ?_, ?_, fun _ _ _ => rfl, fun _ => rfl, fun h => absurd (by simp) h⟩
    · split
      · next h =>
        rw [h.1, s.claimed_allOnes_of_le off w u (Nat.le_of_lt h.2) hc]; simp
      · simp
    · rw [← hw1c]
      simp only [State.takenBits, BitVec.and_zero, BitVec.zero_or, BitVec.not_zero, BitVec.and_allOnes]
  case isFalse hm =>
    obtain ⟨r, q, hframe⟩ := s.plainWrite_frame off v (s.openBits off w)
    refine ⟨?_, fun o u => ?_, ?_, fun o ho hd => ?_, fun hl => ?_, fun hl hroom => ?_⟩
    · rw [hframe]; rfl
    · rw [State.claimed_claim, hframe]; rfl
    · rw [State.rget_claim, s.rget_plainWrite_same off v _ htaken hne, BitVec.and_assoc, hw1c]
    · rw [State.rget_claim, s.rget_plainWrite_other off v _ htaken hne o ho hd]
    · rw [State.claim_vbWait, s.plainWrite_vbWait_of_unlocked off v _ htaken hne hl]
    · rw [State.claim_vbWait, s.plainWrite_vbWait_of_locked off v _ htaken hne hl hroom]

/-! FOYER.PROV_CTL (R83). -/

/-- A host write of PROV_CTL that meets no lock and no claim stores the limited S beside the bits that it does not name. -/
theorem State.regWrite_provCtl (s : State) (v : DWord) (hlock : Assoc.get 0 s.locks 0x02000048 = 0)
    (hclaim : s.claimed 0x02000048 .host = 0) :
    let w := (v &&& 0x1F) ||| (s.rget 0x02000048 &&& ~~~0x1F)
    s.regWrite 0x02000048 v 8 .host =
      (s.rput 0x02000048 (fput w 0 5 (min 16 (max 4 (fget w 0 5))))).claim 0x02000048 (BitVec.allOnes 64) .host := by
  have hplain : IsPlainOffset 0x02000048 := ⟨by decide, by decide⟩
  have hopen : s.openBits 0x02000048 .host = BitVec.allOnes 64 := by rw [State.openBits, hclaim]; decide
  have hlocked : s.lockedBits 0x02000048 = 0 := by rw [State.lockedBits, hlock]; decide
  have htaken : s.takenBits 0x02000048 (BitVec.allOnes 64) = 0x1F := by rw [State.takenBits, hlocked]; decide
  have hw1c : (regInfo 0x02000048).w1c = 0#64 := by decide
  dsimp only
  rw [s.regWrite_word _ v .host (by decide), hopen, if_neg (by decide), s.wordWrite_of_plain _ v _ 8 hplain,
    State.plainWrite_eq, htaken, regMerge_provCtl, hlocked, hw1c]
  dsimp only
  rw [if_neg (by decide), BitVec.and_zero, BitVec.zero_and, BitVec.not_zero, BitVec.and_allOnes]

/-- The five bits of S come from the write, the others from the register. -/
theorem fget_mergeLow5 (v old : DWord) :
    fget ((v &&& 0x1F) ||| (old &&& ~~~0x1F)) 0 5 = fget v 0 5 ∧ fget ((v &&& 0x1F) ||| (old &&& ~~~0x1F)) 5 59 = fget old 5 59 := by
  have hmask : ∀ i, (0x1F : DWord).getLsbD i = decide (i < 5) := fun i => Nat.testBit_two_pow_sub_one 5 i
  constructor
  · apply fget_congr
    intro i hi
    have hlow : decide (0 + i < 5) = true := decide_eq_true (by omega)
    rw [BitVec.getLsbD_or, BitVec.getLsbD_and, BitVec.getLsbD_and, BitVec.getLsbD_not, hmask, hlow, Bool.and_true, Bool.not_true,
      Bool.and_false, Bool.and_false, Bool.or_false]
  · apply fget_congr
    intro i hi
    have hin : decide (5 + i < 64) = true := decide_eq_true (by omega)
    have hhigh : decide (5 + i < 5) = false := decide_eq_false (by omega)
    rw [BitVec.getLsbD_or, BitVec.getLsbD_and, BitVec.getLsbD_and, BitVec.getLsbD_not, hmask, hhigh, hin, Bool.and_false,
      Bool.false_or, Bool.not_false, Bool.and_true, Bool.and_true]

/-! BAR4 and configuration space (R341, R342, R365). -/

/-- An aligned write of 8 bytes to the MSI-X table: a vector that it unmasks sends its pending interrupt. -/
theorem State.msixWrite_table (s : State) (off : Nat) (v : DWord) (htable : off < 0x8000) :
    let n := off / 16
    let word := 4096 + n / 64
    let pend := Assoc.get 0 s.msixTable word
    let table := Assoc.put 0 s.msixTable (off / 8) v
    s.msixWrite off v 8 =
      if off / 8 % 2 = 1 ∧ fget v 32 1 = 0 ∧ fget pend (n % 64) 1 = 1 then
        ({ s with msixTable := Assoc.put 0 table word (fput pend (n % 64) 1 0) } : State).give (Out.msix n)
      else { s with msixTable := table } := by
  have hn : off / 8 / 2 = off / 16 := Nat.div_div_eq_div_mul ..
  have hpend : Assoc.get 0 (Assoc.put 0 s.msixTable (off / 8) v) (4096 + off / 16 / 64) =
      Assoc.get 0 s.msixTable (4096 + off / 16 / 64) := Assoc.get_put_other _ _ _ _ _ (by omega)
  unfold State.msixWrite
  simp only [writeMask, hn, Nat.not_le.2 htable, if_false, if_true, BitVec.and_allOnes, BitVec.not_allOnes, BitVec.and_zero,
    BitVec.or_zero, hpend]

/-- The same by what can be read from the table and the output afterwards. -/
theorem State.msixWrite_spec (s : State) (off : Nat) (v : DWord) (htable : off < 0x8000) :
    let n := off / 16
    let word := 4096 + n / 64
    let sends := off / 8 % 2 = 1 ∧ fget v 32 1 = 0 ∧ fget (Assoc.get 0 s.msixTable word) (n % 64) 1 = 1
    let t := s.msixWrite off v 8
    t = ({ s with msixTable := t.msixTable, out := t.out } : State) ∧ Assoc.get 0 t.msixTable (off / 8) = v ∧
      (∀ k, k ≠ off / 8 → k ≠ word → Assoc.get 0 t.msixTable k = Assoc.get 0 s.msixTable k) ∧
      (sends → t.out = s.out ++ [Out.msix n] ∧ fget (Assoc.get 0 t.msixTable word) (n % 64) 1 = 0) ∧
      (¬ sends → t.out = s.out ∧ Assoc.get 0 t.msixTable word = Assoc.get 0 s.msixTable word) := by
  intro n word sends t
  have hword : word ≠ off / 8 := by omega
  have ht := s.msixWrite_table off v htable
  by_cases hsends : sends
  · replace ht := ht.trans (if_pos hsends)
    rw [show t = _ from ht]
    refine ⟨rfl, ?_, fun k hk hkw => ?_, fun _ => ⟨rfl, ?_⟩, fun h => absurd hsends h⟩
    · exact (Assoc.get_put_other _ _ _ _ _ hword.symm).trans (Assoc.get_put_same ..)
    · exact (Assoc.get_put_other _ _ _ _ _ hkw).trans (Assoc.get_put_other _ _ _ _ _ hk)
    · have hbit : n % 64 + 1 ≤ 64 := by omega
      exact (congrArg (fget · (n % 64) 1) (Assoc.get_put_same ..)).trans (fget_fput_same _ _ 1 0 hbit)
  · replace ht := ht.trans (if_neg hsends)
    rw [show t = _ from ht]
    exact ⟨rfl, Assoc.get_put_same .., fun k hk _ => Assoc.get_put_other _ _ _ _ _ hk, fun h => absurd h hsends,
      fun _ => ⟨rfl, Assoc.get_put_other _ _ _ _ _ hword⟩⟩

/-- An aligned write of 8 bytes to BAR4 takes place where a secure stream carries it, when the function asks for one (R369). -/
theorem exec_registerWrite_bar4 (s : State) (off : Nat) (v : DWord) (halign : off % 8 = 0) (htable : off < 0x8000) :
    exec (.registerWrite (.bar4 off) v 8 .host) s = Host.Outcome.next (if s.carried 4 off then s.msixWrite off v 8 else s) := by
  have hodd : ¬((8 ≠ 4 ∧ 8 ≠ 8) ∨ off % 8 ≠ 0) := by omega
  have hout : ¬(2 ^ 16 < off + 8) := by omega
  have hhalf : ¬(off % 8 = 4) := by omega
  have hv : (if off % 8 = 4 then v <<< (32 : Nat) else v) = v := if_neg hhalf
  rw [exec_registerWrite]
  exact (if_neg (by rw [decide_eq_true_eq]; exact not_or.2 ⟨hodd, hout⟩)).trans
    (congrArg (fun x => Host.Outcome.next (if s.carried 4 off then s.msixWrite off x 8 else s)) hv)

/-- A write of configuration space waits while an FLR is in progress (R367). -/
theorem exec_registerWrite_config (s : State) (w : CfgWrite) (v : DWord) (size : Nat) :
    exec (.registerWrite (.config w) v size .host) s =
      Host.Outcome.next (if s.fld 0x0008 4 1 = 1 then s.give .retry else s.cfgWrite w) := by
  rw [exec_registerWrite]
  rfl

/-- Device Control takes the size codes that the function supports (R339). -/
theorem State.cfgWrite_deviceControl (s : State) (relaxed ido : Bool) (mps mrrs : BitVec 3) (hmps : mps.toNat ≤ 2)
    (hmrrs : mrrs.toNat ≤ 5) :
    s.cfgWrite (.deviceControl relaxed ido mps mrrs) =
      { s with cfg := { s.cfg with relaxed := relaxed, ido := ido, mps := mps, mrrs := mrrs } } := by
  change ({ s with cfg := { s.cfg with
    relaxed := relaxed, ido := ido, mps := if mps.toNat ≤ 2 then mps else s.cfg.mps,
    mrrs := if mrrs.toNat ≤ 5 then mrrs else s.cfg.mrrs } } : State) = _
  rw [if_pos hmps, if_pos hmrrs]

/-- Settles O41, clause by clause: `regWrite_plain_spec` for a register without behaviour of its own, `State.regWrite_provCtl`,
`State.mayWrite` for a writer that may not write, `State.msixWrite_spec`, and the cases of configuration space. -/
theorem registerWritesFollowTheirType : Obligations.RegisterWritesFollowTheirType := by
  intro s
  refine ⟨?plain, ?provCtl, ?closed, ?misaligned, ?bar4, ?config⟩
  case plain =>
    intro off v writer i lock open_ m halign hlt hrange hspecial htaken hmay
    have hoff : off / 8 * 8 = off := by omega
    have hopen : s.mayWrite off writer = true := by
      rcases hmay with ⟨rfl, h⟩ | ⟨rfl, h⟩ | ⟨rfl, hphase, hpcie⟩
      · exact h
      · exact (congrArg s.endpointOpen hoff).trans h
      · rw [s.mayWrite_firmware, hoff, decide_eq_true hphase, hpcie]
        rfl
    refine ⟨s.regWrite off v 8 writer, ?_, regWrite_plain_spec s off v writer halign ⟨hrange, hspecial⟩ htaken⟩
    rw [exec_registerWrite_bar0 s off 8 v writer (.inr rfl) halign (by omega), if_pos hopen, if_neg (by omega)]
  case provCtl =>
    intro v hopen hlock hclaim
    have hfields := fget_mergeLow5 v (s.rget 0x02000048)
    refine ⟨s.regWrite 0x02000048 v 8 .host, ?_, ?_⟩
    · rw [exec_registerWrite_bar0 s _ 8 v .host (.inr rfl) (by decide) (by decide),
        if_pos (show s.mayWrite 0x02000048 .host = true from hopen), if_neg (by decide)]
    · rw [s.regWrite_provCtl v hlock hclaim]
      refine ⟨rfl, ?_, ?_⟩
      · rw [State.fld, State.rget, State.claim_reg, ← State.rget, State.rget_rput_same, fget_fput_same _ _ _ _ (by decide), hfields.1]
        exact Nat.mod_eq_of_lt (by omega)
      · rw [State.fld, State.rget, State.claim_reg, ← State.rget, State.rget_rput_same,
          fget_fput_other _ _ _ _ _ _ (by decide) (by decide), hfields.2, State.fld]
  case closed =>
    intro off size v writer hsize halign hfit hno
    have hshut : s.mayWrite off writer = false := by
      rcases hno with ⟨rfl, h⟩ | ⟨rfl, h⟩ | ⟨rfl, hpcie | hphase⟩
      · exact h
      · exact h
      · rw [s.mayWrite_firmware, hpcie, Bool.not_true, Bool.and_false]
      · rw [s.mayWrite_firmware, decide_eq_false (not_or.2 hphase), Bool.false_and]
    rw [exec_registerWrite_bar0 s off size v writer hsize halign hfit, hshut]
    rfl
  case misaligned =>
    intro off size v h
    exact exec_registerWrite_bar0_unsupported s off size v h
  case bar4 =>
    intro off v halign htable n word sends
    rw [exec_registerWrite_bar4 s off v halign htable]
    refine ⟨fun h => by rw [h]; rfl, fun h => ⟨s.msixWrite off v 8, by rw [h]; rfl, s.msixWrite_spec off v htable⟩⟩
  case config =>
    intro size v cfg
    refine ⟨fun hbusy w => ?_, fun hidle => ?_⟩
    · exact (exec_registerWrite_config s w v size).trans (by rw [if_pos hbusy]; rfl)
    · have hcfg : ∀ w, cfg w = Host.Outcome.next (s.cfgWrite w) := fun w =>
        (exec_registerWrite_config s w v size).trans (by rw [if_neg (by omega)])
      exact ⟨fun relaxed ido mps mrrs hmps hmrrs => by
        rw [hcfg, s.cfgWrite_deviceControl relaxed ido mps mrrs hmps hmrrs], fun k => hcfg _, hcfg _⟩

end Sys2Proof.Machine
end

section
/-! The Visitor Book (R488 to R495): its entries, what its operations leave unchanged, and the order of its sources. -/

namespace Sys2Proof.Machine

/-! Entries. -/

theorem entriesOf_vals (ws : List DWord) : (entriesOf ws).map (fun e => e.val) = ws := by
  induction ws with
  | nil => rfl
  | cons w t ih => cases t with
    | nil => rfl
    | cons x t => exact congrArg (w :: ·) ih

theorem entriesOf_length (ws : List DWord) : (entriesOf ws).length = ws.length := by
  rw [← List.length_map (fun e : VEntry => e.val), entriesOf_vals]

theorem uncount_cons (e : VEntry) (t : List VEntry) :
    uncount (e :: t) = if e.fin then { e with counted := false } :: t else { e with counted := false } :: uncount t := rfl

theorem uncount_vals (l : List VEntry) : (uncount l).map (fun e => e.val) = l.map (fun e => e.val) := by
  induction l with
  | nil => rfl
  | cons e t ih => by_cases h : e.fin = true <;> simp [uncount_cons, h, ih]

/-- What falls out falls out oldest first; the marks of what stays may change, its values do not. -/
theorem discardOldest_vals (n : Nat) (l : List VEntry) :
    (discardOldest n l).map (fun e => e.val) = (l.map (fun e => e.val)).drop n := by
  rw [← List.map_drop]
  cases n with
  | zero => rfl
  | succ n =>
    delta discardOldest
    cases (l.take (n + 1)).getLast? with
    | none => rfl
    | some e => cases l.drop (n + 1) with
      | nil => rfl
      | cons x r =>
        change (if e.fin = true then x :: r else uncount ({ x with trunc := true } :: r)).map _ = (x :: r).map _
        split
        · rfl
        · exact uncount_vals _

theorem discardOldest_zero (l : List VEntry) : discardOldest 0 l = l := rfl

theorem throughEnd_cons (e : VEntry) (t : List VEntry) : throughEnd (e :: t) = if e.fin then 1 else throughEnd t + 1 := rfl

/-- The first end-mark ends what DROP_PACKET passes. -/
theorem throughEnd_append (pre post : List VEntry) (e : VEntry) (he : e.fin = true) (hpre : ∀ x ∈ pre, x.fin = false) :
    throughEnd (pre ++ e :: post) = pre.length + 1 := by
  induction pre with
  | nil => simp [throughEnd_cons, he]
  | cons x t ih =>
    simp [throughEnd_cons, hpre x List.mem_cons_self, ih fun y hy => hpre y (List.mem_cons_of_mem x hy)]

theorem throughEnd_of_unended (l : List VEntry) (h : ∀ x ∈ l, x.fin = false) : throughEnd l = l.length := by
  induction l with
  | nil => rfl
  | cons x t ih => simp [throughEnd_cons, h x List.mem_cons_self, ih fun y hy => h y (List.mem_cons_of_mem x hy)]

/-! Fields of the registers, and the FIFO as one update. -/

theorem State.fld_setFld_reg_other (s : State) (off lo w x j lo' w' : Nat) (h : j ≠ off) :
    (s.setFld off lo w x).fld j lo' w' = s.fld j lo' w' := by
  rw [State.fld, State.rget_setFld_other _ _ _ _ _ _ h, State.fld]

theorem State.fld_setFld_one (s : State) (off lo : Nat) (h : lo + 1 ≤ 64) : (s.setFld off lo 1 1).fld off lo 1 = 1 :=
  State.fld_setFld_same s off lo 1 1 h

/-- The FIFO holds `l`, and the value last read is `last`. -/
def State.setBook (s : State) (l : List VEntry) (last : DWord) : State := { s with vb := l, vbLast := last }

section
variable (s : State) (l : List VEntry) (last : DWord)

theorem State.setBook_vb : (s.setBook l last).vb = l := rfl
theorem State.setBook_vbLast : (s.setBook l last).vbLast = last := rfl
theorem State.setBook_vbWait : (s.setBook l last).vbWait = s.vbWait := rfl
theorem State.setBook_vbSource : (s.setBook l last).vbSource = s.vbSource := rfl
theorem State.rget_setBook (off : Nat) : (s.setBook l last).rget off = s.rget off := rfl
theorem State.fld_setBook (off lo w : Nat) : (s.setBook l last).fld off lo w = s.fld off lo w := rfl

end

/-! The pointers of the FIFO (R491). -/

theorem State.vbMove_eq (s : State) (rd wr : Nat) :
    s.vbMove rd wr = (((s.bumpFld (vbReg 0x10) 0 14 wr).bumpFld (vbReg 0x10) 16 14 rd).setFld (vbReg 0x10) 32 14
      s.vb.length).setFld (vbReg 0x10) 48 14 (packetCount s.vb) := by
  rw [State.vbMove, State.bumpFld_vb, State.bumpFld_vb]

section
variable (s : State) (rd wr : Nat)

theorem State.vbMove_vb : (s.vbMove rd wr).vb = s.vb := by
  rw [State.vbMove_eq, State.setFld_vb, State.setFld_vb, State.bumpFld_vb, State.bumpFld_vb]
theorem State.vbMove_vbWait : (s.vbMove rd wr).vbWait = s.vbWait := by
  rw [State.vbMove_eq, State.setFld_vbWait, State.setFld_vbWait, State.bumpFld_vbWait, State.bumpFld_vbWait]
theorem State.vbMove_vbLast : (s.vbMove rd wr).vbLast = s.vbLast := by
  rw [State.vbMove_eq, State.setFld_vbLast, State.setFld_vbLast, State.bumpFld_vbLast, State.bumpFld_vbLast]
theorem State.vbMove_vbSource : (s.vbMove rd wr).vbSource = s.vbSource := by
  rw [State.vbMove_eq, State.setFld_vbSource, State.setFld_vbSource, State.bumpFld_vbSource, State.bumpFld_vbSource]

theorem State.rget_vbMove_other (o : Nat) (h : o ≠ vbReg 0x10) : (s.vbMove rd wr).rget o = s.rget o := by
  rw [State.vbMove_eq, State.bumpFld, State.bumpFld, State.rget_setFld_other _ _ _ _ _ _ h,
    State.rget_setFld_other _ _ _ _ _ _ h, State.rget_setFld_other _ _ _ _ _ _ h, State.rget_setFld_other _ _ _ _ _ _ h]

theorem State.fld_vbMove_other (o lo w : Nat) (h : o ≠ vbReg 0x10) : (s.vbMove rd wr).fld o lo w = s.fld o lo w := by
  rw [State.fld, State.rget_vbMove_other _ _ _ _ h, State.fld]

theorem State.fld_vbMove_wr : (s.vbMove rd wr).fld (vbReg 0x10) 0 14 = (s.fld (vbReg 0x10) 0 14 + wr) % 2 ^ 14 := by
  rw [State.vbMove_eq, State.bumpFld, State.bumpFld, State.fld_setFld_other _ _ _ _ _ _ _ (by omega) (by omega),
    State.fld_setFld_other _ _ _ _ _ _ _ (by omega) (by omega), State.fld_setFld_other _ _ _ _ _ _ _ (by omega) (by omega),
    State.fld_setFld_same _ _ _ _ _ (by omega)]

theorem State.fld_vbMove_rd : (s.vbMove rd wr).fld (vbReg 0x10) 16 14 = (s.fld (vbReg 0x10) 16 14 + rd) % 2 ^ 14 := by
  rw [State.vbMove_eq, State.bumpFld, State.bumpFld, State.fld_setFld_other _ _ _ _ _ _ _ (by omega) (by omega),
    State.fld_setFld_other _ _ _ _ _ _ _ (by omega) (by omega), State.fld_setFld_same _ _ _ _ _ (by omega),
    State.fld_setFld_other _ _ _ _ _ _ _ (by omega) (by omega)]

theorem State.fld_vbMove_level : (s.vbMove rd wr).fld (vbReg 0x10) 32 14 = s.vb.length % 2 ^ 14 := by
  rw [State.vbMove_eq, State.fld_setFld_other _ _ _ _ _ _ _ (by omega) (by omega), State.fld_setFld_same _ _ _ _ _ (by omega)]

end

/-! VB_ATTN_N (R493). -/

/-- An event sets its bit of HOST.EVENT, and what its vector does stays with the interrupts. -/
theorem State.event_frame (s : State) (i : Nat) :
    ∃ m o, s.event i = { s.setFld 0x0028 i 1 1 with msixTable := m, out := o } := by
  unfold State.event State.msix
  dsimp only
  split
  · split
    · exact ⟨_, _, rfl⟩
    · exact ⟨_, _, rfl⟩
  · exact ⟨_, _, rfl⟩

/-- At the high watermark VB_ATTN_N is driven low, with event 3 where it was high. -/
theorem State.vbAttention_high (s : State) (h : s.fld (vbReg 0x20) 0 14 ≤ s.vb.length) :
    s.vbAttention = if s.pins.vbAttnN then { s with pins := { s.pins with vbAttnN := false } }.event 3 else s :=
  if_pos h

theorem State.vbAttention_low (s : State) (h : ¬ s.fld (vbReg 0x20) 0 14 ≤ s.vb.length)
    (hl : s.vb.length ≤ s.fld (vbReg 0x20) 16 14) : s.vbAttention = { s with pins := { s.pins with vbAttnN := true } } :=
  (if_neg h).trans (if_pos hl)

theorem State.vbAttention_between (s : State) (h : ¬ s.fld (vbReg 0x20) 0 14 ≤ s.vb.length)
    (hl : ¬ s.vb.length ≤ s.fld (vbReg 0x20) 16 14) : s.vbAttention = s :=
  (if_neg h).trans (if_neg hl)

/-- Following the watermarks changes the pin, HOST.EVENT and the interrupts alone. -/
theorem State.vbAttention_frame (s : State) :
    ∃ r p m o, s.vbAttention = { s with reg := r, pins := p, msixTable := m, out := o } ∧
      ∀ off, off ≠ 0x0028 → Assoc.get 0 r off = s.rget off := by
  by_cases h : s.fld (vbReg 0x20) 0 14 ≤ s.vb.length
  · rw [s.vbAttention_high h]
    split
    · obtain ⟨m, o, he⟩ := State.event_frame { s with pins := { s.pins with vbAttnN := false } } 3
      exact ⟨_, _, m, o, he, fun off hoff => State.rget_setFld_other s 0x0028 3 1 1 off hoff⟩
    · exact ⟨_, _, _, _, rfl, fun _ _ => rfl⟩
  · by_cases hl : s.vb.length ≤ s.fld (vbReg 0x20) 16 14
    · exact ⟨_, _, _, _, s.vbAttention_low h hl, fun _ _ => rfl⟩
    · exact ⟨_, _, _, _, s.vbAttention_between h hl, fun _ _ => rfl⟩

theorem State.vbAttention_vb (s : State) : s.vbAttention.vb = s.vb := by
  obtain ⟨r, p, m, o, h, -⟩ := s.vbAttention_frame; rw [h]
theorem State.vbAttention_vbWait (s : State) : s.vbAttention.vbWait = s.vbWait := by
  obtain ⟨r, p, m, o, h, -⟩ := s.vbAttention_frame; rw [h]
theorem State.vbAttention_vbLast (s : State) : s.vbAttention.vbLast = s.vbLast := by
  obtain ⟨r, p, m, o, h, -⟩ := s.vbAttention_frame; rw [h]
theorem State.vbAttention_vbSource (s : State) : s.vbAttention.vbSource = s.vbSource := by
  obtain ⟨r, p, m, o, h, -⟩ := s.vbAttention_frame; rw [h]

theorem State.rget_vbAttention (s : State) (off : Nat) (hoff : off ≠ 0x0028) : s.vbAttention.rget off = s.rget off := by
  obtain ⟨r, p, m, o, h, hreg⟩ := s.vbAttention_frame
  rw [h]; exact hreg off hoff

theorem State.fld_vbAttention (s : State) (off lo w : Nat) (hoff : off ≠ 0x0028) :
    s.vbAttention.fld off lo w = s.fld off lo w := by
  rw [State.fld, s.rget_vbAttention off hoff, State.fld]

/-- The pin where the level reaches HWM, where it is at or below LWM, and between them. -/
theorem State.vbAttention_pins (s : State) :
    (s.fld (vbReg 0x20) 0 14 ≤ s.vb.length → s.vbAttention.pins.vbAttnN = false) ∧
      (s.vb.length < s.fld (vbReg 0x20) 0 14 → s.vb.length ≤ s.fld (vbReg 0x20) 16 14 → s.vbAttention.pins.vbAttnN = true) ∧
      (s.vb.length < s.fld (vbReg 0x20) 0 14 → s.fld (vbReg 0x20) 16 14 < s.vb.length → s.vbAttention.pins = s.pins) := by
  refine ⟨fun h => ?_, fun h hl => ?_, fun h hl => ?_⟩
  · rw [s.vbAttention_high h]
    split
    · obtain ⟨m, o, he⟩ := State.event_frame { s with pins := { s.pins with vbAttnN := false } } 3
      rw [he]; rfl
    · next hlow => exact Bool.eq_false_iff.2 hlow
  · rw [s.vbAttention_low (Nat.not_le.2 h) hl]
  · rw [s.vbAttention_between (Nat.not_le.2 h) (Nat.not_le.2 hl)]

/-! A packet enters the FIFO (R490, R492). -/

/-- The entries that fall out when `p` enters. -/
def State.vbLost (s : State) (p : VPkt) : Nat := s.vb.length + p.words.length - 8192

theorem State.vbEnter_eq (s : State) (p : VPkt) :
    s.vbEnter p = (((s.setBook (discardOldest (s.vbLost p) s.vb ++ entriesOf p.words) s.vbLast).bumpFld (vbReg 0x28) 16 32
      (s.vbLost p)).vbMove (s.vbLost p) p.words.length).vbAttention := by
  unfold State.vbEnter State.vbLost State.setBook
  simp only [entriesOf_length]

theorem State.vbEnter_vb (s : State) (p : VPkt) :
    (s.vbEnter p).vb = discardOldest (s.vbLost p) s.vb ++ entriesOf p.words := by
  rw [State.vbEnter_eq, State.vbAttention_vb, State.vbMove_vb, State.bumpFld_vb, State.setBook_vb]
theorem State.vbEnter_vbWait (s : State) (p : VPkt) : (s.vbEnter p).vbWait = s.vbWait := by
  rw [State.vbEnter_eq, State.vbAttention_vbWait, State.vbMove_vbWait, State.bumpFld_vbWait, State.setBook_vbWait]
theorem State.vbEnter_vbSource (s : State) (p : VPkt) : (s.vbEnter p).vbSource = s.vbSource := by
  rw [State.vbEnter_eq, State.vbAttention_vbSource, State.vbMove_vbSource, State.bumpFld_vbSource, State.setBook_vbSource]

/-- Every entry that falls out is counted. -/
theorem State.fld_vbEnter_lost (s : State) (p : VPkt) :
    (s.vbEnter p).fld (vbReg 0x28) 16 32 = (s.fld (vbReg 0x28) 16 32 + s.vbLost p) % 2 ^ 32 := by
  rw [State.vbEnter_eq, State.fld_vbAttention _ _ _ _ (by decide), State.fld_vbMove_other _ _ _ _ _ _ (by decide), State.bumpFld,
    State.fld_setFld_same _ _ _ _ _ (by omega), State.fld_setBook]

theorem State.fld_vbEnter_ptr (s : State) (p : VPkt) :
    (s.vbEnter p).fld (vbReg 0x10) 0 14 = (s.fld (vbReg 0x10) 0 14 + p.words.length) % 2 ^ 14 ∧
      (s.vbEnter p).fld (vbReg 0x10) 16 14 = (s.fld (vbReg 0x10) 16 14 + s.vbLost p) % 2 ^ 14 ∧
      (s.vbEnter p).fld (vbReg 0x10) 32 14 = (s.vbEnter p).vb.length % 2 ^ 14 := by
  have hreg : vbReg 0x10 ≠ vbReg 0x28 := by decide
  have hattn : vbReg 0x10 ≠ 0x0028 := by decide
  refine ⟨?_, ?_, ?_⟩
  · rw [State.vbEnter_eq, State.fld_vbAttention _ _ _ _ hattn, State.fld_vbMove_wr, State.bumpFld,
      State.fld_setFld_reg_other _ _ _ _ _ _ _ _ hreg, State.fld_setBook]
  · rw [State.vbEnter_eq, State.fld_vbAttention _ _ _ _ hattn, State.fld_vbMove_rd, State.bumpFld,
      State.fld_setFld_reg_other _ _ _ _ _ _ _ _ hreg, State.fld_setBook]
  · rw [State.vbEnter_eq, State.fld_vbAttention _ _ _ _ hattn, State.fld_vbMove_level, State.vbAttention_vb, State.vbMove_vb]

/-- The values in the FIFO are the newest 8,192 of those that stood there and those that enter. -/
theorem State.vbEnter_vals (s : State) (p : VPkt) (h : p.payload.length ≤ 15) :
    (s.vbEnter p).vb.map (fun e => e.val) = (s.vb.map (fun e => e.val) ++ p.words).drop (s.vbLost p) := by
  have hwords : p.words.length = p.payload.length + 2 := by
    rw [VPkt.words, List.length_cons, List.length_cons]
  have hlost : s.vbLost p ≤ (s.vb.map (fun e => e.val)).length := by
    unfold State.vbLost
    rw [List.length_map]
    omega
  rw [State.vbEnter_vb, List.map_append, discardOldest_vals, entriesOf_vals, List.drop_append_of_le_length hlost]

/-! The source that commits next (R490). -/

theorem foldOver_min_eq_foldl (t : List Nat) (a : Nat) : foldOver (fun m x => min m x) a t = t.foldl min a := by
  induction t generalizing a with
  | nil => rfl
  | cons x t ih => exact ih _

/-- The next source is the least above the last one that committed, or else the least of all. -/
theorem State.vbNext_eq (s : State) :
    s.vbNext = (((s.vbWait.map VPkt.source).filter (fun x => decide (s.vbSource < x))).min?).or (s.vbWait.map VPkt.source).min? := by
  delta State.vbNext
  dsimp only
  cases (s.vbWait.map VPkt.source).filter (fun x => decide (s.vbSource < x)) with
  | cons a t => exact congrArg some (foldOver_min_eq_foldl t a)
  | nil => cases s.vbWait.map VPkt.source with
    | nil => rfl
    | cons a t => exact congrArg some (foldOver_min_eq_foldl t a)

/-- The order of the sources: `k` is the least above `last` where there is one, or the least of all (R490). -/
def IsNextSource (last k : Nat) (waiting : List VPkt) : Prop :=
  ((∃ r ∈ waiting, last < r.source) → last < k ∧ ∀ r ∈ waiting, last < r.source → k ≤ r.source) ∧
    ((∀ r ∈ waiting, r.source ≤ last) → ∀ r ∈ waiting, k ≤ r.source)

theorem State.vbNext_spec (s : State) (k : Nat) (h : s.vbNext = some k) :
    (∃ p ∈ s.vbWait, p.source = k) ∧ IsNextSource s.vbSource k s.vbWait := by
  rw [State.vbNext_eq, Option.or_eq_some_iff] at h
  rcases h with hlater | ⟨hnone, hleast⟩
  · rw [List.min?_eq_some_iff] at hlater
    obtain ⟨hmem, hle⟩ := hlater
    simp only [List.mem_filter, List.mem_map, decide_eq_true_eq] at hmem hle
    obtain ⟨⟨p, hp, hk⟩, hlt⟩ := hmem
    refine ⟨⟨p, hp, hk⟩, fun _ => ⟨hlt, fun r hr hrlt => hle _ ⟨⟨r, hr, rfl⟩, hrlt⟩⟩, fun hall => ?_⟩
    have := hall p hp
    omega
  · rw [List.min?_eq_some_iff] at hleast
    obtain ⟨hmem, hle⟩ := hleast
    simp only [List.min?_eq_none_iff, List.filter_eq_nil_iff, List.mem_map, decide_eq_true_eq] at hnone hmem hle
    refine ⟨hmem, fun ⟨r, hr, hrlt⟩ => absurd hrlt (hnone _ ⟨r, hr, rfl⟩), fun _ r hr => hle _ ⟨r, hr, rfl⟩⟩

theorem State.vbNext_eq_none (s : State) (h : s.vbNext = none) : s.vbWait = [] := by
  rw [State.vbNext_eq, Option.or_eq_none_iff] at h
  simpa using h.2

/-- The state once `q`, the oldest packet of its source, no longer waits. -/
def State.takeWaiting (s : State) (q : VPkt) : State := { s with vbWait := dropFirst q.source s.vbWait, vbSource := q.source }

/-- A commit takes the oldest packet of the next source, when any waits (R490). -/
theorem State.vbCommitOne_cases (s : State) :
    (s.vbWait = [] ∧ s.vbCommitOne = s) ∨
      ∃ q ∈ s.vbWait, IsNextSource s.vbSource q.source s.vbWait ∧
        s.vbCommitOne = (s.takeWaiting q).vbEnter q := by
  unfold State.vbCommitOne
  cases hnext : s.vbNext with
  | none => exact .inl ⟨s.vbNext_eq_none hnext, rfl⟩
  | some k =>
    obtain ⟨⟨p, hp, hpk⟩, horder⟩ := s.vbNext_spec k hnext
    dsimp only
    cases hfind : s.vbWait.find? (fun p => p.source == k) with
    | none => exact absurd hpk (by simpa using List.find?_eq_none.1 hfind p hp)
    | some q =>
      have hqk : q.source = k := by simpa using List.find?_some hfind
      subst hqk
      exact .inr ⟨q, List.mem_of_find?_eq_some hfind, horder, rfl⟩

/-! Reads, DROP_PACKET and the watermarks (R492, R495). -/

theorem exec_vbCommit (s : State) : exec .vbCommit s = Host.Outcome.next s.vbCommitOne := by
  rfl

theorem exec_vbDataRead (s : State) (wide : Bool) : exec (.vbDataRead wide) s = execVbDataRead wide s := by
  rfl

theorem exec_dropPacket (s : State) : exec .dropPacket s = Host.Outcome.next (if s.hostOpen (vbReg 0x18) then s.vbDrop else s) := by
  rfl

theorem exec_vbWmWrite (s : State) (value : DWord) :
    exec (.vbWmWrite value) s = Host.Outcome.next (if s.hostOpen (vbReg 0x20) then
      (s.vbWm value (BitVec.allOnes 64)).claim (vbReg 0x20) (BitVec.allOnes 64) .host else s) := by
  rfl

/-- A read that the device does not take returns zeros (R346, R369). -/
theorem execVbDataRead_closed (s : State) (wide : Bool) (h : s.hostOpen (vbReg 0) = false) :
    execVbDataRead wide s = Host.Outcome.next (s.give (.data (List.replicate (if wide = true then 8 else 4) 0))) := by
  cases wide <;> simp only [execVbDataRead, h] <;> rfl

theorem execVbDataRead_narrow (s : State) (h : s.hostOpen (vbReg 0) = true) :
    execVbDataRead false s = Host.Outcome.next ((s.setFld (vbReg 0x28) 1 1 1).give (.data [0, 0, 0, 0])) := by
  simp only [execVbDataRead, h, if_true]; rfl

theorem execVbDataRead_wide (s : State) (h : s.hostOpen (vbReg 0) = true) :
    execVbDataRead true s = Host.Outcome.next (s.vbRead.1.give (.data (leBytes 8 s.vbRead.2.toNat))) := by
  simp only [execVbDataRead, h, if_true]; rfl

theorem State.vbRead_empty (s : State) (h : s.vb = []) :
    s.vbRead = ((s.setFld (vbReg 0x08) 2 1 1).setFld (vbReg 0x28) 0 1 1, s.vbLast) := by
  unfold State.vbRead
  rw [h]
  dsimp only
  rw [State.setFld_vbLast, State.setFld_vbLast]

/-- VB.META for an entry that is read: the end-mark and the truncation bit (R492). -/
def VEntry.metaWord (e : VEntry) : DWord := BitVec.ofNat 64 ((if e.fin then 1 else 0) + (if e.trunc then 2 else 0))

theorem VEntry.fget_metaWord (e : VEntry) :
    fget e.metaWord 0 1 = (if e.fin = true then 1 else 0) ∧ fget e.metaWord 1 1 = (if e.trunc = true then 1 else 0) ∧ fget e.metaWord 2 1 = 0 := by
  unfold VEntry.metaWord
  cases e.fin <;> cases e.trunc <;> decide

theorem State.vbRead_entry (s : State) (e : VEntry) (es : List VEntry) (h : s.vb = e :: es) :
    s.vbRead = ((((s.rput (vbReg 0x08) e.metaWord).setBook es e.val).vbMove 1 0).vbAttention, e.val) := by
  unfold State.vbRead
  rw [h]
  rfl

theorem State.vbDrop_eq (s : State) :
    s.vbDrop = ((s.setBook (s.vb.drop (throughEnd s.vb)) s.vbLast).vbMove (throughEnd s.vb) 0).vbAttention := by
  rfl

/-- What a read of an entry leaves: the rest of the FIFO, the value, VB.META, and VB.PTR one entry further. -/
theorem State.vbRead_entry_spec (s : State) (e : VEntry) (es : List VEntry) (h : s.vb = e :: es) :
    let t := s.vbRead.1
    s.vbRead.2 = e.val ∧ t.vb = es ∧ t.vbLast = e.val ∧ t.vbWait = s.vbWait ∧ t.rget (vbReg 0x08) = e.metaWord ∧
      t.fld (vbReg 0x10) 0 14 = s.fld (vbReg 0x10) 0 14 ∧
      t.fld (vbReg 0x10) 16 14 = (s.fld (vbReg 0x10) 16 14 + 1) % 2 ^ 14 ∧ t.fld (vbReg 0x10) 32 14 = es.length % 2 ^ 14 := by
  have hattn : vbReg 0x10 ≠ 0x0028 := by decide
  have hmeta : vbReg 0x10 ≠ vbReg 0x08 := by decide
  have hfld : ∀ lo w, (s.rput (vbReg 0x08) e.metaWord).fld (vbReg 0x10) lo w = s.fld (vbReg 0x10) lo w := fun lo w => by
    rw [State.fld, State.rget_rput_other _ _ _ _ hmeta, State.fld]
  rw [s.vbRead_entry e es h]
  dsimp only
  refine ⟨rfl, ?_, ?_, ?_, ?_, ?_, ?_, ?_⟩
  · rw [State.vbAttention_vb, State.vbMove_vb, State.setBook_vb]
  · rw [State.vbAttention_vbLast, State.vbMove_vbLast, State.setBook_vbLast]
  · rw [State.vbAttention_vbWait, State.vbMove_vbWait, State.setBook_vbWait, State.rput_vbWait]
  · rw [State.rget_vbAttention _ _ (by decide), State.rget_vbMove_other _ _ _ _ hmeta.symm, State.rget_setBook, State.rget_rput_same]
  · rw [State.fld_vbAttention _ _ _ _ hattn, State.fld_vbMove_wr, State.fld_setBook, hfld, Nat.add_zero]
    exact Nat.mod_eq_of_lt (fget_lt _ _ _)
  · rw [State.fld_vbAttention _ _ _ _ hattn, State.fld_vbMove_rd, State.fld_setBook, hfld]
  · rw [State.fld_vbAttention _ _ _ _ hattn, State.fld_vbMove_level, State.setBook_vb]

theorem State.vbDrop_spec (s : State) :
    s.vbDrop.vbWait = s.vbWait ∧ s.vbDrop.vbLast = s.vbLast ∧ s.vbDrop.vb = s.vb.drop (throughEnd s.vb) ∧
      s.vbDrop.fld (vbReg 0x10) 16 14 = (s.fld (vbReg 0x10) 16 14 + throughEnd s.vb) % 2 ^ 14 := by
  rw [State.vbDrop_eq]
  refine ⟨?_, ?_, ?_, ?_⟩
  · rw [State.vbAttention_vbWait, State.vbMove_vbWait, State.setBook_vbWait]
  · rw [State.vbAttention_vbLast, State.vbMove_vbLast, State.setBook_vbLast]
  · rw [State.vbAttention_vb, State.vbMove_vb, State.setBook_vb]
  · rw [State.fld_vbAttention _ _ _ _ (by decide), State.fld_vbMove_rd, State.fld_setBook]

/-- A state whose registers alone differ still does so after it has given a value. -/
theorem State.give_of_reg {s t : State} (d : Out) (h : ∃ r, t = { s with reg := r }) :
    t.give d = { s with reg := (t.give d).reg, out := s.out ++ [d] } := by
  obtain ⟨r, rfl⟩ := h
  rfl

theorem State.setFld_frame (s : State) (off lo w x : Nat) : ∃ r, s.setFld off lo w x = { s with reg := r } := ⟨_, rfl⟩

theorem State.setFld_setFld_frame (s : State) (off lo w x off' lo' w' x' : Nat) :
    ∃ r, (s.setFld off lo w x).setFld off' lo' w' x' = { s with reg := r } := ⟨_, rfl⟩

theorem State.fld_give (s : State) (d : Out) (off lo w : Nat) : (s.give d).fld off lo w = s.fld off lo w := rfl
theorem State.rget_give (s : State) (d : Out) (off : Nat) : (s.give d).rget off = s.rget off := rfl

theorem State.getLast?_give (s : State) (d : Out) : (s.give d).out.getLast? = some d := List.getLast?_concat

/-! The watermarks (R8, R495). -/

/-- VB.WM as a write of all its bits leaves it before the limits: a locked bit keeps its value. -/
def State.wmMerge (s : State) (value : DWord) : DWord :=
  (value &&& ~~~(Assoc.get 0 s.locks (vbReg 0x20))) ||| (s.rget (vbReg 0x20) &&& Assoc.get 0 s.locks (vbReg 0x20))

/-- HWM as it is taken. -/
def wmHigh (v : DWord) : Nat := min 8192 (max 1 (fget v 0 14))

/-- The record of a write that a lock or the limits have held back. -/
def State.wmRecord (s : State) (value : DWord) : State := s.post 0x1050 0 0 0 [BitVec.ofNat 64 (vbReg 0x20), value]

/-- Watermarks within their limits read back. -/
theorem fget_watermarks (h l : Nat) (hh : h ≤ 8192) (hl : l < 2 ^ 14) :
    fget (BitVec.ofNat 64 (h + l * 2 ^ 16)) 0 14 = h ∧ fget (BitVec.ofNat 64 (h + l * 2 ^ 16)) 16 14 = l := by
  unfold fget bitsOf
  rw [BitVec.toNat_ofNat]
  omega

theorem State.vbWm_eq (s : State) (value : DWord) :
    s.vbWm value (BitVec.allOnes 64) =
      if wmHigh (s.wmMerge value) ≤ fget (s.wmMerge value) 16 14 then s.wmRecord value
      else ((if Assoc.get 0 s.locks (vbReg 0x20) = 0 then s else s.wmRecord value).rput (vbReg 0x20)
        (BitVec.ofNat 64 (wmHigh (s.wmMerge value) + fget (s.wmMerge value) 16 14 * 2 ^ 16))).vbAttention := by
  unfold State.vbWm
  simp only [BitVec.allOnes_and, BitVec.and_allOnes, BitVec.not_not]
  rfl

theorem State.wmRecord_of_room (s : State) (value : DWord)
    (h : (s.vbWait.filter (fun q => q.kind == 0 && q.num == 0)).length < 4) :
    (s.wmRecord value).vbWait =
      s.vbWait ++ [⟨0x1050, 0, 0, 0, s.time, [BitVec.ofNat 64 (vbReg 0x20), value]⟩] := by
  rw [State.wmRecord, State.post_of_room s 0x1050 0 0 0 _ h]
  rfl

/-- A record leaves the FIFO, the pins and VB.WM as they are. -/
theorem State.wmRecord_frame (s : State) (value : DWord) :
    (s.wmRecord value).vb = s.vb ∧ (s.wmRecord value).pins = s.pins ∧
      (s.wmRecord value).rget (vbReg 0x20) = s.rget (vbReg 0x20) := by
  obtain ⟨r, q, h⟩ := s.post_frame 0x1050 0 0 0 [BitVec.ofNat 64 (vbReg 0x20), value]
  refine ⟨?_, ?_, s.rget_post 0x1050 0 0 0 _ _ (by decide)⟩
  · rw [State.wmRecord, h]
  · rw [State.wmRecord, h]

/-- A write that leaves LWM at or above HWM changes nothing but the record (R495). -/
theorem State.vbWm_discarded (s : State) (value : DWord) (h : wmHigh (s.wmMerge value) ≤ fget (s.wmMerge value) 16 14) :
    s.vbWm value (BitVec.allOnes 64) = s.wmRecord value := by
  rw [State.vbWm_eq, if_pos h]

/-- Watermarks that are taken stand in VB.WM, and the pin follows them (R493, R495). -/
theorem State.vbWm_taken_spec (s : State) (value : DWord) (hlt : fget (s.wmMerge value) 16 14 < wmHigh (s.wmMerge value)) :
    let h := wmHigh (s.wmMerge value)
    let l := fget (s.wmMerge value) 16 14
    let t := s.vbWm value (BitVec.allOnes 64)
    t.vb = s.vb ∧ t.fld (vbReg 0x20) 0 14 = h ∧ t.fld (vbReg 0x20) 16 14 = l ∧
      t.vbWait = (if Assoc.get 0 s.locks (vbReg 0x20) = 0 then s else s.wmRecord value).vbWait ∧
      (h ≤ s.vb.length → t.pins.vbAttnN = false) ∧ (s.vb.length ≤ l → t.pins.vbAttnN = true) ∧
      (l < s.vb.length → s.vb.length < h → t.pins = s.pins) := by
  dsimp only
  rw [State.vbWm_eq, if_neg (Nat.not_le.2 hlt)]
  generalize hu : (if Assoc.get 0 s.locks (vbReg 0x20) = 0 then s else s.wmRecord value) = u
  have hkept : u.vb = s.vb ∧ u.pins = s.pins := by
    obtain ⟨hvb, hpins, -⟩ := s.wmRecord_frame value
    rw [← hu]
    split
    · exact ⟨rfl, rfl⟩
    · exact ⟨hvb, hpins⟩
  obtain ⟨hvb, hpins⟩ := hkept
  obtain ⟨hhigh, hlow⟩ := fget_watermarks (wmHigh (s.wmMerge value)) (fget (s.wmMerge value) 16 14) (Nat.min_le_left _ _)
    (fget_lt _ _ _)
  generalize wmHigh (s.wmMerge value) = h at *
  generalize fget (s.wmMerge value) 16 14 = l at *
  have hattn : vbReg 0x20 ≠ 0x0028 := by decide
  have hfld : ∀ x lo w, (u.rput (vbReg 0x20) x).fld (vbReg 0x20) lo w = fget x lo w := fun x lo w => by
    rw [State.fld, State.rget_rput_same]
  obtain ⟨hreach, hbelow, hbetween⟩ := (u.rput (vbReg 0x20) (BitVec.ofNat 64 (h + l * 2 ^ 16))).vbAttention_pins
  rw [hfld, hhigh, State.rput_vb, hvb] at hreach hbelow hbetween
  rw [hfld, hlow] at hbelow hbetween
  rw [State.rput_pins, hpins] at hbetween
  refine ⟨?_, ?_, ?_, ?_, hreach, fun hle => hbelow (by omega) hle, fun h1 h2 => hbetween h2 h1⟩
  · rw [State.vbAttention_vb, State.rput_vb, hvb]
  · rw [State.fld_vbAttention _ _ _ _ hattn, hfld, hhigh]
  · rw [State.fld_vbAttention _ _ _ _ hattn, hfld, hlow]
  · rw [State.vbAttention_vbWait, State.rput_vbWait]

/-- What the host has claimed whole is closed to every other writer of the same HCLK (R9). -/
theorem State.claimed_claim_host (s : State) (off : Nat) (w : Writer) (hw : w ≠ .host) :
    (s.claim off (BitVec.allOnes 64) .host).claimed off w = BitVec.allOnes 64 := by
  rw [State.claimed_claim, if_pos ⟨rfl, writerRank_lt_host w hw⟩, BitVec.or_allOnes]

/-! The clauses of the statement. -/

/-- R488, R490, R492: the commit, with the entries that fall out. -/
theorem vbCommit_keepsOrder (s : State) :
    ∃ t : State, exec .vbCommit s = Host.Outcome.next t ∧ (s.vbWait = [] → t = s) ∧
      (s.vbWait ≠ [] → ∃ q : VPkt, q ∈ s.vbWait ∧ t.vbWait = dropFirst q.source s.vbWait ∧ t.vbSource = q.source ∧
        ((∃ r ∈ s.vbWait, s.vbSource < r.source) → s.vbSource < q.source ∧ ∀ r ∈ s.vbWait, s.vbSource < r.source → q.source ≤ r.source) ∧
        ((∀ r ∈ s.vbWait, r.source ≤ s.vbSource) → ∀ r ∈ s.vbWait, q.source ≤ r.source) ∧
        (q.payload.length ≤ 15 →
          t.vb.map (fun e => e.val) = (s.vb.map (fun e => e.val) ++ q.words).drop (s.vbLost q)) ∧
        t.fld (vbReg 0x28) 16 32 = (s.fld (vbReg 0x28) 16 32 + s.vbLost q) % 2 ^ 32 ∧
        (s.vb.length + q.words.length ≤ 8192 → t.vb = s.vb ++ entriesOf q.words ∧
          t.fld (vbReg 0x10) 0 14 = (s.fld (vbReg 0x10) 0 14 + q.words.length) % 2 ^ 14 ∧
          t.fld (vbReg 0x10) 16 14 = s.fld (vbReg 0x10) 16 14 ∧ t.fld (vbReg 0x10) 32 14 = t.vb.length % 2 ^ 14)) := by
  refine ⟨s.vbCommitOne, exec_vbCommit s, fun hnone => ?_, fun hsome => ?_⟩
  · rcases s.vbCommitOne_cases with ⟨-, h⟩ | ⟨q, hq, -⟩
    · exact h
    · rw [hnone] at hq
      exact absurd hq List.not_mem_nil
  · rcases s.vbCommitOne_cases with ⟨hnone, -⟩ | ⟨q, hq, ⟨hlater, hleast⟩, h⟩
    · exact absurd hnone hsome
    · obtain ⟨hwr, hrd, hlevel⟩ := State.fld_vbEnter_ptr (s.takeWaiting q) q
      rw [h]
      refine ⟨q, hq, State.vbEnter_vbWait .., State.vbEnter_vbSource .., hlater, hleast, State.vbEnter_vals _ q,
        State.fld_vbEnter_lost .., fun hfit => ?_⟩
      have hzero : (s.takeWaiting q).vbLost q = 0 := Nat.sub_eq_zero_of_le hfit
      refine ⟨?_, hwr, ?_, hlevel⟩
      · rw [State.vbEnter_vb, hzero, discardOldest_zero]; rfl
      · rw [hrd, hzero, Nat.add_zero]
        exact Nat.mod_eq_of_lt (fget_lt _ _ _)

/-- R346, R369, R492: the read of VB.DATA, by the width of the access and what the FIFO holds. -/
theorem vbDataRead_takesOldest (s : State) (wide : Bool) :
    ∃ t : State, exec (.vbDataRead wide) s = Host.Outcome.next t ∧
      (s.hostOpen (vbReg 0) = false → t = { s with out := s.out ++ [Out.data (List.replicate (if wide = true then 8 else 4) 0)] }) ∧
      (s.hostOpen (vbReg 0) = true →
        (∀ (e : VEntry) (es : List VEntry), wide = true → s.vb = e :: es → t.vb = es ∧ t.vbLast = e.val ∧
          t.out.getLast? = some (Out.data (leBytes 8 e.val.toNat)) ∧ t.fld (vbReg 0x08) 0 1 = (if e.fin = true then 1 else 0) ∧
          t.fld (vbReg 0x08) 1 1 = (if e.trunc = true then 1 else 0) ∧ t.fld (vbReg 0x08) 2 1 = 0 ∧
          t.fld (vbReg 0x10) 16 14 = (s.fld (vbReg 0x10) 16 14 + 1) % 2 ^ 14 ∧ t.fld (vbReg 0x10) 0 14 = s.fld (vbReg 0x10) 0 14 ∧
          t.fld (vbReg 0x10) 32 14 = es.length % 2 ^ 14 ∧ t.vbWait = s.vbWait) ∧
        (wide = true → s.vb = [] → t = { s with reg := t.reg, out := s.out ++ [Out.data (leBytes 8 s.vbLast.toNat)] } ∧
          t.fld (vbReg 0x08) 2 1 = 1 ∧ t.fld (vbReg 0x28) 0 1 = 1 ∧ t.rget (vbReg 0x10) = s.rget (vbReg 0x10)) ∧
        (wide = false → t = { s with reg := t.reg, out := s.out ++ [Out.data [0, 0, 0, 0]] } ∧
          t.fld (vbReg 0x28) 1 1 = 1 ∧ t.rget (vbReg 0x10) = s.rget (vbReg 0x10))) := by
  rw [exec_vbDataRead]
  cases hopen : s.hostOpen (vbReg 0) with
  | false =>
    exact ⟨_, execVbDataRead_closed s wide hopen, fun _ => rfl, fun h => absurd h (by decide)⟩
  | true => cases wide with
    | false =>
      refine ⟨_, execVbDataRead_narrow s hopen, fun h => absurd h (by decide), fun _ => ⟨fun _ _ h => absurd h (by decide),
        fun h => absurd h (by decide), fun _ => ⟨State.give_of_reg _ (State.setFld_frame ..), ?_, ?_⟩⟩⟩
      · rw [State.fld_give, State.fld_setFld_one _ _ _ (by omega)]
      · rw [State.rget_give, State.rget_setFld_other _ _ _ _ _ _ (by decide)]
    | true =>
      refine ⟨_, execVbDataRead_wide s hopen, fun h => absurd h (by decide), fun _ => ⟨fun e es _ hvb => ?_,
        fun _ hvb => ?_, fun h => absurd h (by decide)⟩⟩
      · obtain ⟨hval, htvb, hlast, hwait, hmeta, hwr, hrd, hlevel⟩ := s.vbRead_entry_spec e es hvb
        obtain ⟨hfin, htrunc, hunder⟩ := e.fget_metaWord
        have hfld : ∀ lo, s.vbRead.1.fld (vbReg 0x08) lo 1 = fget e.metaWord lo 1 := fun lo => by rw [State.fld, hmeta]
        rw [State.getLast?_give, hval]
        simp only [State.fld_give, State.give_vb, State.give_vbLast, State.give_vbWait, hfld]
        exact ⟨htvb, hlast, trivial, hfin, htrunc, hunder, hrd, hwr, hlevel, hwait⟩
      · rw [s.vbRead_empty hvb]
        refine ⟨State.give_of_reg _ (State.setFld_setFld_frame ..), ?_, ?_, ?_⟩
        · rw [State.fld_give, State.fld_setFld_reg_other _ _ _ _ _ _ _ _ (by decide), State.fld_setFld_one _ _ _ (by omega)]
        · rw [State.fld_give, State.fld_setFld_one _ _ _ (by omega)]
        · rw [State.rget_give, State.rget_setFld_other _ _ _ _ _ _ (by decide), State.rget_setFld_other _ _ _ _ _ _ (by decide)]

/-- R492: DROP_PACKET moves RD behind the first end-mark, or empties a FIFO that holds none. -/
theorem dropPacket_passesEndMark (s : State) :
    ∃ t : State, exec .dropPacket s = Host.Outcome.next t ∧ (s.hostOpen (vbReg 0x18) = false → t = s) ∧
      (s.hostOpen (vbReg 0x18) = true → t.vbWait = s.vbWait ∧ t.vbLast = s.vbLast ∧
        (∀ (pre : List VEntry) (e : VEntry) (post : List VEntry), s.vb = pre ++ e :: post → e.fin = true → (∀ x ∈ pre, x.fin = false) → t.vb = post ∧
          t.fld (vbReg 0x10) 16 14 = (s.fld (vbReg 0x10) 16 14 + pre.length + 1) % 2 ^ 14) ∧
        ((∀ x ∈ s.vb, x.fin = false) → t.vb = [])) := by
  cases hopen : s.hostOpen (vbReg 0x18) with
  | false => exact ⟨s, by rw [exec_dropPacket, hopen, if_neg Bool.false_ne_true], fun _ => rfl, fun h => absurd h (by decide)⟩
  | true =>
    obtain ⟨hwait, hlast, hvb, hrd⟩ := s.vbDrop_spec
    refine ⟨s.vbDrop, by rw [exec_dropPacket, if_pos hopen], fun h => absurd h (by decide), fun _ => ⟨hwait, hlast,
      fun pre e post hs he hpre => ?_, fun hun => ?_⟩⟩
    · rw [hvb, hrd, hs, throughEnd_append pre post e he hpre]
      refine ⟨?_, by rw [Nat.add_assoc]⟩
      rw [← List.drop_drop, List.drop_left, List.drop_succ_cons, List.drop_zero]
    · rw [hvb, throughEnd_of_unended _ hun, List.drop_length]

/-- R8, R9, R493, R495: a write of the watermarks, taken or discarded whole. -/
theorem vbWmWrite_keepsLimits (s : State) (value : DWord) :
    let lock := Assoc.get 0 s.locks (vbReg 0x20)
    let h := wmHigh (s.wmMerge value)
    let l := fget (s.wmMerge value) 16 14
    ∃ t : State, exec (.vbWmWrite value) s = Host.Outcome.next t ∧ (s.hostOpen (vbReg 0x20) = false → t = s) ∧
      (s.hostOpen (vbReg 0x20) = true → t.vb = s.vb ∧ (∀ w, w ≠ .host → t.claimed (vbReg 0x20) w = BitVec.allOnes 64) ∧
        (l < h → t.fld (vbReg 0x20) 0 14 = h ∧ t.fld (vbReg 0x20) 16 14 = l ∧ (h ≤ s.vb.length → t.pins.vbAttnN = false) ∧
          (s.vb.length ≤ l → t.pins.vbAttnN = true) ∧ (l < s.vb.length → s.vb.length < h → t.pins = s.pins)) ∧
        (h ≤ l → t.rget (vbReg 0x20) = s.rget (vbReg 0x20) ∧ t.pins = s.pins) ∧
        (lock = 0 → l < h → t.vbWait = s.vbWait) ∧
        (lock ≠ 0 ∨ h ≤ l → (s.vbWait.filter (fun q => q.kind == 0 && q.num == 0)).length < 4 →
          t.vbWait = s.vbWait ++ [⟨0x1050, 0, 0, 0, s.time, [BitVec.ofNat 64 (vbReg 0x20), value]⟩])) := by
  intro lock h l
  cases hopen : s.hostOpen (vbReg 0x20) with
  | false => exact ⟨s, by rw [exec_vbWmWrite, hopen, if_neg Bool.false_ne_true], fun _ => rfl, fun h => absurd h (by decide)⟩
  | true =>
    refine ⟨(s.vbWm value (BitVec.allOnes 64)).claim (vbReg 0x20) (BitVec.allOnes 64) .host, by rw [exec_vbWmWrite, if_pos hopen],
      fun h => absurd h (by decide), fun _ => ?_⟩
    rw [State.claim_vb, State.claim_pins, State.claim_vbWait, State.fld_claim, State.fld_claim, State.rget_claim]
    rcases Nat.lt_or_ge l h with hlt | hge
    · obtain ⟨hvb, hhigh, hlow, hwait, hreach, hbelow, hbetween⟩ := s.vbWm_taken_spec value hlt
      refine ⟨hvb, fun w hw => State.claimed_claim_host _ _ w hw, fun _ => ⟨hhigh, hlow, hreach, hbelow, hbetween⟩,
        fun hge => absurd hlt (Nat.not_lt.2 hge), fun hunlocked _ => ?_, fun hwhy hroom => ?_⟩
      · rw [hwait, if_pos hunlocked]
      · rw [hwait, if_neg (hwhy.resolve_right (Nat.not_le.2 hlt)), s.wmRecord_of_room value hroom]
    · obtain ⟨hvb, hpins, hreg⟩ := s.wmRecord_frame value
      rw [s.vbWm_discarded value hge]
      exact ⟨hvb, fun w hw => State.claimed_claim_host _ _ w hw, fun hlt => absurd hlt (Nat.not_lt.2 hge), fun _ => ⟨hreg, hpins⟩,
        fun _ hlt => absurd hlt (Nat.not_lt.2 hge), fun _ hroom => s.wmRecord_of_room value hroom⟩

/-- Settles O52: one theorem above for each of the commit, the read, DROP_PACKET and the watermarks. -/
theorem visitorBookKeepsItsOrder : Obligations.VisitorBookKeepsItsOrder := by
  intro s
  exact ⟨vbCommit_keepsOrder s, vbDataRead_takesOldest s, dropPacket_passesEndMark s, vbWmWrite_keepsLimits s⟩

end Sys2Proof.Machine
end

section
/-! The close of a Docent window (R187, R202): the verdict on TAU and DENSE, and the counts that start again. -/

namespace Sys2Proof.Machine

/-! Fields of other registers, and the flags of a job. -/

theorem State.rget_bump_other (s : State) (off n o : Nat) (h : o ≠ off) : (s.bump off n).rget o = s.rget o :=
  State.rget_setFld_other _ _ _ _ _ _ h

theorem State.rget_setDocX (s : State) (n : Nat) (x : DocX) (o : Nat) : (s.setDocX n x).rget o = s.rget o := rfl

/-- A field depends on its register alone. -/
theorem State.fld_congr {s t : State} {off : Nat} (lo w : Nat) (h : t.rget off = s.rget off) : t.fld off lo w = s.fld off lo w :=
  congrArg (fget · lo w) h

theorem State.rget_jobFlags (s : State) (h : Half) (fl : BitVec 11) (o : Nat) : (s.jobFlags h fl).rget o = s.rget o := by
  unfold State.jobFlags
  cases s.job h.toNat <;> rfl

theorem State.job_jobFlags (s : State) (h : Half) (fl : BitVec 11) (j : Job) (hj : s.job h.toNat = some j) :
    (s.jobFlags h fl).job h.toNat = some { j with flags := j.flags ||| fl } := by
  rw [State.jobFlags, hj]
  exact State.job_setJob_same _ _ _

/-! What changes registers and jobs alone. -/

/-- `t` differs from `s` in registers and jobs at most. -/
def State.KeepsRest (s t : State) : Prop := ∃ g js, t = { s with reg := g, jobs := js }

theorem State.KeepsRest.refl (s : State) : s.KeepsRest s := ⟨s.reg, s.jobs, rfl⟩

theorem State.KeepsRest.trans {s t u : State} (h : s.KeepsRest t) (h' : t.KeepsRest u) : s.KeepsRest u := by
  obtain ⟨g, js, rfl⟩ := h
  obtain ⟨g', js', rfl⟩ := h'
  exact ⟨g', js', rfl⟩

theorem State.setFld_keepsRest (s : State) (off lo w x : Nat) : s.KeepsRest (s.setFld off lo w x) := ⟨_, s.jobs, rfl⟩

theorem State.jobFlags_keepsRest (s : State) (h : Half) (fl : BitVec 11) : s.KeepsRest (s.jobFlags h fl) := by
  unfold State.jobFlags
  cases s.job h.toNat with
  | none => exact .refl s
  | some j => exact ⟨s.reg, _, rfl⟩

/-! A slot's registers are apart from the Docent registers of the device. -/

theorem docentSlot_ne_foy (k off o : Nat) (h : o < 0x140000) : docentSlot k off ≠ foy o := by
  unfold docentSlot foy; omega

theorem docentSlot_ne_docentSlot (k a b : Nat) (h : a ≠ b) : docentSlot k a ≠ docentSlot k b := by
  unfold docentSlot foy; omega

/-! One lowering of TAU. -/

/-- TAU after one lowering: less TAU_STEP, but not below TAU_MIN. -/
def State.tauLowered (s : State) (k : Nat) (r : DocRec) : Word :=
  f32Max (f32Sub (BitVec.ofNat 32 (s.fld (docentSlot k 0) 0 32)) r.tauStep) r.tauMin

/-- A lowering of TAU with its counts, in DOCENT.LOWERS and in the slot. -/
def State.lowerTau (s : State) (k : Nat) (r : DocRec) : State :=
  let u := (s.setFld (docentSlot k 0) 0 32 (s.tauLowered k r).toNat).bump (foy 0x90) 1
  u.setFld (docentSlot k 0) 32 8 (min 255 (u.fld (docentSlot k 0) 32 8 + 1))

section
variable (s : State) (k : Nat) (r : DocRec)

theorem State.lowerTau_keepsRest : s.KeepsRest (s.lowerTau k r) :=
  ((s.setFld_keepsRest ..).trans (State.setFld_keepsRest ..)).trans (State.setFld_keepsRest ..)

theorem State.lowerTau_jobs : (s.lowerTau k r).jobs = s.jobs := by
  rw [State.lowerTau, State.setFld_jobs, State.bump_jobs, State.setFld_jobs]

theorem State.rget_lowerTau_other (o : Nat) (hslot : o ≠ docentSlot k 0) (hcount : o ≠ foy 0x90) : (s.lowerTau k r).rget o = s.rget o := by
  rw [State.lowerTau, State.rget_setFld_other _ _ _ _ _ _ hslot, State.rget_bump_other _ _ _ _ hcount,
    State.rget_setFld_other _ _ _ _ _ _ hslot]

theorem State.fld_lowerTau_tau : (s.lowerTau k r).fld (docentSlot k 0) 0 32 = (s.tauLowered k r).toNat := by
  rw [State.lowerTau, State.fld_setFld_other _ _ _ _ _ _ _ (by decide) (by decide),
    State.fld_congr _ _ (State.rget_bump_other _ _ _ _ (docentSlot_ne_foy k 0 0x90 (by decide))),
    State.fld_setFld_same _ _ _ _ _ (by decide)]
  exact Nat.mod_eq_of_lt (s.tauLowered k r).isLt

theorem State.fld_lowerTau_dense : (s.lowerTau k r).fld (docentSlot k 0) 40 1 = s.fld (docentSlot k 0) 40 1 := by
  rw [State.lowerTau, State.fld_setFld_other _ _ _ _ _ _ _ (by decide) (by decide),
    State.fld_congr _ _ (State.rget_bump_other _ _ _ _ (docentSlot_ne_foy k 0 0x90 (by decide))),
    State.fld_setFld_other _ _ _ _ _ _ _ (by decide) (by decide)]

end

/-! The verdict on a window with samples: first TAU, then the flag and DENSE. -/

/-- What a miss rate above the limit does to TAU. -/
def State.judgeTau (s : State) (k : Nat) (r : DocRec) (above : Bool) : State :=
  if above && r.adapt then s.lowerTau k r else s

/-- What the miss rate does to PRED_MISS and to DENSE. -/
def State.judgeDense (s : State) (k : Nat) (job : Half) (r : DocRec) (above high : Bool) : State :=
  if high then
    if r.adapt then (s.jobFlags job flagPredMiss).setFld (docentSlot k 0) 40 1 1 else s.jobFlags job flagPredMiss
  else if above then s
  else s.setFld (docentSlot k 0) 40 1 0

section
variable (s : State) (k : Nat) (job : Half) (r : DocRec) (above high : Bool)

theorem State.judgeTau_keepsRest : s.KeepsRest (s.judgeTau k r above) := by
  unfold State.judgeTau
  split
  · exact s.lowerTau_keepsRest k r
  · exact .refl s

theorem State.judgeTau_jobs : (s.judgeTau k r above).jobs = s.jobs := by
  unfold State.judgeTau
  split
  · exact s.lowerTau_jobs k r
  · rfl

theorem State.rget_judgeTau_other (o : Nat) (hslot : o ≠ docentSlot k 0) (hcount : o ≠ foy 0x90) :
    (s.judgeTau k r above).rget o = s.rget o := by
  unfold State.judgeTau
  split
  · exact s.rget_lowerTau_other k r o hslot hcount
  · rfl

theorem State.fld_judgeTau_tau : (s.judgeTau k r above).fld (docentSlot k 0) 0 32 =
    if above = true ∧ r.adapt = true then (s.tauLowered k r).toNat else s.fld (docentSlot k 0) 0 32 := by
  simp only [State.judgeTau, ← Bool.and_eq_true]
  split
  · exact s.fld_lowerTau_tau k r
  · rfl

theorem State.fld_judgeTau_dense : (s.judgeTau k r above).fld (docentSlot k 0) 40 1 = s.fld (docentSlot k 0) 40 1 := by
  unfold State.judgeTau
  split
  · exact s.fld_lowerTau_dense k r
  · rfl

theorem State.judgeDense_keepsRest : s.KeepsRest (s.judgeDense k job r above high) := by
  have hflags := s.jobFlags_keepsRest job flagPredMiss
  unfold State.judgeDense
  split
  · split
    · exact hflags.trans (State.setFld_keepsRest ..)
    · exact hflags
  · split
    · exact .refl s
    · exact s.setFld_keepsRest ..

theorem State.judgeDense_jobs : (s.judgeDense k job r above high).jobs = if high then (s.jobFlags job flagPredMiss).jobs else s.jobs := by
  unfold State.judgeDense
  split
  · rw [apply_ite State.jobs, State.setFld_jobs, ite_self]
  · rw [apply_ite State.jobs, State.setFld_jobs, ite_self]

theorem State.rget_judgeDense_other (o : Nat) (hslot : o ≠ docentSlot k 0) : (s.judgeDense k job r above high).rget o = s.rget o := by
  unfold State.judgeDense
  split
  · split
    · rw [State.rget_setFld_other _ _ _ _ _ _ hslot, State.rget_jobFlags]
    · rw [State.rget_jobFlags]
  · split
    · rfl
    · rw [State.rget_setFld_other _ _ _ _ _ _ hslot]

theorem State.fld_judgeDense_tau : (s.judgeDense k job r above high).fld (docentSlot k 0) 0 32 = s.fld (docentSlot k 0) 0 32 := by
  unfold State.judgeDense
  split
  · split
    · rw [State.fld_setFld_other _ _ _ _ _ _ _ (by decide) (by decide), State.fld_congr _ _ (s.rget_jobFlags ..)]
    · rw [State.fld_congr _ _ (s.rget_jobFlags ..)]
  · split
    · rfl
    · rw [State.fld_setFld_other _ _ _ _ _ _ _ (by decide) (by decide)]

/-- A rate above four times the limit is above the limit. -/
theorem State.fld_judgeDense_dense (habove : high = true → above = true) :
    (s.judgeDense k job r above high).fld (docentSlot k 0) 40 1 =
      if high = true ∧ r.adapt = true then 1 else if above = true then s.fld (docentSlot k 0) 40 1 else 0 := by
  unfold State.judgeDense
  cases high with
  | true =>
    cases hadapt : r.adapt with
    | true => exact State.fld_setFld_one _ _ _ (by decide)
    | false => simp [habove, State.fld_congr _ _ (s.rget_jobFlags ..)]
  | false =>
    cases above with
    | true => rfl
    | false => exact State.fld_setFld_same _ _ _ _ _ (by decide)

end

/-! The close. -/

/-- The misses of the window of slot `k` exceed `n` times its limit. -/
def State.missAbove (s : State) (k n limit : Nat) : Bool :=
  decide (n * limit * s.fld (docentSlot k 8) 32 32 < s.fld (docentSlot k 8) 0 32 * 10000)

/-- The verdict on the window of slot `k`; none without samples. -/
def State.judgeWindow (s : State) (k : Nat) (x : DocX) (r : DocRec) : State :=
  if s.fld (docentSlot k 8) 32 32 = 0 then s
  else (s.judgeTau k r (s.missAbove k 1 x.limit)).judgeDense k x.job r (s.missAbove k 1 x.limit) (s.missAbove k 4 x.limit)

/-- The misses, the samples and the steps of slot `k` start again at 0. -/
def State.clearCounts (s : State) (k : Nat) : State := (s.rput (docentSlot k 8) 0).setFld (docentSlot k 0x10) 32 8 0

/-- A new window of slot `k`: its counts start again, under the settings of DOCENT.CTL. -/
def State.restartWindow (s : State) (k : Nat) (x : DocX) : State :=
  (s.clearCounts k).setDocX k { x with window := (s.clearCounts k).docWindow, limit := (s.clearCounts k).docLimit }

theorem State.closeWindowOf_eq (s : State) (k : Nat) (x : DocX) (r : DocRec) :
    s.closeWindowOf k x r = (s.judgeWindow k x r).restartWindow k x := by
  unfold State.judgeWindow State.missAbove
  rw [Nat.one_mul]
  rfl

theorem State.missAbove_of_four (s : State) (k limit : Nat) (h : s.missAbove k 4 limit = true) : s.missAbove k 1 limit = true := by
  rw [State.missAbove, decide_eq_true_eq] at h ⊢
  refine Nat.lt_of_le_of_lt (Nat.mul_le_mul_right _ (Nat.mul_le_mul_right _ (by decide))) h

section
variable (s : State) (k : Nat) (x : DocX) (r : DocRec)

theorem State.judgeWindow_keepsRest : s.KeepsRest (s.judgeWindow k x r) := by
  unfold State.judgeWindow
  split
  · exact .refl s
  · exact (s.judgeTau_keepsRest ..).trans (State.judgeDense_keepsRest ..)

theorem State.rget_judgeWindow_other (o : Nat) (hslot : o ≠ docentSlot k 0) (hcount : o ≠ foy 0x90) :
    (s.judgeWindow k x r).rget o = s.rget o := by
  unfold State.judgeWindow
  split
  · rfl
  · rw [State.rget_judgeDense_other _ _ _ _ _ _ _ hslot, State.rget_judgeTau_other _ _ _ _ _ hslot hcount]

theorem State.rget_clearCounts_other (o : Nat) (h8 : o ≠ docentSlot k 8) (h10 : o ≠ docentSlot k 0x10) :
    (s.clearCounts k).rget o = s.rget o :=
  (State.rget_setFld_other _ _ _ _ _ _ h10).trans (State.rget_rput_other _ _ _ _ h8)

theorem State.rget_clearCounts_samples : (s.clearCounts k).rget (docentSlot k 8) = 0 :=
  (State.rget_setFld_other _ _ _ _ _ _ (docentSlot_ne_docentSlot k _ _ (by decide))).trans (State.rget_rput_same _ _ _)

theorem State.fld_clearCounts_steps : (s.clearCounts k).fld (docentSlot k 0x10) 32 8 = 0 :=
  State.fld_setFld_same _ _ _ _ _ (by decide)

theorem State.fld_clearCounts_total : (s.clearCounts k).fld (docentSlot k 0x10) 0 32 = s.fld (docentSlot k 0x10) 0 32 :=
  (State.fld_setFld_other _ _ _ _ _ _ _ (by decide) (by decide)).trans
    (State.fld_congr _ _ (State.rget_rput_other _ _ _ _ (docentSlot_ne_docentSlot k _ _ (by decide))))

theorem State.clearCounts_frame : ∃ g, s.clearCounts k = { s with reg := g } := ⟨_, rfl⟩

theorem State.rget_restartWindow (o : Nat) : (s.restartWindow k x).rget o = (s.clearCounts k).rget o := State.rget_setDocX _ _ _ _

theorem State.restartWindow_jobs : (s.restartWindow k x).jobs = s.jobs := by
  rw [State.restartWindow, State.setDocX_jobs, State.clearCounts, State.setFld_jobs, State.rput_jobs]

/-- The settings of a window depend on DOCENT.CTL alone (R202). -/
theorem State.docSettings_congr {s t : State} (h : t.rget (foy 0x88) = s.rget (foy 0x88)) :
    t.docWindow = s.docWindow ∧ t.docLimit = s.docLimit :=
  ⟨congrArg (max 1 ·) (State.fld_congr _ _ h), congrArg (max 1 ·) (State.fld_congr _ _ h)⟩

theorem State.restartWindow_frame : ∃ g, s.restartWindow k x =
    { s with reg := g, docent := Assoc.put {} s.docent k { x with window := s.docWindow, limit := s.docLimit } } := by
  obtain ⟨hwindow, hlimit⟩ := State.docSettings_congr
    (s.rget_clearCounts_other k (foy 0x88) (docentSlot_ne_foy k _ _ (by decide)).symm (docentSlot_ne_foy k _ _ (by decide)).symm)
  obtain ⟨g, hg⟩ := s.clearCounts_frame k
  rw [State.restartWindow, hwindow, hlimit, hg]
  exact ⟨g, rfl⟩

end

theorem exec_docentWindowClose (slot : BitVec 10) (r : DocRec) (s : State) (hrc : (s.docX slot.toNat).rc = some r)
    (hdue : (s.docX slot.toNat).window ≤ s.fld (docentSlot slot.toNat 0x10) 32 8) :
    exec (.docentWindowClose slot) s =
      Host.Outcome.next ((s.judgeWindow slot.toNat (s.docX slot.toNat) r).restartWindow slot.toNat (s.docX slot.toNat)) := by
  change execDocentWindowClose slot s = _
  rw [execDocentWindowClose, hrc, ← State.closeWindowOf_eq]
  exact if_pos hdue

/-- What the verdict says of the job, TAU and DENSE, in the counts of the window. -/
theorem State.judgeWindow_spec (s : State) (k : Nat) (x : DocX) (r : DocRec) :
    let samples := s.fld (docentSlot k 8) 32 32
    let miss := s.fld (docentSlot k 8) 0 32
    let above := samples ≠ 0 ∧ x.limit * samples < miss * 10000
    let high := samples ≠ 0 ∧ 4 * x.limit * samples < miss * 10000
    let t := s.judgeWindow k x r
    (¬ high → t.jobs = s.jobs) ∧
    (∀ j, high → s.job x.job.toNat = some j → t.job x.job.toNat = some { j with flags := j.flags ||| flagPredMiss }) ∧
    (t.fld (docentSlot k 0) 0 32 = if above ∧ r.adapt = true then (s.tauLowered k r).toNat else s.fld (docentSlot k 0) 0 32) ∧
    (t.fld (docentSlot k 0) 40 1 = if samples = 0 then s.fld (docentSlot k 0) 40 1 else if high ∧ r.adapt = true then 1
      else if above then s.fld (docentSlot k 0) 40 1 else 0) := by
  intro samples miss above high t
  by_cases hnone : samples = 0
  · have ht : t = s := if_pos hnone
    have hnot : ∀ p : Prop, ¬ (samples ≠ 0 ∧ p) := fun _ h => h.1 hnone
    rw [ht, if_neg (fun h => hnot _ h.1), if_pos hnone]
    exact ⟨fun _ => rfl, fun _ h => absurd h (hnot _), rfl, rfl⟩
  · have ht : t = (s.judgeTau k r (s.missAbove k 1 x.limit)).judgeDense k x.job r (s.missAbove k 1 x.limit) (s.missAbove k 4 x.limit) :=
      if_neg hnone
    have habove : above ↔ s.missAbove k 1 x.limit = true := by
      rw [State.missAbove, decide_eq_true_eq, Nat.one_mul]; exact and_iff_right hnone
    have hhigh : high ↔ s.missAbove k 4 x.limit = true := by
      rw [State.missAbove, decide_eq_true_eq]; exact and_iff_right hnone
    have hjobs := s.judgeTau_jobs k r (s.missAbove k 1 x.limit)
    simp only [habove, hhigh, if_neg hnone]
    refine ⟨fun hlow => ?_, fun j hmany hj => ?_, ?_, ?_⟩
    · rw [ht, State.judgeDense_jobs, if_neg hlow, hjobs]
    · rw [ht, State.job, State.judgeDense_jobs, if_pos hmany]
      exact State.job_jobFlags _ _ _ _ ((congrArg (Assoc.find · _) hjobs).trans hj)
    · rw [ht, State.fld_judgeDense_tau, State.fld_judgeTau_tau]
    · rw [ht, State.fld_judgeDense_dense _ _ _ _ _ _ (s.missAbove_of_four k x.limit), State.fld_judgeTau_dense]

/-- Settles O33: the verdict (`State.judgeWindow_spec`) and the new window (`State.restartWindow_frame`) write different registers. -/
theorem docentWindowDecision : Obligations.DocentWindowDecision := by
  intro slot r s k x samples miss above high hrc hdue
  obtain ⟨hlow, hhigh, htau, hdense⟩ := s.judgeWindow_spec k x r
  have hreg := (s.judgeWindow k x r).rget_restartWindow k x
  have hstate := (hreg (docentSlot k 0)).trans (State.rget_clearCounts_other _ k _ (docentSlot_ne_docentSlot k _ _ (by decide))
    (docentSlot_ne_docentSlot k _ _ (by decide)))
  have htotal : (s.judgeWindow k x r).rget (docentSlot k 0x10) = s.rget (docentSlot k 0x10) :=
    s.rget_judgeWindow_other k x r _ (docentSlot_ne_docentSlot k _ _ (by decide)) (docentSlot_ne_foy k _ _ (by decide))
  have hjobs := (s.judgeWindow k x r).restartWindow_jobs k x
  refine ⟨(s.judgeWindow k x r).restartWindow k x, exec_docentWindowClose slot r s hrc hdue, ?frame, fun h => hjobs.trans (hlow h),
    fun j h hj => (congrArg (Assoc.find · _) hjobs).trans (hhigh j h hj), (hreg _).trans (State.rget_clearCounts_samples _ k),
    (State.fld_congr _ _ (hreg _)).trans (State.fld_clearCounts_steps _ k),
    (State.fld_congr _ _ (hreg _)).trans ((State.fld_clearCounts_total _ k).trans (State.fld_congr _ _ htotal)),
    (State.fld_congr _ _ hstate).trans htau, (State.fld_congr _ _ hstate).trans hdense⟩
  case frame =>
    obtain ⟨hwindow, hlimit⟩ := State.docSettings_congr
      (s.rget_judgeWindow_other k x r (foy 0x88) (docentSlot_ne_foy k _ _ (by decide)).symm (by decide))
    obtain ⟨g', hg'⟩ := (s.judgeWindow k x r).restartWindow_frame k x
    obtain ⟨g, js, hg⟩ := s.judgeWindow_keepsRest k x r
    rw [hg', hwindow, hlimit, hg]

end Sys2Proof.Machine
end

section
/-! The begin of a layer (R127, R189): the seed of a tensor, the TAU that Docent takes, and how the one can overwrite the other. -/

namespace Sys2Proof.Machine

theorem exec_layerStart (handle : Half) (s : State) (j : Job) (li st : Nat) (l : Layer) (hj : s.job handle.toNat = some j)
    (hphase : j.phase = .running) (hnext : j.nextLayer = some (li, st)) (hl : j.layers[li]? = some l) (hopen : s.windowOpen j li = false) :
    exec (.layerStart handle) s = Host.Outcome.next (s.beginLayer handle.toNat j li st l) := by
  change execLayerStart handle s = _
  simp [execLayerStart, hj, hphase, hnext, hl, hopen]

/-! Seeds. -/

theorem State.setNext_nextValid (s : State) (n w : Nat) (scale : Word) : (s.setNext n w scale).nextValid n = true :=
  decide_eq_true (State.fld_setFld_one _ _ _ (by decide))

theorem State.seedTempo_nextValid (s : State) (r : TempoRec) : (s.seedTempo r).nextValid r.tensor = true :=
  State.setNext_nextValid _ _ _ _

/-- A layer that produces one tensor, which has a seed and no NEXT yet, takes the seed and needs no measure pass. -/
theorem State.firstUse_seeded (s : State) (h : Nat) (r : TempoRec) (hseed : r.seedValid = true) (hnext : s.nextValid r.tensor = false) :
    s.firstUse h [r] = (s.seedTempo r, false) := by
  simp [State.firstUse, foldOver, hseed, hnext, s.seedTempo_nextValid r]

/-! The Docent slot of a job without clusters. -/

theorem State.docX_setDocX (s : State) (n : Nat) (x : DocX) : (s.setDocX n x).docX n = x := Assoc.get_put_same _ _ _ _

/-- Docent takes TAU from the slot's register as it stands when Docent begins, after the seeds of Tempo. -/
theorem State.beginDocent_tau (s : State) (h : Nat) (j : Job) (l : Layer) (slot : Nat) (r : DocRec)
    (hdoc : j.docentOf j.layer = some (slot, r)) (hhalls : hallsOf j.mapped = []) :
    ((s.beginDocent h j l).docX slot).tau.toNat = s.fld (docentSlot slot 0) 0 32 := by
  have hcount : ∀ (sets : Assoc (List Nat)) (t : State) (e : Nat × Nat),
      ((t.bump (cluReg e.1 0x20) 1).bump (cluReg e.1 0x28) ((Assoc.find sets e.2).getD []).length).docent = t.docent :=
    fun sets t e => (State.bump_docent ..).trans (State.bump_docent ..)
  rw [State.beginDocent, hdoc, hhalls]
  dsimp only
  rw [State.docX, foldOver_same State.docent _ (hcount _), ← State.docX, State.docX_setDocX]
  exact Nat.mod_eq_of_lt (fget_lt _ _ _)

/-! The first layer of a job. -/

theorem State.choosePath_rows (s : State) (h : Nat) (j : Job) (li : Nat) (l : Layer) (hop : l.op = 2) : s.choosePath h j li l = (s, j) :=
  if_pos (.inl hop)

theorem State.zeroLayer_rows (s : State) (j : Job) (li : Nat) (l : Layer) (measure : Bool) (hop : l.op = 2) (hcats : l.cats = []) :
    s.zeroLayer j li l measure = s := by
  rw [State.zeroLayer, hcats, if_pos (show l.split = 0 ∨ l.op = 2 from .inr hop)]
  exact ite_self _

/-- The job as it begins its first layer. -/
def Job.begun (j : Job) : Job :=
  { j with layer := 0, step := 0, started := true, measure := false, layerDone := 0, closed := [], splitDone := [], splitStage := [] }

/-- A row layer of a job without clusters and cores begins with its first use of Tempo, and goes on to Docent. -/
theorem State.beginLayer_rows (s u : State) (h : Nat) (j : Job) (l : Layer) (hnew : j.started = false) (hop : l.op = 2) (hcats : l.cats = [])
    (hcores : j.cores = []) (hclusters : clustersOf j.mapped = []) (hfirst : s.firstUse h l.produced = (u, false)) :
    s.beginLayer h j 0 0 l = (u.setJob h j.begun).beginDocent h j.begun l := by
  have hhalls : hallsOf j.mapped = [] := by simp [hallsOf, hclusters]
  simp only [State.beginLayer, hnew, Bool.false_and, hfirst, State.choosePath_rows _ _ _ _ _ hop, State.zeroLayer_rows _ _ _ _ _ hop hcats,
    hcores, hclusters, hhalls, indexed, List.length_nil, List.range_zero, List.zip_nil_right, foldOver, Job.begun, Bool.false_eq_true,
    if_false]

/-! A tensor number beyond the 4,096 slots of Tempo. -/

/-- Where the slots of Tempo end, those of Docent begin (R141, R204). -/
theorem tempoSlot_beyond (n : Nat) : tempoSlot (4096 + n) 0x20 = docentSlot (2 * n + 1) 0 := by
  unfold tempoSlot docentSlot foy; omega

/-- A slot with NEXT_VALID, bit 14 of its word, does not read as a TAU of 0. -/
theorem State.tau_ne_zero_of_nextValid (s : State) (n : Nat) (h : s.nextValid n = true) : s.fld (tempoSlot n 0x20) 0 32 ≠ 0 := by
  have hbit : s.fld (tempoSlot n 0x20) 14 1 = 1 := of_decide_eq_true h
  unfold State.fld fget bitsOf at hbit ⊢
  omega

/-! The state of the refutation. -/

/-- A seeded Tempo record of tensor 4,096, one more than Tempo has slots. -/
def beyondTempo : TempoRec :=
  { tensor := 4096, signed := false, mode := 0, hist := 0, seedValid := true, grouped := false, gsize := 0, wmin := 1, wmax := 7,
    pinW := 7, delta := 0x3F800000, seed := 0, pinS := 0, headroom := 0, satLimit := 0, outliers := 0, track := false, list := [] }

def beyondDocent : DocRec :=
  { inTensor := 0, uncal := false, adapt := false, rank := 0, neurons := 0, tau := 0, tauStep := 0, tauMin := 0, eps := 0, topk := 0,
    uAddr := 0, vAddr := 0, sigmaU := 0, sigmaV := 0 }

/-- A row layer that produces tensor 4,096 and has a Docent record. -/
def beyondLayer : Layer :=
  { op := 2, mode := 0, wa := 0, ww := 0, passes := 0, g := 0, path := 0, split := 0, ordHG := 0, ordGS := 0, ordSV := 0, ctv := false,
    lenM := 0, lenN := 0, lenK := 0, w := 0, a := 0, y := 4096, ct := 0, m := 0, n := 0, k := 0, kentry := 0, num := 0, tcount := 1,
    plcount := 0, pladdr := 0, taddr := 0, daddr := 0, caddr := 0, ccount := 0, eentry := 0, args := [], problems := [],
    tempos := [beyondTempo], docent := some beyondDocent, cats := [] }

/-- A running job that has not begun this layer, with Docent slot 1. -/
def beyondJob : Job :=
  { jobId := 1, ring := 0, order := 0, desc := 0, key := 0, cmask := 0, prio := 0, noirq := false, fence := false, mbx := 64, epoch := 0,
    peerset := 0, domain := 0, phase := .running, layers := [beyondLayer], docSlots := [1] }

/-- Job 1 runs; the window of slot 1 is not due, and its TAU is 0. -/
def beyondState : State := { State.reset with jobs := [(1, beyondJob)], docent := [(1, { window := 1 })] }

/-- Refutes O29: the first layer of `beyondJob` writes the seed of tensor 4,096 to NEXT of a Tempo slot past the last one, which is where
the TAU of Docent slot 1 stands, and Docent then takes the TAU that results. The statement says nothing of the range of a tensor number;
the loader reads 12 bits (`parseTempo`). -/
theorem not_layerStartBeginsTheLayer : ¬ Obligations.LayerStartBeginsTheLayer := by
  intro hall
  have hopen : beyondState.windowOpen beyondJob 0 = false := by decide
  have htau0 : beyondState.fld (docentSlot 1 0) 0 32 = 0 := by decide
  obtain ⟨hbegin, -⟩ := hall 1 beyondJob 0 0 beyondLayer beyondState rfl rfl rfl rfl
  obtain ⟨t, k, hexec, -, -, -, -, -, -, -, -, -, -, -, -, hdocent, -⟩ := hbegin hopen
  have hfirst : beyondState.firstUse 1 beyondLayer.produced = (beyondState.seedTempo beyondTempo, false) :=
    beyondState.firstUse_seeded 1 beyondTempo rfl (by decide)
  have ht : beyondState.beginLayer 1 beyondJob 0 0 beyondLayer = t :=
    Host.Outcome.next.inj ((exec_layerStart 1 beyondState beyondJob 0 0 beyondLayer rfl rfl rfl rfl hopen).symm.trans hexec)
  obtain ⟨htau, -⟩ := hdocent 1 beyondDocent rfl
  rw [← ht, State.beginLayer_rows _ _ 1 beyondJob beyondLayer rfl rfl rfl rfl (by decide) hfirst,
    State.beginDocent_tau _ _ _ _ 1 beyondDocent rfl (by decide), htau0,
    show docentSlot 1 0 = tempoSlot 4096 0x20 from (tempoSlot_beyond 0).symm] at htau
  exact State.tau_ne_zero_of_nextValid ((beyondState.seedTempo beyondTempo).setJob 1 beyondJob.begun) 4096
    (beyondState.seedTempo_nextValid beyondTempo) htau

end Sys2Proof.Machine
end
